-- ==== Sys2Proof/Word.lean ====
section
/-!
DEFINITION. The word types of the DXT-9100 (R2, R84) and the control bits every instruction word carries (Table 11.1).
-/
namespace Sys2Proof

/-- A 32-bit register value or instruction word. -/
abbrev Word := BitVec 32

/-- A 64-bit value held in a register pair (R2), a PC or a virtual address. -/
abbrev DWord := BitVec 64

/-- The unit of memory. -/
abbrev Byte := BitVec 8

/-- A register field of an instruction word (R87): 0 to 59 direct, 60 to 63 through X0 to X3. -/
abbrev RegField := BitVec 6

/-- The top bits of every word (Table 11.1): C chains to the next word, E ends the run, S is the stall count. -/
structure Ctl where
  c : Bool
  e : Bool
  s : BitVec 3
  deriving DecidableEq, Repr

end Sys2Proof
end

