-- ==== Sys2Proof/Syntax.lean ====
section
/-!
DEFINITION. The instructions of the DXT-9100, one constructor for each row of the opcode table.
The first 214 are the instruction words of Tables 11.3 to 11.10, with the operand fields the table gives them.
The last 71 are the steps of the device's other agents; their arguments say which operation, unit or value the step
concerns (DESIGN CHOICE, log entry 1).
-/
namespace Sys2Proof

/-- One step: an instruction word of an issuing cohort, or a step of another agent. -/
inductive Instr where
  | add (ctl : Ctl) (d : BitVec 6) (a : BitVec 6) (b : BitVec 6)
  | sub (ctl : Ctl) (d : BitVec 6) (a : BitVec 6) (b : BitVec 6)
  | adds (ctl : Ctl) (d : BitVec 6) (a : BitVec 6) (b : BitVec 6)
  | subs (ctl : Ctl) (d : BitVec 6) (a : BitVec 6) (b : BitVec 6)
  | mul (ctl : Ctl) (d : BitVec 6) (a : BitVec 6) (b : BitVec 6)
  | mulhi (ctl : Ctl) (d : BitVec 6) (a : BitVec 6) (b : BitVec 6)
  | mulhu (ctl : Ctl) (d : BitVec 6) (a : BitVec 6) (b : BitVec 6)
  | mad (ctl : Ctl) (d : BitVec 6) (a : BitVec 6) (b : BitVec 6)
  | div (ctl : Ctl) (d : BitVec 6) (a : BitVec 6) (b : BitVec 6)
  | divu (ctl : Ctl) (d : BitVec 6) (a : BitVec 6) (b : BitVec 6)
  | rem (ctl : Ctl) (d : BitVec 6) (a : BitVec 6) (b : BitVec 6)
  | remu (ctl : Ctl) (d : BitVec 6) (a : BitVec 6) (b : BitVec 6)
  | min (ctl : Ctl) (d : BitVec 6) (a : BitVec 6) (b : BitVec 6)
  | max (ctl : Ctl) (d : BitVec 6) (a : BitVec 6) (b : BitVec 6)
  | minu (ctl : Ctl) (d : BitVec 6) (a : BitVec 6) (b : BitVec 6)
  | maxu (ctl : Ctl) (d : BitVec 6) (a : BitVec 6) (b : BitVec 6)
  | and (ctl : Ctl) (d : BitVec 6) (a : BitVec 6) (b : BitVec 6)
  | or (ctl : Ctl) (d : BitVec 6) (a : BitVec 6) (b : BitVec 6)
  | xor (ctl : Ctl) (d : BitVec 6) (a : BitVec 6) (b : BitVec 6)
  | andn (ctl : Ctl) (d : BitVec 6) (a : BitVec 6) (b : BitVec 6)
  | shl (ctl : Ctl) (d : BitVec 6) (a : BitVec 6) (b : BitVec 6)
  | shr (ctl : Ctl) (d : BitVec 6) (a : BitVec 6) (b : BitVec 6)
  | sar (ctl : Ctl) (d : BitVec 6) (a : BitVec 6) (b : BitVec 6)
  | rotl (ctl : Ctl) (d : BitVec 6) (a : BitVec 6) (b : BitVec 6)
  | popc (ctl : Ctl) (d : BitVec 6) (a : BitVec 6)
  | clz (ctl : Ctl) (d : BitVec 6) (a : BitVec 6)
  | brev (ctl : Ctl) (d : BitVec 6) (a : BitVec 6)
  | bfx (ctl : Ctl) (d : BitVec 6) (a : BitVec 6) (b : BitVec 6)
  | bfi (ctl : Ctl) (d : BitVec 6) (a : BitVec 6) (b : BitVec 6)
  | sel (ctl : Ctl) (d : BitVec 6) (a : BitVec 6) (b : BitVec 6)
  | mov (ctl : Ctl) (d : BitVec 6) (a : BitVec 6)
  | addl (ctl : Ctl) (d : BitVec 6) (a : BitVec 6) (b : BitVec 6)
  | subl (ctl : Ctl) (d : BitVec 6) (a : BitVec 6) (b : BitVec 6)
  | mulw (ctl : Ctl) (d : BitVec 6) (a : BitVec 6) (b : BitVec 6)
  | mulwu (ctl : Ctl) (d : BitVec 6) (a : BitVec 6) (b : BitVec 6)
  | shll (ctl : Ctl) (d : BitVec 6) (a : BitVec 6) (b : BitVec 6)
  | shrl (ctl : Ctl) (d : BitVec 6) (a : BitVec 6) (b : BitVec 6)
  | sarl (ctl : Ctl) (d : BitVec 6) (a : BitVec 6) (b : BitVec 6)
  | movl (ctl : Ctl) (d : BitVec 6) (a : BitVec 6)
  | cmpeq (ctl : Ctl) (d : BitVec 6) (a : BitVec 6) (b : BitVec 6)
  | cmpne (ctl : Ctl) (d : BitVec 6) (a : BitVec 6) (b : BitVec 6)
  | cmplt (ctl : Ctl) (d : BitVec 6) (a : BitVec 6) (b : BitVec 6)
  | cmple (ctl : Ctl) (d : BitVec 6) (a : BitVec 6) (b : BitVec 6)
  | cmpltu (ctl : Ctl) (d : BitVec 6) (a : BitVec 6) (b : BitVec 6)
  | cmpleu (ctl : Ctl) (d : BitVec 6) (a : BitVec 6) (b : BitVec 6)
  | cmpeql (ctl : Ctl) (d : BitVec 6) (a : BitVec 6) (b : BitVec 6)
  | cmpltl (ctl : Ctl) (d : BitVec 6) (a : BitVec 6) (b : BitVec 6)
  | mfs (ctl : Ctl) (d : BitVec 6) (h : BitVec 6) (l : BitVec 6)
  | mts (ctl : Ctl) (h : BitVec 6) (l : BitVec 6) (b : BitVec 6)
  | shfl (ctl : Ctl) (d : BitVec 6) (a : BitVec 6) (b : BitVec 6)
  | ballot (ctl : Ctl) (d : BitVec 6) (a : BitVec 6)
  | matchMask (ctl : Ctl) (d : BitVec 6) (a : BitVec 6)
  | compact (ctl : Ctl) (d : BitVec 6) (a : BitVec 6) (b : BitVec 6)
  | gredadd (ctl : Ctl) (d : BitVec 6) (a : BitVec 6) (b : BitVec 6)
  | gscan (ctl : Ctl) (d : BitVec 6) (a : BitVec 6) (b : BitVec 6)
  | addi (ctl : Ctl) (d : BitVec 6) (a : BitVec 6) (i : BitVec 8)
  | andi (ctl : Ctl) (d : BitVec 6) (a : BitVec 6) (i : BitVec 8)
  | ori (ctl : Ctl) (d : BitVec 6) (a : BitVec 6) (i : BitVec 8)
  | xori (ctl : Ctl) (d : BitVec 6) (a : BitVec 6) (i : BitVec 8)
  | shli (ctl : Ctl) (d : BitVec 6) (a : BitVec 6) (i : BitVec 8)
  | shri (ctl : Ctl) (d : BitVec 6) (a : BitVec 6) (i : BitVec 8)
  | sari (ctl : Ctl) (d : BitVec 6) (a : BitVec 6) (i : BitVec 8)
  | cmpeqi (ctl : Ctl) (d : BitVec 6) (a : BitVec 6) (i : BitVec 8)
  | cmplti (ctl : Ctl) (d : BitVec 6) (a : BitVec 6) (i : BitVec 8)
  | cmpltui (ctl : Ctl) (d : BitVec 6) (a : BitVec 6) (i : BitVec 8)
  | muli (ctl : Ctl) (d : BitVec 6) (a : BitVec 6) (i : BitVec 8)
  | xset (ctl : Ctl) (x : BitVec 2) (l : BitVec 6) (i : BitVec 8)
  | xoff (ctl : Ctl) (x : BitVec 2) (a : BitVec 6) (i : BitVec 8)
  | xinc (ctl : Ctl) (x : BitVec 2) (i : BitVec 8)
  | li (ctl : Ctl) (d : BitVec 6) (i : BitVec 16)
  | lih (ctl : Ctl) (d : BitVec 6) (i : BitVec 16)
  | addiw (ctl : Ctl) (d : BitVec 6) (i : BitVec 16)
  | ldk (ctl : Ctl) (d : BitVec 6) (i : BitVec 16)
  | fadd (ctl : Ctl) (d : BitVec 6) (a : BitVec 6) (b : BitVec 6)
  | fsub (ctl : Ctl) (d : BitVec 6) (a : BitVec 6) (b : BitVec 6)
  | fmul (ctl : Ctl) (d : BitVec 6) (a : BitVec 6) (b : BitVec 6)
  | ffma (ctl : Ctl) (d : BitVec 6) (a : BitVec 6) (b : BitVec 6)
  | fmin (ctl : Ctl) (d : BitVec 6) (a : BitVec 6) (b : BitVec 6)
  | fmax (ctl : Ctl) (d : BitVec 6) (a : BitVec 6) (b : BitVec 6)
  | fabs (ctl : Ctl) (d : BitVec 6) (a : BitVec 6)
  | fneg (ctl : Ctl) (d : BitVec 6) (a : BitVec 6)
  | fcmpeq (ctl : Ctl) (d : BitVec 6) (a : BitVec 6) (b : BitVec 6)
  | fcmplt (ctl : Ctl) (d : BitVec 6) (a : BitVec 6) (b : BitVec 6)
  | fcmple (ctl : Ctl) (d : BitVec 6) (a : BitVec 6) (b : BitVec 6)
  | fcmpun (ctl : Ctl) (d : BitVec 6) (a : BitVec 6) (b : BitVec 6)
  | fdiv (ctl : Ctl) (d : BitVec 6) (a : BitVec 6) (b : BitVec 6)
  | fsqrt (ctl : Ctl) (d : BitVec 6) (a : BitVec 6)
  | frcp (ctl : Ctl) (d : BitVec 6) (a : BitVec 6)
  | frsq (ctl : Ctl) (d : BitVec 6) (a : BitVec 6)
  | dadd (ctl : Ctl) (d : BitVec 6) (a : BitVec 6) (b : BitVec 6)
  | dsub (ctl : Ctl) (d : BitVec 6) (a : BitVec 6) (b : BitVec 6)
  | dmul (ctl : Ctl) (d : BitVec 6) (a : BitVec 6) (b : BitVec 6)
  | dfma (ctl : Ctl) (d : BitVec 6) (a : BitVec 6) (b : BitVec 6)
  | dmin (ctl : Ctl) (d : BitVec 6) (a : BitVec 6) (b : BitVec 6)
  | dmax (ctl : Ctl) (d : BitVec 6) (a : BitVec 6) (b : BitVec 6)
  | dabs (ctl : Ctl) (d : BitVec 6) (a : BitVec 6)
  | dneg (ctl : Ctl) (d : BitVec 6) (a : BitVec 6)
  | dcmpeq (ctl : Ctl) (d : BitVec 6) (a : BitVec 6) (b : BitVec 6)
  | dcmplt (ctl : Ctl) (d : BitVec 6) (a : BitVec 6) (b : BitVec 6)
  | dcmple (ctl : Ctl) (d : BitVec 6) (a : BitVec 6) (b : BitVec 6)
  | dcmpun (ctl : Ctl) (d : BitVec 6) (a : BitVec 6) (b : BitVec 6)
  | ddiv (ctl : Ctl) (d : BitVec 6) (a : BitVec 6) (b : BitVec 6)
  | dsqrt (ctl : Ctl) (d : BitVec 6) (a : BitVec 6)
  | fex2 (ctl : Ctl) (d : BitVec 6) (a : BitVec 6)
  | flg2 (ctl : Ctl) (d : BitVec 6) (a : BitVec 6)
  | fsinp (ctl : Ctl) (d : BitVec 6) (a : BitVec 6)
  | fcosp (ctl : Ctl) (d : BitVec 6) (a : BitVec 6)
  | ftanh (ctl : Ctl) (d : BitVec 6) (a : BitVec 6)
  | cvtif (ctl : Ctl) (d : BitVec 6) (a : BitVec 6)
  | cvtuf (ctl : Ctl) (d : BitVec 6) (a : BitVec 6)
  | cvtfi (ctl : Ctl) (d : BitVec 6) (a : BitVec 6)
  | cvtfu (ctl : Ctl) (d : BitVec 6) (a : BitVec 6)
  | cvtfd (ctl : Ctl) (d : BitVec 6) (a : BitVec 6)
  | cvtdf (ctl : Ctl) (d : BitVec 6) (a : BitVec 6)
  | cvtid (ctl : Ctl) (d : BitVec 6) (a : BitVec 6)
  | cvtdi (ctl : Ctl) (d : BitVec 6) (a : BitVec 6)
  | cvtfh (ctl : Ctl) (d : BitVec 6) (a : BitVec 6)
  | cvthf (ctl : Ctl) (d : BitVec 6) (a : BitVec 6)
  | cvtfb (ctl : Ctl) (d : BitVec 6) (a : BitVec 6)
  | cvtbf (ctl : Ctl) (d : BitVec 6) (a : BitVec 6)
  | cvtf8a (ctl : Ctl) (d : BitVec 6) (a : BitVec 6)
  | cvtf8b (ctl : Ctl) (d : BitVec 6) (a : BitVec 6)
  | cvt8af (ctl : Ctl) (d : BitVec 6) (a : BitVec 6)
  | cvt8bf (ctl : Ctl) (d : BitVec 6) (a : BitVec 6)
  | nqdec (ctl : Ctl) (d : BitVec 6) (a : BitVec 6)
  | nqenc (ctl : Ctl) (d : BitVec 6) (a : BitVec 6)
  | ldb (ctl : Ctl) (d : BitVec 6) (a : BitVec 6) (o : BitVec 7)
  | ldbs (ctl : Ctl) (d : BitVec 6) (a : BitVec 6) (o : BitVec 7)
  | ldh (ctl : Ctl) (d : BitVec 6) (a : BitVec 6) (o : BitVec 7)
  | ldhs (ctl : Ctl) (d : BitVec 6) (a : BitVec 6) (o : BitVec 7)
  | ldw (ctl : Ctl) (d : BitVec 6) (a : BitVec 6) (o : BitVec 7)
  | ldl (ctl : Ctl) (d : BitVec 6) (a : BitVec 6) (o : BitVec 7)
  | ldq (ctl : Ctl) (d : BitVec 6) (a : BitVec 6) (o : BitVec 7)
  | stb (ctl : Ctl) (d : BitVec 6) (a : BitVec 6) (o : BitVec 7)
  | sth (ctl : Ctl) (d : BitVec 6) (a : BitVec 6) (o : BitVec 7)
  | stw (ctl : Ctl) (d : BitVec 6) (a : BitVec 6) (o : BitVec 7)
  | stl (ctl : Ctl) (d : BitVec 6) (a : BitVec 6) (o : BitVec 7)
  | stq (ctl : Ctl) (d : BitVec 6) (a : BitVec 6) (o : BitVec 7)
  | ldf (ctl : Ctl) (d : BitVec 6) (a : BitVec 6) (o : BitVec 7)
  | ldff (ctl : Ctl) (d : BitVec 6) (a : BitVec 6) (o : BitVec 7)
  | ste (ctl : Ctl) (d : BitVec 6) (a : BitVec 6) (o : BitVec 7)
  | stf (ctl : Ctl) (d : BitVec 6) (a : BitVec 6) (o : BitVec 7)
  | sete (ctl : Ctl) (a : BitVec 6) (o : BitVec 7)
  | ldwr (ctl : Ctl) (d : BitVec 6) (a : BitVec 6) (r : BitVec 3)
  | ldacq (ctl : Ctl) (d : BitVec 6) (a : BitVec 6) (p : BitVec 3)
  | strel (ctl : Ctl) (d : BitVec 6) (a : BitVec 6) (p : BitVec 3)
  | pref (ctl : Ctl) (a : BitVec 6) (o : BitVec 7)
  | aadd (ctl : Ctl) (p : BitVec 3) (d : BitVec 6) (a : BitVec 6) (b : BitVec 6)
  | axchg (ctl : Ctl) (p : BitVec 3) (d : BitVec 6) (a : BitVec 6) (b : BitVec 6)
  | acas (ctl : Ctl) (p : BitVec 3) (d : BitVec 6) (a : BitVec 6) (b : BitVec 6)
  | amin (ctl : Ctl) (p : BitVec 3) (d : BitVec 6) (a : BitVec 6) (b : BitVec 6)
  | amax (ctl : Ctl) (p : BitVec 3) (d : BitVec 6) (a : BitVec 6) (b : BitVec 6)
  | aand (ctl : Ctl) (p : BitVec 3) (d : BitVec 6) (a : BitVec 6) (b : BitVec 6)
  | aor (ctl : Ctl) (p : BitVec 3) (d : BitVec 6) (a : BitVec 6) (b : BitVec 6)
  | afadd (ctl : Ctl) (p : BitVec 3) (d : BitVec 6) (a : BitVec 6) (b : BitVec 6)
  | red (ctl : Ctl) (p : BitVec 3) (k : BitVec 6) (a : BitVec 6) (b : BitVec 6)
  | fence (ctl : Ctl) (p : BitVec 3) (k : BitVec 6)
  | waitv (ctl : Ctl) (p : BitVec 3) (a : BitVec 6) (b : BitVec 6)
  | notify (ctl : Ctl) (p : BitVec 3) (k : BitVec 6) (a : BitVec 6)
  | qlock (ctl : Ctl) (p : BitVec 3) (a : BitVec 6)
  | qunlock (ctl : Ctl) (p : BitVec 3) (a : BitVec 6)
  | bar (ctl : Ctl) (p : BitVec 3) (a : BitVec 6)
  | binit (ctl : Ctl) (p : BitVec 3) (k : BitVec 6) (a : BitVec 6) (b : BitVec 6)
  | bra (ctl : Ctl) (o : BitVec 14)
  | bnz (ctl : Ctl) (a : BitVec 6) (o : BitVec 14)
  | bz (ctl : Ctl) (a : BitVec 6) (o : BitVec 14)
  | call (ctl : Ctl) (o : BitVec 14)
  | brx (ctl : Ctl) (a : BitVec 6)
  | callx (ctl : Ctl) (a : BitVec 6)
  | ret (ctl : Ctl)
  | dbnz (ctl : Ctl) (a : BitVec 6) (o : BitVec 14)
  | nop (ctl : Ctl)
  | exit (ctl : Ctl) (i : BitVec 4)
  | yield (ctl : Ctl)
  | trap (ctl : Ctl) (n : BitVec 6)
  | tret (ctl : Ctl)
  | joinset (ctl : Ctl) (r : BitVec 3) (a : BitVec 6)
  | join (ctl : Ctl) (r : BitVec 3)
  | regrp (ctl : Ctl) (a : BitVec 6)
  | grow (ctl : Ctl) (n : BitVec 6)
  | shrink (ctl : Ctl) (n : BitVec 6)
  | growt (ctl : Ctl) (d : BitVec 6) (n : BitVec 6)
  | tdset (ctl : Ctl) (t : BitVec 5) (a : BitVec 6)
  | tdget (ctl : Ctl) (d : BitVec 6) (t : BitVec 5)
  | cvset (ctl : Ctl) (a : BitVec 6) (v : BitVec 4)
  | ofence (ctl : Ctl)
  | mma (ctl : Ctl) (m : BitVec 4) (a : BitVec 6) (v : BitVec 4)
  | mwait (ctl : Ctl) (v : BitVec 4)
  | mdrain (ctl : Ctl) (m : BitVec 5) (a : BitVec 6) (v : BitVec 4)
  | wbload (ctl : Ctl) (t : BitVec 5) (a : BitVec 6)
  | obres (ctl : Ctl) (n : BitVec 6) (a : BitVec 6)
  | obrel (ctl : Ctl) (n : BitVec 6)
  | twalk (ctl : Ctl) (d : BitVec 6) (a : BitVec 6) (p : BitVec 2)
  | sacl (ctl : Ctl) (d : BitVec 6) (a : BitVec 6)
  | sacs (ctl : Ctl) (a : BitVec 6)
  | copy (ctl : Ctl) (g : BitVec 6) (a : BitVec 6) (k : BitVec 4)
  | chaingo (ctl : Ctl) (h : BitVec 6) (a : BitVec 6)
  | twait (ctl : Ctl) (a : BitVec 6)
  | twany (ctl : Ctl) (a : BitVec 6)
  | tffr (ctl : Ctl) (d : BitVec 6) (a : BitVec 6)
  | tclr (ctl : Ctl) (a : BitVec 6)
  | coll (ctl : Ctl) (a : BitVec 6)
  | spawn (ctl : Ctl) (d : BitVec 6) (a : BitVec 6)
  | tsig (ctl : Ctl) (a : BitVec 6)
  | mwrite (ctl : Ctl) (a : BitVec 6)
  | prop (ctl : Ctl) (d : BitVec 6) (a : BitVec 6)
  | trfree (ctl : Ctl) (a : BitVec 6)
  | trstat (ctl : Ctl) (d : BitVec 6) (a : BitVec 6)
  | rclaim (ctl : Ctl) (d : BitVec 6) (a : BitVec 6) (k : BitVec 4)
  | rcommit (ctl : Ctl) (d : BitVec 6) (a : BitVec 6) (k : BitVec 4)
  | rawait (ctl : Ctl) (d : BitVec 6) (a : BitVec 6) (k : BitVec 4)
  | rretire (ctl : Ctl) (d : BitVec 6) (a : BitVec 6) (k : BitVec 4)
  | wfe (ctl : Ctl)
  | itlb (ctl : Ctl) (a : BitVec 6)
  | dataReturn (op : Nat) (ecc : Bool)
  | variableLatencyComplete (op : Nat)
  | storePerformed (op : Nat)
  | reductionApply (op : Nat)
  | shrinkRowReturn (op : Nat)
  | copyComplete (op : Nat) (ecc : Option Nat)
  | chainRecordComplete (core chan : Nat)
  | matrixOpComplete (op : Nat) (ecc : Option Nat)
  | twalkComplete (op : Nat)
  | collTimeout (group : Nat)
  | collDecisionTimeout (group : Nat)
  | detCommit (launch : Nat)
  | detSampleCompare (launch block : Nat)
  | blockEnd (block : Nat)
  | blockDispatch (panel : Nat)
  | taskTake (core : Nat)
  | launchComplete (launch : Nat)
  | launch (slot : Nat)
  | gang (slot : Nat)
  | propCommand (slot : Nat)
  | waitw (slot : Nat)
  | sigw (slot : Nat)
  | waitwPoll (slot : Nat)
  | kick (byHost : Bool) (source : Nat) (queue : BitVec 16)
  | growDeadlockCheck (core : Nat)
  | waitWatchdog (ctx : Nat)
  | deferredStoreError (op : Nat) (cause : BitVec 10)
  | contextSave (core slot : Nat)
  | contextRestore (core slot toCore : Nat)
  | remoteTimeout (op : Nat)
  | starvationTimeExpiry (core slot : Nat) (pc : DWord)
  | frespReplay (core entry : Nat)
  | frespFail (core entry : Nat)
  | machineCheck (block core code : Nat)
  | preemptionRequest (core slot : Nat)
  | partitionSwap (outgoing incoming : Nat)
  | slotMap (slot : Nat)
  | slotUnmap (slot : Nat)
  | queueAgeTick
  | powerRefresh (panel : Nat) (headroom : BitVec 2) (junction : Nat)
  | powerFault
  | flitReceive (link : Nat) (crcOk : Bool) (seq ack : BitVec 12)
  | linkDown (link : Nat)
  | laneLoss (link : Nat)
  | routeEntryWrite (device : BitVec 8) (mask : BitVec 12)
  | collGroupEntryWrite (group : BitVec 8) (index : BitVec 4) (value : Word)
  /-- key is the group and the collective's number on it. -/
  | collContribution (key : Nat × Nat) (rank : Nat) (data : List Byte)
  | collAbortReport (key : Nat × Nat) (rank : Nat) (code : BitVec 10)
  | collDecision (key : Nat × Nat) (commit : Bool) (code : BitVec 10) (rank : Nat) (data : List Byte)
  /-- what is the partition to admit in, or the device that has refused. -/
  | gangReservation (device : BitVec 8) (gang : Nat) (descriptors : List Nat) (what : Nat ⊕ BitVec 8)
  | gangStart (device : BitVec 8) (gang : Nat)
  | gangStartAck (device : BitVec 8) (gang : Nat)
  /-- gang is its number, with its issuer where that is another device. -/
  | gangAckTimeout (device : BitVec 8) (gang : Nat × Option (BitVec 8))
  | hostApertureRead (fn bar offset len : Nat)
  | hostApertureWrite (fn bar offset : Nat) (data : List Byte)
  | vfFlr (vf : Nat)
  | pfFlr
  | powerOnReset
  | bootLinkUp
  | bootDhcpReply (url : Option Bool)
  | bootImageFetched (status : Nat) (image : List Byte)
  | bootAttemptTimeout
  | bootcmdVerify
  | attestationSign
  | attestationComplete
  | stewardTimer (panel : Nat)
  | registerWrite (addr : Nat) (value : Word)
  | partitionCreate (part : Nat) (quads : List Nat) (root queueTable : Nat) (slots : List Nat) (sacShare sacRegion : Nat)
  | partitionDestroy (part : Nat)
  | sacShareChange (part share : Nat)
  /-- link is its rate and the sizes of BARs, by function. -/
  | pcieLinkTraining (link : Nat × List (Nat × Nat))
  deriving DecidableEq, Repr

end Sys2Proof
end

