-- ==== Sys2Proof/WellFormed.lean ====
section
/-!
DEFINITION. Which instructions have an encoding a thread may issue: the number fields' legal sets (R98 step 4, Tables
11.3 to 11.10), the words a steward lacks (R100) and the words a user thread may not issue (R98 step 3).
The flag st is true on a steward core. For the steps of other agents: the ranges the spec gives their units.
-/
namespace Sys2Proof

/-- A direct address field is even (R71, R87). -/
def addrOk (a : RegField) : Bool := decide (60 ≤ a.toNat) || decide (a.toNat % 2 = 0)

/-- A direct block of n registers ends at V59 or below (R87). -/
def blockOk (v : RegField) (n : Nat) : Bool := decide (60 ≤ v.toNat) || decide (v.toNat + n ≤ 60)

/-- WAITV at scope code 7 names V[b+1], so b is direct and at most 58 (R129). -/
def waitOk (p : BitVec 3) (b : RegField) : Bool := decide (p.toNat ≠ 7) || decide (b.toNat ≤ 58)

/-- COPY: the kind is 0 to 3, and only kind 0 names a tag (R177). -/
def copyOk (g : RegField) (k : BitVec 4) : Bool := decide (k.toNat ≤ 3) && (decide (k.toNat = 0) || decide (g.toNat = 0))

/-- The special number of MFS and MTS (R89). -/
def specialNumber (h l : BitVec 6) : Nat := h.toNat * 64 + l.toNat

/-- A special number that names a register of Table 12.3. -/
def assignedSpecial (n : Nat) : Bool :=
  decide (n ≤ 0x045) && decide (n ≠ 0x01F) || decide (0x050 ≤ n) && decide (n ≤ 0x052)

/-- A number 0x100 to 0x1FF, which a user thread may not name (R90). -/
def privilegedSpecial (n : Nat) : Bool := decide (0x100 ≤ n) && decide (n ≤ 0x1FF)

/-- MFS may read it (R90). -/
def readable (st : Bool) (h l : BitVec 6) : Bool :=
  let n := specialNumber h l
  assignedSpecial n || st && (decide (n = 0x100) || decide (n = 0x102) || decide (n = 0x103))

/-- MTS may write it (R90, Table 12.3). -/
def writable (st : Bool) (h l : BitVec 6) : Bool :=
  let n := specialNumber h l
  decide (n = 0x016) || decide (n = 0x017) || decide (0x038 ≤ n) && decide (n ≤ 0x041) ||
    decide (0x043 ≤ n) && decide (n ≤ 0x045) || st && decide (0x100 ≤ n) && decide (n ≤ 0x103)

/-- The instruction is a word, not a step of another agent. -/
def Instr.isWord : Instr → Bool
  | .add _ _ _ _ => true
  | .sub _ _ _ _ => true
  | .adds _ _ _ _ => true
  | .subs _ _ _ _ => true
  | .mul _ _ _ _ => true
  | .mulhi _ _ _ _ => true
  | .mulhu _ _ _ _ => true
  | .mad _ _ _ _ => true
  | .div _ _ _ _ => true
  | .divu _ _ _ _ => true
  | .rem _ _ _ _ => true
  | .remu _ _ _ _ => true
  | .min _ _ _ _ => true
  | .max _ _ _ _ => true
  | .minu _ _ _ _ => true
  | .maxu _ _ _ _ => true
  | .and _ _ _ _ => true
  | .or _ _ _ _ => true
  | .xor _ _ _ _ => true
  | .andn _ _ _ _ => true
  | .shl _ _ _ _ => true
  | .shr _ _ _ _ => true
  | .sar _ _ _ _ => true
  | .rotl _ _ _ _ => true
  | .popc _ _ _ => true
  | .clz _ _ _ => true
  | .brev _ _ _ => true
  | .bfx _ _ _ _ => true
  | .bfi _ _ _ _ => true
  | .sel _ _ _ _ => true
  | .mov _ _ _ => true
  | .addl _ _ _ _ => true
  | .subl _ _ _ _ => true
  | .mulw _ _ _ _ => true
  | .mulwu _ _ _ _ => true
  | .shll _ _ _ _ => true
  | .shrl _ _ _ _ => true
  | .sarl _ _ _ _ => true
  | .movl _ _ _ => true
  | .cmpeq _ _ _ _ => true
  | .cmpne _ _ _ _ => true
  | .cmplt _ _ _ _ => true
  | .cmple _ _ _ _ => true
  | .cmpltu _ _ _ _ => true
  | .cmpleu _ _ _ _ => true
  | .cmpeql _ _ _ _ => true
  | .cmpltl _ _ _ _ => true
  | .mfs _ _ _ _ => true
  | .mts _ _ _ _ => true
  | .shfl _ _ _ _ => true
  | .ballot _ _ _ => true
  | .matchMask _ _ _ => true
  | .compact _ _ _ _ => true
  | .gredadd _ _ _ _ => true
  | .gscan _ _ _ _ => true
  | .addi _ _ _ _ => true
  | .andi _ _ _ _ => true
  | .ori _ _ _ _ => true
  | .xori _ _ _ _ => true
  | .shli _ _ _ _ => true
  | .shri _ _ _ _ => true
  | .sari _ _ _ _ => true
  | .cmpeqi _ _ _ _ => true
  | .cmplti _ _ _ _ => true
  | .cmpltui _ _ _ _ => true
  | .muli _ _ _ _ => true
  | .xset _ _ _ _ => true
  | .xoff _ _ _ _ => true
  | .xinc _ _ _ => true
  | .li _ _ _ => true
  | .lih _ _ _ => true
  | .addiw _ _ _ => true
  | .ldk _ _ _ => true
  | .fadd _ _ _ _ => true
  | .fsub _ _ _ _ => true
  | .fmul _ _ _ _ => true
  | .ffma _ _ _ _ => true
  | .fmin _ _ _ _ => true
  | .fmax _ _ _ _ => true
  | .fabs _ _ _ => true
  | .fneg _ _ _ => true
  | .fcmpeq _ _ _ _ => true
  | .fcmplt _ _ _ _ => true
  | .fcmple _ _ _ _ => true
  | .fcmpun _ _ _ _ => true
  | .fdiv _ _ _ _ => true
  | .fsqrt _ _ _ => true
  | .frcp _ _ _ => true
  | .frsq _ _ _ => true
  | .dadd _ _ _ _ => true
  | .dsub _ _ _ _ => true
  | .dmul _ _ _ _ => true
  | .dfma _ _ _ _ => true
  | .dmin _ _ _ _ => true
  | .dmax _ _ _ _ => true
  | .dabs _ _ _ => true
  | .dneg _ _ _ => true
  | .dcmpeq _ _ _ _ => true
  | .dcmplt _ _ _ _ => true
  | .dcmple _ _ _ _ => true
  | .dcmpun _ _ _ _ => true
  | .ddiv _ _ _ _ => true
  | .dsqrt _ _ _ => true
  | .fex2 _ _ _ => true
  | .flg2 _ _ _ => true
  | .fsinp _ _ _ => true
  | .fcosp _ _ _ => true
  | .ftanh _ _ _ => true
  | .cvtif _ _ _ => true
  | .cvtuf _ _ _ => true
  | .cvtfi _ _ _ => true
  | .cvtfu _ _ _ => true
  | .cvtfd _ _ _ => true
  | .cvtdf _ _ _ => true
  | .cvtid _ _ _ => true
  | .cvtdi _ _ _ => true
  | .cvtfh _ _ _ => true
  | .cvthf _ _ _ => true
  | .cvtfb _ _ _ => true
  | .cvtbf _ _ _ => true
  | .cvtf8a _ _ _ => true
  | .cvtf8b _ _ _ => true
  | .cvt8af _ _ _ => true
  | .cvt8bf _ _ _ => true
  | .nqdec _ _ _ => true
  | .nqenc _ _ _ => true
  | .ldb _ _ _ _ => true
  | .ldbs _ _ _ _ => true
  | .ldh _ _ _ _ => true
  | .ldhs _ _ _ _ => true
  | .ldw _ _ _ _ => true
  | .ldl _ _ _ _ => true
  | .ldq _ _ _ _ => true
  | .stb _ _ _ _ => true
  | .sth _ _ _ _ => true
  | .stw _ _ _ _ => true
  | .stl _ _ _ _ => true
  | .stq _ _ _ _ => true
  | .ldf _ _ _ _ => true
  | .ldff _ _ _ _ => true
  | .ste _ _ _ _ => true
  | .stf _ _ _ _ => true
  | .sete _ _ _ => true
  | .ldwr _ _ _ _ => true
  | .ldacq _ _ _ _ => true
  | .strel _ _ _ _ => true
  | .pref _ _ _ => true
  | .aadd _ _ _ _ _ => true
  | .axchg _ _ _ _ _ => true
  | .acas _ _ _ _ _ => true
  | .amin _ _ _ _ _ => true
  | .amax _ _ _ _ _ => true
  | .aand _ _ _ _ _ => true
  | .aor _ _ _ _ _ => true
  | .afadd _ _ _ _ _ => true
  | .red _ _ _ _ _ => true
  | .fence _ _ _ => true
  | .waitv _ _ _ _ => true
  | .notify _ _ _ _ => true
  | .qlock _ _ _ => true
  | .qunlock _ _ _ => true
  | .bar _ _ _ => true
  | .binit _ _ _ _ _ => true
  | .bra _ _ => true
  | .bnz _ _ _ => true
  | .bz _ _ _ => true
  | .call _ _ => true
  | .brx _ _ => true
  | .callx _ _ => true
  | .ret _ => true
  | .dbnz _ _ _ => true
  | .nop _ => true
  | .exit _ _ => true
  | .yield _ => true
  | .trap _ _ => true
  | .tret _ => true
  | .joinset _ _ _ => true
  | .join _ _ => true
  | .regrp _ _ => true
  | .grow _ _ => true
  | .shrink _ _ => true
  | .growt _ _ _ => true
  | .tdset _ _ _ => true
  | .tdget _ _ _ => true
  | .cvset _ _ _ => true
  | .ofence _ => true
  | .mma _ _ _ _ => true
  | .mwait _ _ => true
  | .mdrain _ _ _ _ => true
  | .wbload _ _ _ => true
  | .obres _ _ _ => true
  | .obrel _ _ => true
  | .twalk _ _ _ _ => true
  | .sacl _ _ _ => true
  | .sacs _ _ => true
  | .copy _ _ _ _ => true
  | .chaingo _ _ _ => true
  | .twait _ _ => true
  | .twany _ _ => true
  | .tffr _ _ _ => true
  | .tclr _ _ => true
  | .coll _ _ => true
  | .spawn _ _ _ => true
  | .tsig _ _ => true
  | .mwrite _ _ => true
  | .prop _ _ _ => true
  | .trfree _ _ => true
  | .trstat _ _ _ => true
  | .rclaim _ _ _ _ => true
  | .rcommit _ _ _ _ => true
  | .rawait _ _ _ _ => true
  | .rretire _ _ _ _ => true
  | .wfe _ => true
  | .itlb _ _ => true
  | .dataReturn _ _ => false
  | .variableLatencyComplete _ => false
  | .storePerformed _ => false
  | .reductionApply _ => false
  | .shrinkRowReturn _ => false
  | .copyComplete _ _ => false
  | .chainRecordComplete _ _ => false
  | .matrixOpComplete _ _ => false
  | .twalkComplete _ => false
  | .collTimeout _ => false
  | .collDecisionTimeout _ => false
  | .detCommit _ => false
  | .detSampleCompare _ _ => false
  | .blockEnd _ => false
  | .blockDispatch _ => false
  | .taskTake _ => false
  | .launchComplete _ => false
  | .launch _ => false
  | .gang _ => false
  | .propCommand _ => false
  | .waitw _ => false
  | .sigw _ => false
  | .waitwPoll _ => false
  | .kick _ _ _ => false
  | .growDeadlockCheck _ => false
  | .waitWatchdog _ => false
  | .deferredStoreError _ _ => false
  | .contextSave _ _ => false
  | .contextRestore _ _ _ => false
  | .remoteTimeout _ => false
  | .starvationTimeExpiry _ _ _ => false
  | .frespReplay _ _ => false
  | .frespFail _ _ => false
  | .machineCheck _ _ _ => false
  | .preemptionRequest _ _ => false
  | .partitionSwap _ _ => false
  | .slotMap _ => false
  | .slotUnmap _ => false
  | .queueAgeTick => false
  | .powerRefresh _ _ _ => false
  | .powerFault => false
  | .flitReceive _ _ _ _ => false
  | .linkDown _ => false
  | .laneLoss _ => false
  | .routeEntryWrite _ _ => false
  | .collGroupEntryWrite _ _ _ => false
  | .collContribution _ _ _ => false
  | .collAbortReport _ _ _ => false
  | .collDecision _ _ _ _ _ => false
  | .gangReservation _ _ _ _ => false
  | .gangStart _ _ => false
  | .gangStartAck _ _ => false
  | .gangAckTimeout _ _ => false
  | .hostApertureRead _ _ _ _ => false
  | .hostApertureWrite _ _ _ _ => false
  | .vfFlr _ => false
  | .pfFlr => false
  | .powerOnReset => false
  | .bootLinkUp => false
  | .bootDhcpReply _ => false
  | .bootImageFetched _ _ => false
  | .bootAttemptTimeout => false
  | .bootcmdVerify => false
  | .attestationSign => false
  | .attestationComplete => false
  | .stewardTimer _ => false
  | .registerWrite _ _ => false
  | .partitionCreate _ _ _ _ _ _ _ => false
  | .partitionDestroy _ => false
  | .sacShareChange _ _ => false
  | .pcieLinkTraining _ => false

/-- The instruction is well formed on a steward (st true) or a user core. -/
def Instr.wf (st : Bool) : Instr → Bool
  | .add _ _ _ _ => true
  | .sub _ _ _ _ => true
  | .adds _ _ _ _ => true
  | .subs _ _ _ _ => true
  | .mul _ _ _ _ => true
  | .mulhi _ _ _ _ => true
  | .mulhu _ _ _ _ => true
  | .mad _ _ _ _ => true
  | .div _ _ _ _ => true
  | .divu _ _ _ _ => true
  | .rem _ _ _ _ => true
  | .remu _ _ _ _ => true
  | .min _ _ _ _ => true
  | .max _ _ _ _ => true
  | .minu _ _ _ _ => true
  | .maxu _ _ _ _ => true
  | .and _ _ _ _ => true
  | .or _ _ _ _ => true
  | .xor _ _ _ _ => true
  | .andn _ _ _ _ => true
  | .shl _ _ _ _ => true
  | .shr _ _ _ _ => true
  | .sar _ _ _ _ => true
  | .rotl _ _ _ _ => true
  | .popc _ _ _ => true
  | .clz _ _ _ => true
  | .brev _ _ _ => true
  | .bfx _ _ _ _ => true
  | .bfi _ _ _ _ => true
  | .sel _ _ _ _ => true
  | .mov _ _ _ => true
  | .addl _ _ _ _ => true
  | .subl _ _ _ _ => true
  | .mulw _ _ _ _ => true
  | .mulwu _ _ _ _ => true
  | .shll _ _ _ _ => true
  | .shrl _ _ _ _ => true
  | .sarl _ _ _ _ => true
  | .movl _ _ _ => true
  | .cmpeq _ _ _ _ => true
  | .cmpne _ _ _ _ => true
  | .cmplt _ _ _ _ => true
  | .cmple _ _ _ _ => true
  | .cmpltu _ _ _ _ => true
  | .cmpleu _ _ _ _ => true
  | .cmpeql _ _ _ _ => true
  | .cmpltl _ _ _ _ => true
  | .mfs _ _ h l => readable st h l
  | .mts _ h l _ => writable st h l
  | .shfl _ _ _ _ => !st
  | .ballot _ _ _ => !st
  | .matchMask _ _ _ => !st
  | .compact _ _ _ _ => !st
  | .gredadd _ _ _ _ => !st
  | .gscan _ _ _ _ => !st
  | .addi _ _ _ _ => true
  | .andi _ _ _ _ => true
  | .ori _ _ _ _ => true
  | .xori _ _ _ _ => true
  | .shli _ _ _ _ => true
  | .shri _ _ _ _ => true
  | .sari _ _ _ _ => true
  | .cmpeqi _ _ _ _ => true
  | .cmplti _ _ _ _ => true
  | .cmpltui _ _ _ _ => true
  | .muli _ _ _ _ => true
  | .xset _ _ _ _ => true
  | .xoff _ _ _ _ => true
  | .xinc _ _ _ => true
  | .li _ _ _ => true
  | .lih _ _ _ => true
  | .addiw _ _ _ => true
  | .ldk _ _ _ => true
  | .fadd _ _ _ _ => true
  | .fsub _ _ _ _ => true
  | .fmul _ _ _ _ => true
  | .ffma _ _ _ _ => true
  | .fmin _ _ _ _ => true
  | .fmax _ _ _ _ => true
  | .fabs _ _ _ => true
  | .fneg _ _ _ => true
  | .fcmpeq _ _ _ _ => true
  | .fcmplt _ _ _ _ => true
  | .fcmple _ _ _ _ => true
  | .fcmpun _ _ _ _ => true
  | .fdiv _ _ _ _ => true
  | .fsqrt _ _ _ => true
  | .frcp _ _ _ => true
  | .frsq _ _ _ => true
  | .dadd _ _ _ _ => true
  | .dsub _ _ _ _ => true
  | .dmul _ _ _ _ => true
  | .dfma _ _ _ _ => true
  | .dmin _ _ _ _ => true
  | .dmax _ _ _ _ => true
  | .dabs _ _ _ => true
  | .dneg _ _ _ => true
  | .dcmpeq _ _ _ _ => true
  | .dcmplt _ _ _ _ => true
  | .dcmple _ _ _ _ => true
  | .dcmpun _ _ _ _ => true
  | .ddiv _ _ _ _ => true
  | .dsqrt _ _ _ => true
  | .fex2 _ _ _ => true
  | .flg2 _ _ _ => true
  | .fsinp _ _ _ => true
  | .fcosp _ _ _ => true
  | .ftanh _ _ _ => true
  | .cvtif _ _ _ => true
  | .cvtuf _ _ _ => true
  | .cvtfi _ _ _ => true
  | .cvtfu _ _ _ => true
  | .cvtfd _ _ _ => true
  | .cvtdf _ _ _ => true
  | .cvtid _ _ _ => true
  | .cvtdi _ _ _ => true
  | .cvtfh _ _ _ => true
  | .cvthf _ _ _ => true
  | .cvtfb _ _ _ => true
  | .cvtbf _ _ _ => true
  | .cvtf8a _ _ _ => true
  | .cvtf8b _ _ _ => true
  | .cvt8af _ _ _ => true
  | .cvt8bf _ _ _ => true
  | .nqdec _ _ _ => true
  | .nqenc _ _ _ => true
  | .ldb _ _ a _ => addrOk a
  | .ldbs _ _ a _ => addrOk a
  | .ldh _ _ a _ => addrOk a
  | .ldhs _ _ a _ => addrOk a
  | .ldw _ _ a _ => addrOk a
  | .ldl _ _ a _ => addrOk a
  | .ldq _ _ a _ => addrOk a
  | .stb _ _ a _ => addrOk a
  | .sth _ _ a _ => addrOk a
  | .stw _ _ a _ => addrOk a
  | .stl _ _ a _ => addrOk a
  | .stq _ _ a _ => addrOk a
  | .ldf _ _ a _ => !st && addrOk a
  | .ldff _ _ a _ => !st && addrOk a
  | .ste _ _ a _ => !st && addrOk a
  | .stf _ _ a _ => !st && addrOk a
  | .sete _ a _ => !st && addrOk a
  | .ldwr _ _ a _ => !st && addrOk a
  | .ldacq _ _ a _ => addrOk a
  | .strel _ _ a _ => addrOk a
  | .pref _ a _ => addrOk a
  | .aadd _ _ _ a _ => addrOk a
  | .axchg _ _ _ a _ => addrOk a
  | .acas _ _ _ a _ => addrOk a
  | .amin _ _ _ a _ => addrOk a
  | .amax _ _ _ a _ => addrOk a
  | .aand _ _ _ a _ => addrOk a
  | .aor _ _ _ a _ => addrOk a
  | .afadd _ _ _ a _ => addrOk a
  | .red _ _ k a _ => addrOk a && decide (k.toNat ≤ 9)
  | .fence _ _ k => decide (1 ≤ k.toNat) && decide (k.toNat ≤ 5)
  | .waitv _ p a b => addrOk a && waitOk p b
  | .notify _ _ k a => addrOk a && decide (k.toNat ≤ 1)
  | .qlock _ _ a => addrOk a
  | .qunlock _ _ a => addrOk a
  | .bar _ _ a => addrOk a
  | .binit _ _ k a _ => addrOk a && decide (k.toNat ≤ 1)
  | .bra _ _ => true
  | .bnz _ _ _ => true
  | .bz _ _ _ => true
  | .call _ _ => true
  | .brx _ _ => true
  | .callx _ _ => true
  | .ret _ => true
  | .dbnz _ _ _ => true
  | .nop _ => true
  | .exit _ i => decide (i.toNat ≤ 8)
  | .yield _ => true
  | .trap _ _ => true
  | .tret _ => true
  | .joinset _ _ _ => !st
  | .join _ _ => !st
  | .regrp _ _ => !st
  | .grow _ _ => !st
  | .shrink _ _ => !st
  | .growt _ _ _ => !st
  | .tdset _ _ a => !st && blockOk a 4
  | .tdget _ d _ => !st && blockOk d 4
  | .cvset _ a _ => !st && blockOk a 5
  | .ofence _ => !st
  | .mma _ _ _ _ => !st
  | .mwait _ _ => !st
  | .mdrain _ m _ _ => !st && decide (m.toNat / 2 % 8 ≤ 5)
  | .wbload _ _ a => !st && blockOk a 4
  | .obres _ n a => !st && decide (n.toNat ≤ 15) && blockOk a 4
  | .obrel _ n => !st && decide (n.toNat ≤ 15)
  | .twalk _ _ a _ => !st && blockOk a 8
  | .sacl _ _ a => !st && blockOk a 4
  | .sacs _ a => !st && blockOk a 4
  | .copy _ g a k => copyOk g k && blockOk a 10
  | .chaingo _ h _ => decide (h.toNat ≤ 3)
  | .twait _ _ => true
  | .twany _ _ => true
  | .tffr _ _ _ => true
  | .tclr _ _ => true
  | .coll _ a => blockOk a 8
  | .spawn _ _ a => blockOk a 12
  | .tsig _ _ => true
  | .mwrite _ a => blockOk a 3
  | .prop _ _ _ => true
  | .trfree _ _ => true
  | .trstat _ d _ => blockOk d 7
  | .rclaim _ _ _ _ => !st
  | .rcommit _ _ _ _ => !st
  | .rawait _ _ _ _ => !st
  | .rretire _ _ _ _ => !st
  | .wfe _ => st
  | .itlb _ _ => st
  | .dataReturn _ _ => true
  | .variableLatencyComplete _ => true
  | .storePerformed _ => true
  | .reductionApply _ => true
  | .shrinkRowReturn _ => true
  | .copyComplete _ _ => true
  | .chainRecordComplete core chan => decide (core < 196) && decide (chan < 4)
  | .matrixOpComplete _ _ => true
  | .twalkComplete _ => true
  | .collTimeout group => decide (group < 256)
  | .collDecisionTimeout group => decide (group < 256)
  | .detCommit _ => true
  | .detSampleCompare _ _ => true
  | .blockEnd _ => true
  | .blockDispatch panel => decide (panel < 4)
  | .taskTake core => decide (core < 192)
  | .launchComplete _ => true
  | .launch slot => decide (slot < 256)
  | .gang slot => decide (slot < 256)
  | .propCommand slot => decide (slot < 256)
  | .waitw slot => decide (slot < 256)
  | .sigw slot => decide (slot < 256)
  | .waitwPoll slot => decide (slot < 256)
  | .kick _ _ _ => true
  | .growDeadlockCheck core => decide (core < 192)
  | .waitWatchdog _ => true
  | .deferredStoreError _ _ => true
  | .contextSave core slot => decide (core < 192) && decide (slot < 128)
  | .contextRestore core slot toCore => decide (core < 192) && decide (slot < 128) && decide (toCore < 192)
  | .remoteTimeout _ => true
  | .starvationTimeExpiry core slot _ => decide (core < 192) && decide (slot < 128)
  | .frespReplay core entry => decide (core < 192) && decide (entry < 256)
  | .frespFail core entry => decide (core < 192) && decide (entry < 256)
  | .machineCheck _ core code => decide (core < 256) && decide (1 ≤ code) && decide (code ≤ 6)
  | .preemptionRequest core slot => decide (core < 192) && decide (slot < 128)
  | .partitionSwap outgoing incoming => decide (outgoing < 16) && decide (incoming < 16)
  | .slotMap slot => decide (slot < 256)
  | .slotUnmap slot => decide (slot < 256)
  | .queueAgeTick => true
  | .powerRefresh panel _ _ => decide (panel < 4)
  | .powerFault => true
  | .flitReceive link _ _ _ => decide (link < 12)
  | .linkDown link => decide (link < 12)
  | .laneLoss link => decide (link < 12)
  | .routeEntryWrite _ _ => true
  | .collGroupEntryWrite _ _ _ => true
  | .collContribution key rank _ => decide (key.1 < 256) && decide (rank < 256)
  | .collAbortReport key rank _ => decide (key.1 < 256) && decide (rank < 256)
  | .collDecision key _ _ _ _ => decide (key.1 < 256)
  | .gangReservation _ _ _ _ => true
  | .gangStart _ _ => true
  | .gangStartAck _ _ => true
  | .gangAckTimeout _ _ => true
  | .hostApertureRead fn _ _ _ => decide (fn ≤ 16)
  | .hostApertureWrite fn _ _ _ => decide (fn ≤ 16)
  | .vfFlr vf => decide (1 ≤ vf) && decide (vf ≤ 16)
  | .pfFlr => true
  | .powerOnReset => true
  | .bootLinkUp => true
  | .bootDhcpReply _ => true
  | .bootImageFetched _ _ => true
  | .bootAttemptTimeout => true
  | .bootcmdVerify => true
  | .attestationSign => true
  | .attestationComplete => true
  | .stewardTimer panel => decide (panel < 4)
  | .registerWrite _ _ => true
  | .partitionCreate part _ _ _ _ _ _ => decide (part < 16)
  | .partitionDestroy part => decide (part < 16)
  | .sacShareChange part share => decide (part < 16) && decide (share % 16 = 0)
  | .pcieLinkTraining _ => true

end Sys2Proof
end

