-- ==== Sys2Proof/Decode.lean ====
section
/-!
DEFINITION. The decoder and the encoder of the instruction words (R84, R86, Tables 11.2 to 11.10).
The decoder makes the checks of R98 that need only the word and the kind of core: steps 1 to 5, in their order.
Steps 6 to 10 need the run and the threads and are made where the word issues.
-/
namespace Sys2Proof

/-- Why a word is no instruction (R98). -/
inductive Reject where
  /-- Steps 1 and 2, and on a steward the words of R100: ILLEGAL_ENCODING. -/
  | illegal
  /-- Step 3: PRIVILEGED. -/
  | privileged
  /-- Step 4: a number field outside its legal set, ILLEGAL_ENCODING. -/
  | badNumber
  /-- Step 5: FIELD_NONZERO. -/
  | nonzero
  deriving DecidableEq, Repr

/-- The cause a rejected word traps with. -/
def Reject.cause : Reject → BitVec 10
  | .illegal => 0x001
  | .privileged => 0x009
  | .badNumber => 0x001
  | .nonzero => 0x002

/-- The n bits from bit lo of a word. -/
def bitField (n : Nat) (w lo : Nat) : BitVec n := BitVec.ofNat n (w / 2 ^ lo)

/-- The control bits of a word (Table 11.1). -/
def ctlOf (w : Nat) : Ctl :=
  { c := decide (w / 2 ^ 31 % 2 = 1), e := decide (w / 2 ^ 30 % 2 = 1), s := bitField 3 w 27 }

/-- Steps 4 and 5 of R98 for an instruction the class tables name. -/
def check (number zero : Bool) (i : Instr) : Except Reject Instr :=
  if !number then .error .badNumber else if !zero then .error .nonzero else .ok i

/-- A word that a steward does not have (R100). -/
def userOnly (st : Bool) (r : Except Reject Instr) : Except Reject Instr := if st then .error .illegal else r

/-- A word that a user thread may not issue (R98 step 3). -/
def stewardOnly (st : Bool) (r : Except Reject Instr) : Except Reject Instr := if st then r else .error .privileged

/-- MFS and MTS of a number 0x100 to 0x1FF by a user thread (R90, R98 step 3). -/
def guardSpecial (st : Bool) (h l : BitVec 6) (r : Except Reject Instr) : Except Reject Instr :=
  if !st && privilegedSpecial (specialNumber h l) then .error .privileged else r

/-- Class A (Table 11.3). -/
def decodeA (st : Bool) (c : Ctl) (fn d a b : BitVec 6) : Except Reject Instr :=
  match fn.toNat with
  | 0x01 => .ok (.add c d a b)
  | 0x02 => .ok (.sub c d a b)
  | 0x03 => .ok (.adds c d a b)
  | 0x04 => .ok (.subs c d a b)
  | 0x05 => .ok (.mul c d a b)
  | 0x06 => .ok (.mulhi c d a b)
  | 0x07 => .ok (.mulhu c d a b)
  | 0x08 => .ok (.mad c d a b)
  | 0x09 => .ok (.div c d a b)
  | 0x0A => .ok (.divu c d a b)
  | 0x0B => .ok (.rem c d a b)
  | 0x0C => .ok (.remu c d a b)
  | 0x0D => .ok (.min c d a b)
  | 0x0E => .ok (.max c d a b)
  | 0x0F => .ok (.minu c d a b)
  | 0x10 => .ok (.maxu c d a b)
  | 0x11 => .ok (.and c d a b)
  | 0x12 => .ok (.or c d a b)
  | 0x13 => .ok (.xor c d a b)
  | 0x14 => .ok (.andn c d a b)
  | 0x15 => .ok (.shl c d a b)
  | 0x16 => .ok (.shr c d a b)
  | 0x17 => .ok (.sar c d a b)
  | 0x18 => .ok (.rotl c d a b)
  | 0x19 => check true (decide (b.toNat = 0)) (.popc c d a)
  | 0x1A => check true (decide (b.toNat = 0)) (.clz c d a)
  | 0x1B => check true (decide (b.toNat = 0)) (.brev c d a)
  | 0x1C => .ok (.bfx c d a b)
  | 0x1D => .ok (.bfi c d a b)
  | 0x1E => .ok (.sel c d a b)
  | 0x1F => check true (decide (b.toNat = 0)) (.mov c d a)
  | 0x20 => .ok (.addl c d a b)
  | 0x21 => .ok (.subl c d a b)
  | 0x22 => .ok (.mulw c d a b)
  | 0x23 => .ok (.mulwu c d a b)
  | 0x24 => .ok (.shll c d a b)
  | 0x25 => .ok (.shrl c d a b)
  | 0x26 => .ok (.sarl c d a b)
  | 0x27 => check true (decide (b.toNat = 0)) (.movl c d a)
  | 0x28 => .ok (.cmpeq c d a b)
  | 0x29 => .ok (.cmpne c d a b)
  | 0x2A => .ok (.cmplt c d a b)
  | 0x2B => .ok (.cmple c d a b)
  | 0x2C => .ok (.cmpltu c d a b)
  | 0x2D => .ok (.cmpleu c d a b)
  | 0x2E => .ok (.cmpeql c d a b)
  | 0x2F => .ok (.cmpltl c d a b)
  | 0x30 => guardSpecial st a b (check (readable st a b) true (.mfs c d a b))
  | 0x31 => guardSpecial st d a (check (writable st d a) true (.mts c d a b))
  | 0x32 => userOnly st (.ok (.shfl c d a b))
  | 0x33 => userOnly st (check true (decide (b.toNat = 0)) (.ballot c d a))
  | 0x34 => userOnly st (check true (decide (b.toNat = 0)) (.matchMask c d a))
  | 0x35 => userOnly st (.ok (.compact c d a b))
  | 0x36 => userOnly st (.ok (.gredadd c d a b))
  | 0x37 => userOnly st (.ok (.gscan c d a b))
  | _ => .error .illegal

/-- Class F (Table 11.6). -/
def decodeF (c : Ctl) (fn d a b : BitVec 6) : Except Reject Instr :=
  match fn.toNat with
  | 0x01 => .ok (.fadd c d a b)
  | 0x02 => .ok (.fsub c d a b)
  | 0x03 => .ok (.fmul c d a b)
  | 0x04 => .ok (.ffma c d a b)
  | 0x05 => .ok (.fmin c d a b)
  | 0x06 => .ok (.fmax c d a b)
  | 0x07 => check true (decide (b.toNat = 0)) (.fabs c d a)
  | 0x08 => check true (decide (b.toNat = 0)) (.fneg c d a)
  | 0x09 => .ok (.fcmpeq c d a b)
  | 0x0A => .ok (.fcmplt c d a b)
  | 0x0B => .ok (.fcmple c d a b)
  | 0x0C => .ok (.fcmpun c d a b)
  | 0x0D => .ok (.fdiv c d a b)
  | 0x0E => check true (decide (b.toNat = 0)) (.fsqrt c d a)
  | 0x0F => check true (decide (b.toNat = 0)) (.frcp c d a)
  | 0x10 => check true (decide (b.toNat = 0)) (.frsq c d a)
  | 0x11 => .ok (.dadd c d a b)
  | 0x12 => .ok (.dsub c d a b)
  | 0x13 => .ok (.dmul c d a b)
  | 0x14 => .ok (.dfma c d a b)
  | 0x15 => .ok (.dmin c d a b)
  | 0x16 => .ok (.dmax c d a b)
  | 0x17 => check true (decide (b.toNat = 0)) (.dabs c d a)
  | 0x18 => check true (decide (b.toNat = 0)) (.dneg c d a)
  | 0x19 => .ok (.dcmpeq c d a b)
  | 0x1A => .ok (.dcmplt c d a b)
  | 0x1B => .ok (.dcmple c d a b)
  | 0x1C => .ok (.dcmpun c d a b)
  | 0x1D => .ok (.ddiv c d a b)
  | 0x1E => check true (decide (b.toNat = 0)) (.dsqrt c d a)
  | 0x20 => check true (decide (b.toNat = 0)) (.fex2 c d a)
  | 0x21 => check true (decide (b.toNat = 0)) (.flg2 c d a)
  | 0x22 => check true (decide (b.toNat = 0)) (.fsinp c d a)
  | 0x23 => check true (decide (b.toNat = 0)) (.fcosp c d a)
  | 0x24 => check true (decide (b.toNat = 0)) (.ftanh c d a)
  | 0x28 => check true (decide (b.toNat = 0)) (.cvtif c d a)
  | 0x29 => check true (decide (b.toNat = 0)) (.cvtuf c d a)
  | 0x2A => check true (decide (b.toNat = 0)) (.cvtfi c d a)
  | 0x2B => check true (decide (b.toNat = 0)) (.cvtfu c d a)
  | 0x2C => check true (decide (b.toNat = 0)) (.cvtfd c d a)
  | 0x2D => check true (decide (b.toNat = 0)) (.cvtdf c d a)
  | 0x2E => check true (decide (b.toNat = 0)) (.cvtid c d a)
  | 0x2F => check true (decide (b.toNat = 0)) (.cvtdi c d a)
  | 0x30 => check true (decide (b.toNat = 0)) (.cvtfh c d a)
  | 0x31 => check true (decide (b.toNat = 0)) (.cvthf c d a)
  | 0x32 => check true (decide (b.toNat = 0)) (.cvtfb c d a)
  | 0x33 => check true (decide (b.toNat = 0)) (.cvtbf c d a)
  | 0x34 => check true (decide (b.toNat = 0)) (.cvtf8a c d a)
  | 0x35 => check true (decide (b.toNat = 0)) (.cvtf8b c d a)
  | 0x36 => check true (decide (b.toNat = 0)) (.cvt8af c d a)
  | 0x37 => check true (decide (b.toNat = 0)) (.cvt8bf c d a)
  | 0x38 => check true (decide (b.toNat = 0)) (.nqdec c d a)
  | 0x39 => check true (decide (b.toNat = 0)) (.nqenc c d a)
  | _ => .error .illegal

/-- Class I (Table 11.4). -/
def decodeI (c : Ctl) (fn : BitVec 4) (d a : BitVec 6) (i : BitVec 8) : Except Reject Instr :=
  match fn.toNat with
  | 0x00 => .ok (.addi c d a i)
  | 0x01 => .ok (.andi c d a i)
  | 0x02 => .ok (.ori c d a i)
  | 0x03 => .ok (.xori c d a i)
  | 0x04 => .ok (.shli c d a i)
  | 0x05 => .ok (.shri c d a i)
  | 0x06 => .ok (.sari c d a i)
  | 0x07 => .ok (.cmpeqi c d a i)
  | 0x08 => .ok (.cmplti c d a i)
  | 0x09 => .ok (.cmpltui c d a i)
  | 0x0A => .ok (.muli c d a i)
  | 0x0B => check true (decide (d.toNat < 4)) (.xset c (d.setWidth 2) a i)
  | 0x0C => check true (decide (d.toNat < 4)) (.xoff c (d.setWidth 2) a i)
  | 0x0D => check true (decide (d.toNat < 4) && decide (a.toNat = 0)) (.xinc c (d.setWidth 2) i)
  | _ => .error .illegal

/-- Class W (Table 11.5). -/
def decodeW (c : Ctl) (fn : BitVec 2) (d : BitVec 6) (i : BitVec 16) : Except Reject Instr :=
  match fn.toNat with
  | 0x00 => .ok (.li c d i)
  | 0x01 => .ok (.lih c d i)
  | 0x02 => .ok (.addiw c d i)
  | 0x03 => .ok (.ldk c d i)
  | _ => .error .illegal

/-- Class M (Table 11.7). -/
def decodeM (st : Bool) (c : Ctl) (fn : BitVec 5) (d a : BitVec 6) (o : BitVec 7) : Except Reject Instr :=
  match fn.toNat with
  | 0x00 => check (addrOk a) true (.ldb c d a o)
  | 0x01 => check (addrOk a) true (.ldbs c d a o)
  | 0x02 => check (addrOk a) true (.ldh c d a o)
  | 0x03 => check (addrOk a) true (.ldhs c d a o)
  | 0x04 => check (addrOk a) true (.ldw c d a o)
  | 0x05 => check (addrOk a) true (.ldl c d a o)
  | 0x06 => check (addrOk a) true (.ldq c d a o)
  | 0x07 => check (addrOk a) true (.stb c d a o)
  | 0x08 => check (addrOk a) true (.sth c d a o)
  | 0x09 => check (addrOk a) true (.stw c d a o)
  | 0x0A => check (addrOk a) true (.stl c d a o)
  | 0x0B => check (addrOk a) true (.stq c d a o)
  | 0x0C => userOnly st (check (addrOk a) true (.ldf c d a o))
  | 0x0D => userOnly st (check (addrOk a) true (.ldff c d a o))
  | 0x0E => userOnly st (check (addrOk a) true (.ste c d a o))
  | 0x0F => userOnly st (check (addrOk a) true (.stf c d a o))
  | 0x10 => userOnly st (check (addrOk a) (decide (d.toNat = 0)) (.sete c a o))
  | 0x11 => userOnly st (check (addrOk a) (decide (o.toNat < 8)) (.ldwr c d a (o.setWidth 3)))
  | 0x12 => check (addrOk a) (decide (o.toNat < 8)) (.ldacq c d a (o.setWidth 3))
  | 0x13 => check (addrOk a) (decide (o.toNat < 8)) (.strel c d a (o.setWidth 3))
  | 0x14 => check (addrOk a) (decide (d.toNat = 0)) (.pref c a o)
  | _ => .error .illegal

/-- Class S1 (Table 11.8). -/
def decodeS1 (c : Ctl) (fn : BitVec 3) (p : BitVec 3) (d a b : BitVec 6) : Except Reject Instr :=
  match fn.toNat with
  | 0x00 => check (addrOk a) true (.aadd c p d a b)
  | 0x01 => check (addrOk a) true (.axchg c p d a b)
  | 0x02 => check (addrOk a) true (.acas c p d a b)
  | 0x03 => check (addrOk a) true (.amin c p d a b)
  | 0x04 => check (addrOk a) true (.amax c p d a b)
  | 0x05 => check (addrOk a) true (.aand c p d a b)
  | 0x06 => check (addrOk a) true (.aor c p d a b)
  | 0x07 => check (addrOk a) true (.afadd c p d a b)
  | _ => .error .illegal

/-- Class S2 (Table 11.8). -/
def decodeS2 (c : Ctl) (fn : BitVec 3) (p : BitVec 3) (d a b : BitVec 6) : Except Reject Instr :=
  match fn.toNat with
  | 0x00 => check (addrOk a && decide (d.toNat ≤ 9)) true (.red c p d a b)
  | 0x01 => check (decide (1 ≤ d.toNat) && decide (d.toNat ≤ 5)) (decide (a.toNat = 0) && decide (b.toNat = 0)) (.fence c p d)
  | 0x02 => check (addrOk a && waitOk p b) (decide (d.toNat = 0)) (.waitv c p a b)
  | 0x03 => check (addrOk a && decide (d.toNat ≤ 1)) (decide (b.toNat = 0)) (.notify c p d a)
  | 0x04 => check (addrOk a) (decide (d.toNat = 0) && decide (b.toNat = 0)) (.qlock c p a)
  | 0x05 => check (addrOk a) (decide (d.toNat = 0) && decide (b.toNat = 0)) (.qunlock c p a)
  | 0x06 => check (addrOk a) (decide (d.toNat = 0) && decide (b.toNat = 0)) (.bar c p a)
  | 0x07 => check (addrOk a && decide (d.toNat ≤ 1)) true (.binit c p d a b)
  | _ => .error .illegal

/-- Class B (Table 11.9). -/
def decodeB (c : Ctl) (fn : BitVec 3) (a : BitVec 6) (o : BitVec 14) : Except Reject Instr :=
  match fn.toNat with
  | 0x00 => check true (decide (a.toNat = 0)) (.bra c o)
  | 0x01 => .ok (.bnz c a o)
  | 0x02 => .ok (.bz c a o)
  | 0x03 => check true (decide (a.toNat = 0)) (.call c o)
  | 0x04 => check true (decide (o.toNat = 0)) (.brx c a)
  | 0x05 => check true (decide (o.toNat = 0)) (.callx c a)
  | 0x06 => check true (decide (a.toNat = 0) && decide (o.toNat = 0)) (.ret c)
  | 0x07 => .ok (.dbnz c a o)
  | _ => .error .illegal

/-- Class X (Table 11.10). -/
def decodeX (st : Bool) (c : Ctl) (fn : BitVec 7) (d a : BitVec 6) (i : BitVec 4) : Except Reject Instr :=
  match fn.toNat with
  | 0x00 => check true (decide (d.toNat = 0) && decide (a.toNat = 0) && decide (i.toNat = 0)) (.nop c)
  | 0x01 => check (decide (i.toNat ≤ 8)) (decide (d.toNat = 0) && decide (a.toNat = 0)) (.exit c i)
  | 0x02 => check true (decide (d.toNat = 0) && decide (a.toNat = 0) && decide (i.toNat = 0)) (.yield c)
  | 0x03 => check true (decide (d.toNat = 0) && decide (i.toNat = 0)) (.trap c a)
  | 0x04 => check true (decide (d.toNat = 0) && decide (a.toNat = 0) && decide (i.toNat = 0)) (.tret c)
  | 0x05 => userOnly st (check true (decide (d.toNat < 8) && decide (i.toNat = 0)) (.joinset c (d.setWidth 3) a))
  | 0x06 => userOnly st (check true (decide (d.toNat < 8) && decide (a.toNat = 0) && decide (i.toNat = 0)) (.join c (d.setWidth 3)))
  | 0x07 => userOnly st (check true (decide (d.toNat = 0) && decide (i.toNat = 0)) (.regrp c a))
  | 0x08 => userOnly st (check true (decide (d.toNat = 0) && decide (i.toNat = 0)) (.grow c a))
  | 0x09 => userOnly st (check true (decide (d.toNat = 0) && decide (i.toNat = 0)) (.shrink c a))
  | 0x0A => userOnly st (check true (decide (i.toNat = 0)) (.growt c d a))
  | 0x10 => userOnly st (check (blockOk a 4) (decide (d.toNat < 32) && decide (i.toNat = 0)) (.tdset c (d.setWidth 5) a))
  | 0x11 => userOnly st (check (blockOk d 4) (decide (a.toNat < 32) && decide (i.toNat = 0)) (.tdget c d (a.setWidth 5)))
  | 0x12 => userOnly st (check (blockOk a 5) (decide (d.toNat = 0)) (.cvset c a i))
  | 0x13 => userOnly st (check true (decide (d.toNat = 0) && decide (a.toNat = 0) && decide (i.toNat = 0)) (.ofence c))
  | 0x14 => userOnly st (check true (decide (d.toNat < 16)) (.mma c (d.setWidth 4) a i))
  | 0x15 => userOnly st (check true (decide (d.toNat = 0) && decide (a.toNat = 0)) (.mwait c i))
  | 0x16 => userOnly st (check (decide ((d.setWidth 5).toNat / 2 % 8 ≤ 5)) (decide (d.toNat < 32)) (.mdrain c (d.setWidth 5) a i))
  | 0x17 => userOnly st (check (blockOk a 4) (decide (d.toNat < 32) && decide (i.toNat = 0)) (.wbload c (d.setWidth 5) a))
  | 0x18 => userOnly st (check (decide (d.toNat ≤ 15) && blockOk a 4) (decide (i.toNat = 0)) (.obres c d a))
  | 0x19 => userOnly st (check (decide (d.toNat ≤ 15)) (decide (a.toNat = 0) && decide (i.toNat = 0)) (.obrel c d))
  | 0x1A => userOnly st (check (blockOk a 8) (decide (i.toNat < 4)) (.twalk c d a (i.setWidth 2)))
  | 0x1B => userOnly st (check (blockOk a 4) (decide (i.toNat = 0)) (.sacl c d a))
  | 0x1C => userOnly st (check (blockOk a 4) (decide (d.toNat = 0) && decide (i.toNat = 0)) (.sacs c a))
  | 0x20 => check (copyOk d i && blockOk a 10) true (.copy c d a i)
  | 0x21 => check (decide (d.toNat ≤ 3)) (decide (i.toNat = 0)) (.chaingo c d a)
  | 0x22 => check true (decide (d.toNat = 0) && decide (i.toNat = 0)) (.twait c a)
  | 0x23 => check true (decide (d.toNat = 0) && decide (i.toNat = 0)) (.twany c a)
  | 0x24 => check true (decide (i.toNat = 0)) (.tffr c d a)
  | 0x25 => check true (decide (d.toNat = 0) && decide (i.toNat = 0)) (.tclr c a)
  | 0x26 => check (blockOk a 8) (decide (d.toNat = 0) && decide (i.toNat = 0)) (.coll c a)
  | 0x28 => check (blockOk a 12) (decide (i.toNat = 0)) (.spawn c d a)
  | 0x29 => check true (decide (d.toNat = 0) && decide (i.toNat = 0)) (.tsig c a)
  | 0x2A => check (blockOk a 3) (decide (d.toNat = 0) && decide (i.toNat = 0)) (.mwrite c a)
  | 0x2B => check true (decide (i.toNat = 0)) (.prop c d a)
  | 0x2C => check true (decide (d.toNat = 0) && decide (i.toNat = 0)) (.trfree c a)
  | 0x2D => check (blockOk d 7) (decide (i.toNat = 0)) (.trstat c d a)
  | 0x30 => userOnly st (.ok (.rclaim c d a i))
  | 0x31 => userOnly st (.ok (.rcommit c d a i))
  | 0x32 => userOnly st (.ok (.rawait c d a i))
  | 0x33 => userOnly st (.ok (.rretire c d a i))
  | 0x38 => stewardOnly st (check true (decide (d.toNat = 0) && decide (a.toNat = 0) && decide (i.toNat = 0)) (.wfe c))
  | 0x39 => stewardOnly st (check true (decide (d.toNat = 0) && decide (i.toNat = 0)) (.itlb c a))
  | _ => .error .illegal

/-- The instruction of a word on a steward (st true) or a user core, or the check of R98 it fails.
The all-zero word of step 1 is class A with function 00, which step 2 names illegal with the same cause. -/
def decode (st : Bool) (w : Nat) : Except Reject Instr :=
  let c := ctlOf w
  match w / 2 ^ 24 % 8 with
  | 0 => decodeA st c (bitField 6 w 18) (bitField 6 w 12) (bitField 6 w 6) (bitField 6 w 0)
  | 1 => decodeF c (bitField 6 w 18) (bitField 6 w 12) (bitField 6 w 6) (bitField 6 w 0)
  | 2 => decodeI c (bitField 4 w 20) (bitField 6 w 14) (bitField 6 w 8) (bitField 8 w 0)
  | 3 => decodeM st c (bitField 5 w 19) (bitField 6 w 13) (bitField 6 w 7) (bitField 7 w 0)
  | 4 => decodeS1 c (bitField 3 w 21) (bitField 3 w 18) (bitField 6 w 12) (bitField 6 w 6) (bitField 6 w 0)
  | 5 => decodeS2 c (bitField 3 w 21) (bitField 3 w 18) (bitField 6 w 12) (bitField 6 w 6) (bitField 6 w 0)
  | 7 => decodeW c (bitField 2 w 22) (bitField 6 w 16) (bitField 16 w 0)
  | _ =>
    if w / 2 ^ 23 % 2 = 0 then decodeB c (bitField 3 w 20) (bitField 6 w 14) (bitField 14 w 0)
    else decodeX st c (bitField 7 w 16) (bitField 6 w 10) (bitField 6 w 4) (bitField 4 w 0)

/-- The top byte of a word: its control bits and class (Table 11.1). -/
def encodeTop (c : Ctl) (k : Nat) : Nat :=
  c.c.toNat * 2 ^ 31 + c.e.toNat * 2 ^ 30 + c.s.toNat * 2 ^ 27 + k * 2 ^ 24

/-- Classes A and F. -/
def encodeA (c : Ctl) (k fn d a b : Nat) : Nat := encodeTop c k + fn * 2 ^ 18 + d * 2 ^ 12 + a * 2 ^ 6 + b
/-- Class I. -/
def encodeI (c : Ctl) (fn d a i : Nat) : Nat := encodeTop c 2 + fn * 2 ^ 20 + d * 2 ^ 14 + a * 2 ^ 8 + i
/-- Class M. -/
def encodeM (c : Ctl) (fn d a o : Nat) : Nat := encodeTop c 3 + fn * 2 ^ 19 + d * 2 ^ 13 + a * 2 ^ 7 + o
/-- Classes S1 and S2. -/
def encodeS (c : Ctl) (k fn p d a b : Nat) : Nat :=
  encodeTop c k + fn * 2 ^ 21 + p * 2 ^ 18 + d * 2 ^ 12 + a * 2 ^ 6 + b
/-- Class B. -/
def encodeB (c : Ctl) (fn a o : Nat) : Nat := encodeTop c 6 + fn * 2 ^ 20 + a * 2 ^ 14 + o
/-- Class X. -/
def encodeX (c : Ctl) (fn d a i : Nat) : Nat := encodeTop c 6 + 2 ^ 23 + fn * 2 ^ 16 + d * 2 ^ 10 + a * 2 ^ 4 + i
/-- Class W. -/
def encodeW (c : Ctl) (fn d i : Nat) : Nat := encodeTop c 7 + fn * 2 ^ 22 + d * 2 ^ 16 + i

/-- The word of an instruction; a step of another agent has none, and gets the illegal word 0. -/
def encode : Instr → Nat
  | .add c d a b => encodeA c 0 0x01 d.toNat a.toNat b.toNat
  | .sub c d a b => encodeA c 0 0x02 d.toNat a.toNat b.toNat
  | .adds c d a b => encodeA c 0 0x03 d.toNat a.toNat b.toNat
  | .subs c d a b => encodeA c 0 0x04 d.toNat a.toNat b.toNat
  | .mul c d a b => encodeA c 0 0x05 d.toNat a.toNat b.toNat
  | .mulhi c d a b => encodeA c 0 0x06 d.toNat a.toNat b.toNat
  | .mulhu c d a b => encodeA c 0 0x07 d.toNat a.toNat b.toNat
  | .mad c d a b => encodeA c 0 0x08 d.toNat a.toNat b.toNat
  | .div c d a b => encodeA c 0 0x09 d.toNat a.toNat b.toNat
  | .divu c d a b => encodeA c 0 0x0A d.toNat a.toNat b.toNat
  | .rem c d a b => encodeA c 0 0x0B d.toNat a.toNat b.toNat
  | .remu c d a b => encodeA c 0 0x0C d.toNat a.toNat b.toNat
  | .min c d a b => encodeA c 0 0x0D d.toNat a.toNat b.toNat
  | .max c d a b => encodeA c 0 0x0E d.toNat a.toNat b.toNat
  | .minu c d a b => encodeA c 0 0x0F d.toNat a.toNat b.toNat
  | .maxu c d a b => encodeA c 0 0x10 d.toNat a.toNat b.toNat
  | .and c d a b => encodeA c 0 0x11 d.toNat a.toNat b.toNat
  | .or c d a b => encodeA c 0 0x12 d.toNat a.toNat b.toNat
  | .xor c d a b => encodeA c 0 0x13 d.toNat a.toNat b.toNat
  | .andn c d a b => encodeA c 0 0x14 d.toNat a.toNat b.toNat
  | .shl c d a b => encodeA c 0 0x15 d.toNat a.toNat b.toNat
  | .shr c d a b => encodeA c 0 0x16 d.toNat a.toNat b.toNat
  | .sar c d a b => encodeA c 0 0x17 d.toNat a.toNat b.toNat
  | .rotl c d a b => encodeA c 0 0x18 d.toNat a.toNat b.toNat
  | .popc c d a => encodeA c 0 0x19 d.toNat a.toNat 0
  | .clz c d a => encodeA c 0 0x1A d.toNat a.toNat 0
  | .brev c d a => encodeA c 0 0x1B d.toNat a.toNat 0
  | .bfx c d a b => encodeA c 0 0x1C d.toNat a.toNat b.toNat
  | .bfi c d a b => encodeA c 0 0x1D d.toNat a.toNat b.toNat
  | .sel c d a b => encodeA c 0 0x1E d.toNat a.toNat b.toNat
  | .mov c d a => encodeA c 0 0x1F d.toNat a.toNat 0
  | .addl c d a b => encodeA c 0 0x20 d.toNat a.toNat b.toNat
  | .subl c d a b => encodeA c 0 0x21 d.toNat a.toNat b.toNat
  | .mulw c d a b => encodeA c 0 0x22 d.toNat a.toNat b.toNat
  | .mulwu c d a b => encodeA c 0 0x23 d.toNat a.toNat b.toNat
  | .shll c d a b => encodeA c 0 0x24 d.toNat a.toNat b.toNat
  | .shrl c d a b => encodeA c 0 0x25 d.toNat a.toNat b.toNat
  | .sarl c d a b => encodeA c 0 0x26 d.toNat a.toNat b.toNat
  | .movl c d a => encodeA c 0 0x27 d.toNat a.toNat 0
  | .cmpeq c d a b => encodeA c 0 0x28 d.toNat a.toNat b.toNat
  | .cmpne c d a b => encodeA c 0 0x29 d.toNat a.toNat b.toNat
  | .cmplt c d a b => encodeA c 0 0x2A d.toNat a.toNat b.toNat
  | .cmple c d a b => encodeA c 0 0x2B d.toNat a.toNat b.toNat
  | .cmpltu c d a b => encodeA c 0 0x2C d.toNat a.toNat b.toNat
  | .cmpleu c d a b => encodeA c 0 0x2D d.toNat a.toNat b.toNat
  | .cmpeql c d a b => encodeA c 0 0x2E d.toNat a.toNat b.toNat
  | .cmpltl c d a b => encodeA c 0 0x2F d.toNat a.toNat b.toNat
  | .mfs c d h l => encodeA c 0 0x30 d.toNat h.toNat l.toNat
  | .mts c h l b => encodeA c 0 0x31 h.toNat l.toNat b.toNat
  | .shfl c d a b => encodeA c 0 0x32 d.toNat a.toNat b.toNat
  | .ballot c d a => encodeA c 0 0x33 d.toNat a.toNat 0
  | .matchMask c d a => encodeA c 0 0x34 d.toNat a.toNat 0
  | .compact c d a b => encodeA c 0 0x35 d.toNat a.toNat b.toNat
  | .gredadd c d a b => encodeA c 0 0x36 d.toNat a.toNat b.toNat
  | .gscan c d a b => encodeA c 0 0x37 d.toNat a.toNat b.toNat
  | .addi c d a i => encodeI c 0x00 d.toNat a.toNat i.toNat
  | .andi c d a i => encodeI c 0x01 d.toNat a.toNat i.toNat
  | .ori c d a i => encodeI c 0x02 d.toNat a.toNat i.toNat
  | .xori c d a i => encodeI c 0x03 d.toNat a.toNat i.toNat
  | .shli c d a i => encodeI c 0x04 d.toNat a.toNat i.toNat
  | .shri c d a i => encodeI c 0x05 d.toNat a.toNat i.toNat
  | .sari c d a i => encodeI c 0x06 d.toNat a.toNat i.toNat
  | .cmpeqi c d a i => encodeI c 0x07 d.toNat a.toNat i.toNat
  | .cmplti c d a i => encodeI c 0x08 d.toNat a.toNat i.toNat
  | .cmpltui c d a i => encodeI c 0x09 d.toNat a.toNat i.toNat
  | .muli c d a i => encodeI c 0x0A d.toNat a.toNat i.toNat
  | .xset c x l i => encodeI c 0x0B x.toNat l.toNat i.toNat
  | .xoff c x a i => encodeI c 0x0C x.toNat a.toNat i.toNat
  | .xinc c x i => encodeI c 0x0D x.toNat 0 i.toNat
  | .li c d i => encodeW c 0x00 d.toNat i.toNat
  | .lih c d i => encodeW c 0x01 d.toNat i.toNat
  | .addiw c d i => encodeW c 0x02 d.toNat i.toNat
  | .ldk c d i => encodeW c 0x03 d.toNat i.toNat
  | .fadd c d a b => encodeA c 1 0x01 d.toNat a.toNat b.toNat
  | .fsub c d a b => encodeA c 1 0x02 d.toNat a.toNat b.toNat
  | .fmul c d a b => encodeA c 1 0x03 d.toNat a.toNat b.toNat
  | .ffma c d a b => encodeA c 1 0x04 d.toNat a.toNat b.toNat
  | .fmin c d a b => encodeA c 1 0x05 d.toNat a.toNat b.toNat
  | .fmax c d a b => encodeA c 1 0x06 d.toNat a.toNat b.toNat
  | .fabs c d a => encodeA c 1 0x07 d.toNat a.toNat 0
  | .fneg c d a => encodeA c 1 0x08 d.toNat a.toNat 0
  | .fcmpeq c d a b => encodeA c 1 0x09 d.toNat a.toNat b.toNat
  | .fcmplt c d a b => encodeA c 1 0x0A d.toNat a.toNat b.toNat
  | .fcmple c d a b => encodeA c 1 0x0B d.toNat a.toNat b.toNat
  | .fcmpun c d a b => encodeA c 1 0x0C d.toNat a.toNat b.toNat
  | .fdiv c d a b => encodeA c 1 0x0D d.toNat a.toNat b.toNat
  | .fsqrt c d a => encodeA c 1 0x0E d.toNat a.toNat 0
  | .frcp c d a => encodeA c 1 0x0F d.toNat a.toNat 0
  | .frsq c d a => encodeA c 1 0x10 d.toNat a.toNat 0
  | .dadd c d a b => encodeA c 1 0x11 d.toNat a.toNat b.toNat
  | .dsub c d a b => encodeA c 1 0x12 d.toNat a.toNat b.toNat
  | .dmul c d a b => encodeA c 1 0x13 d.toNat a.toNat b.toNat
  | .dfma c d a b => encodeA c 1 0x14 d.toNat a.toNat b.toNat
  | .dmin c d a b => encodeA c 1 0x15 d.toNat a.toNat b.toNat
  | .dmax c d a b => encodeA c 1 0x16 d.toNat a.toNat b.toNat
  | .dabs c d a => encodeA c 1 0x17 d.toNat a.toNat 0
  | .dneg c d a => encodeA c 1 0x18 d.toNat a.toNat 0
  | .dcmpeq c d a b => encodeA c 1 0x19 d.toNat a.toNat b.toNat
  | .dcmplt c d a b => encodeA c 1 0x1A d.toNat a.toNat b.toNat
  | .dcmple c d a b => encodeA c 1 0x1B d.toNat a.toNat b.toNat
  | .dcmpun c d a b => encodeA c 1 0x1C d.toNat a.toNat b.toNat
  | .ddiv c d a b => encodeA c 1 0x1D d.toNat a.toNat b.toNat
  | .dsqrt c d a => encodeA c 1 0x1E d.toNat a.toNat 0
  | .fex2 c d a => encodeA c 1 0x20 d.toNat a.toNat 0
  | .flg2 c d a => encodeA c 1 0x21 d.toNat a.toNat 0
  | .fsinp c d a => encodeA c 1 0x22 d.toNat a.toNat 0
  | .fcosp c d a => encodeA c 1 0x23 d.toNat a.toNat 0
  | .ftanh c d a => encodeA c 1 0x24 d.toNat a.toNat 0
  | .cvtif c d a => encodeA c 1 0x28 d.toNat a.toNat 0
  | .cvtuf c d a => encodeA c 1 0x29 d.toNat a.toNat 0
  | .cvtfi c d a => encodeA c 1 0x2A d.toNat a.toNat 0
  | .cvtfu c d a => encodeA c 1 0x2B d.toNat a.toNat 0
  | .cvtfd c d a => encodeA c 1 0x2C d.toNat a.toNat 0
  | .cvtdf c d a => encodeA c 1 0x2D d.toNat a.toNat 0
  | .cvtid c d a => encodeA c 1 0x2E d.toNat a.toNat 0
  | .cvtdi c d a => encodeA c 1 0x2F d.toNat a.toNat 0
  | .cvtfh c d a => encodeA c 1 0x30 d.toNat a.toNat 0
  | .cvthf c d a => encodeA c 1 0x31 d.toNat a.toNat 0
  | .cvtfb c d a => encodeA c 1 0x32 d.toNat a.toNat 0
  | .cvtbf c d a => encodeA c 1 0x33 d.toNat a.toNat 0
  | .cvtf8a c d a => encodeA c 1 0x34 d.toNat a.toNat 0
  | .cvtf8b c d a => encodeA c 1 0x35 d.toNat a.toNat 0
  | .cvt8af c d a => encodeA c 1 0x36 d.toNat a.toNat 0
  | .cvt8bf c d a => encodeA c 1 0x37 d.toNat a.toNat 0
  | .nqdec c d a => encodeA c 1 0x38 d.toNat a.toNat 0
  | .nqenc c d a => encodeA c 1 0x39 d.toNat a.toNat 0
  | .ldb c d a o => encodeM c 0x00 d.toNat a.toNat o.toNat
  | .ldbs c d a o => encodeM c 0x01 d.toNat a.toNat o.toNat
  | .ldh c d a o => encodeM c 0x02 d.toNat a.toNat o.toNat
  | .ldhs c d a o => encodeM c 0x03 d.toNat a.toNat o.toNat
  | .ldw c d a o => encodeM c 0x04 d.toNat a.toNat o.toNat
  | .ldl c d a o => encodeM c 0x05 d.toNat a.toNat o.toNat
  | .ldq c d a o => encodeM c 0x06 d.toNat a.toNat o.toNat
  | .stb c d a o => encodeM c 0x07 d.toNat a.toNat o.toNat
  | .sth c d a o => encodeM c 0x08 d.toNat a.toNat o.toNat
  | .stw c d a o => encodeM c 0x09 d.toNat a.toNat o.toNat
  | .stl c d a o => encodeM c 0x0A d.toNat a.toNat o.toNat
  | .stq c d a o => encodeM c 0x0B d.toNat a.toNat o.toNat
  | .ldf c d a o => encodeM c 0x0C d.toNat a.toNat o.toNat
  | .ldff c d a o => encodeM c 0x0D d.toNat a.toNat o.toNat
  | .ste c d a o => encodeM c 0x0E d.toNat a.toNat o.toNat
  | .stf c d a o => encodeM c 0x0F d.toNat a.toNat o.toNat
  | .sete c a o => encodeM c 0x10 0 a.toNat o.toNat
  | .ldwr c d a r => encodeM c 0x11 d.toNat a.toNat r.toNat
  | .ldacq c d a p => encodeM c 0x12 d.toNat a.toNat p.toNat
  | .strel c d a p => encodeM c 0x13 d.toNat a.toNat p.toNat
  | .pref c a o => encodeM c 0x14 0 a.toNat o.toNat
  | .aadd c p d a b => encodeS c 4 0x00 p.toNat d.toNat a.toNat b.toNat
  | .axchg c p d a b => encodeS c 4 0x01 p.toNat d.toNat a.toNat b.toNat
  | .acas c p d a b => encodeS c 4 0x02 p.toNat d.toNat a.toNat b.toNat
  | .amin c p d a b => encodeS c 4 0x03 p.toNat d.toNat a.toNat b.toNat
  | .amax c p d a b => encodeS c 4 0x04 p.toNat d.toNat a.toNat b.toNat
  | .aand c p d a b => encodeS c 4 0x05 p.toNat d.toNat a.toNat b.toNat
  | .aor c p d a b => encodeS c 4 0x06 p.toNat d.toNat a.toNat b.toNat
  | .afadd c p d a b => encodeS c 4 0x07 p.toNat d.toNat a.toNat b.toNat
  | .red c p k a b => encodeS c 5 0x00 p.toNat k.toNat a.toNat b.toNat
  | .fence c p k => encodeS c 5 0x01 p.toNat k.toNat 0 0
  | .waitv c p a b => encodeS c 5 0x02 p.toNat 0 a.toNat b.toNat
  | .notify c p k a => encodeS c 5 0x03 p.toNat k.toNat a.toNat 0
  | .qlock c p a => encodeS c 5 0x04 p.toNat 0 a.toNat 0
  | .qunlock c p a => encodeS c 5 0x05 p.toNat 0 a.toNat 0
  | .bar c p a => encodeS c 5 0x06 p.toNat 0 a.toNat 0
  | .binit c p k a b => encodeS c 5 0x07 p.toNat k.toNat a.toNat b.toNat
  | .bra c o => encodeB c 0x00 0 o.toNat
  | .bnz c a o => encodeB c 0x01 a.toNat o.toNat
  | .bz c a o => encodeB c 0x02 a.toNat o.toNat
  | .call c o => encodeB c 0x03 0 o.toNat
  | .brx c a => encodeB c 0x04 a.toNat 0
  | .callx c a => encodeB c 0x05 a.toNat 0
  | .ret c => encodeB c 0x06 0 0
  | .dbnz c a o => encodeB c 0x07 a.toNat o.toNat
  | .nop c => encodeX c 0x00 0 0 0
  | .exit c i => encodeX c 0x01 0 0 i.toNat
  | .yield c => encodeX c 0x02 0 0 0
  | .trap c n => encodeX c 0x03 0 n.toNat 0
  | .tret c => encodeX c 0x04 0 0 0
  | .joinset c r a => encodeX c 0x05 r.toNat a.toNat 0
  | .join c r => encodeX c 0x06 r.toNat 0 0
  | .regrp c a => encodeX c 0x07 0 a.toNat 0
  | .grow c n => encodeX c 0x08 0 n.toNat 0
  | .shrink c n => encodeX c 0x09 0 n.toNat 0
  | .growt c d n => encodeX c 0x0A d.toNat n.toNat 0
  | .tdset c t a => encodeX c 0x10 t.toNat a.toNat 0
  | .tdget c d t => encodeX c 0x11 d.toNat t.toNat 0
  | .cvset c a v => encodeX c 0x12 0 a.toNat v.toNat
  | .ofence c => encodeX c 0x13 0 0 0
  | .mma c m a v => encodeX c 0x14 m.toNat a.toNat v.toNat
  | .mwait c v => encodeX c 0x15 0 0 v.toNat
  | .mdrain c m a v => encodeX c 0x16 m.toNat a.toNat v.toNat
  | .wbload c t a => encodeX c 0x17 t.toNat a.toNat 0
  | .obres c n a => encodeX c 0x18 n.toNat a.toNat 0
  | .obrel c n => encodeX c 0x19 n.toNat 0 0
  | .twalk c d a p => encodeX c 0x1A d.toNat a.toNat p.toNat
  | .sacl c d a => encodeX c 0x1B d.toNat a.toNat 0
  | .sacs c a => encodeX c 0x1C 0 a.toNat 0
  | .copy c g a k => encodeX c 0x20 g.toNat a.toNat k.toNat
  | .chaingo c h a => encodeX c 0x21 h.toNat a.toNat 0
  | .twait c a => encodeX c 0x22 0 a.toNat 0
  | .twany c a => encodeX c 0x23 0 a.toNat 0
  | .tffr c d a => encodeX c 0x24 d.toNat a.toNat 0
  | .tclr c a => encodeX c 0x25 0 a.toNat 0
  | .coll c a => encodeX c 0x26 0 a.toNat 0
  | .spawn c d a => encodeX c 0x28 d.toNat a.toNat 0
  | .tsig c a => encodeX c 0x29 0 a.toNat 0
  | .mwrite c a => encodeX c 0x2A 0 a.toNat 0
  | .prop c d a => encodeX c 0x2B d.toNat a.toNat 0
  | .trfree c a => encodeX c 0x2C 0 a.toNat 0
  | .trstat c d a => encodeX c 0x2D d.toNat a.toNat 0
  | .rclaim c d a k => encodeX c 0x30 d.toNat a.toNat k.toNat
  | .rcommit c d a k => encodeX c 0x31 d.toNat a.toNat k.toNat
  | .rawait c d a k => encodeX c 0x32 d.toNat a.toNat k.toNat
  | .rretire c d a k => encodeX c 0x33 d.toNat a.toNat k.toNat
  | .wfe c => encodeX c 0x38 0 0 0
  | .itlb c a => encodeX c 0x39 0 a.toNat 0
  | .dataReturn _ _ => 0
  | .variableLatencyComplete _ => 0
  | .storePerformed _ => 0
  | .reductionApply _ => 0
  | .shrinkRowReturn _ => 0
  | .copyComplete _ _ => 0
  | .chainRecordComplete _ _ => 0
  | .matrixOpComplete _ _ => 0
  | .twalkComplete _ => 0
  | .collTimeout _ => 0
  | .collDecisionTimeout _ => 0
  | .detCommit _ => 0
  | .detSampleCompare _ _ => 0
  | .blockEnd _ => 0
  | .blockDispatch _ => 0
  | .taskTake _ => 0
  | .launchComplete _ => 0
  | .launch _ => 0
  | .gang _ => 0
  | .propCommand _ => 0
  | .waitw _ => 0
  | .sigw _ => 0
  | .waitwPoll _ => 0
  | .kick _ _ _ => 0
  | .growDeadlockCheck _ => 0
  | .waitWatchdog _ => 0
  | .deferredStoreError _ _ => 0
  | .contextSave _ _ => 0
  | .contextRestore _ _ _ => 0
  | .remoteTimeout _ => 0
  | .starvationTimeExpiry _ _ _ => 0
  | .frespReplay _ _ => 0
  | .frespFail _ _ => 0
  | .machineCheck _ _ _ => 0
  | .preemptionRequest _ _ => 0
  | .partitionSwap _ _ => 0
  | .slotMap _ => 0
  | .slotUnmap _ => 0
  | .queueAgeTick => 0
  | .powerRefresh _ _ _ => 0
  | .powerFault => 0
  | .flitReceive _ _ _ _ => 0
  | .linkDown _ => 0
  | .laneLoss _ => 0
  | .routeEntryWrite _ _ => 0
  | .collGroupEntryWrite _ _ _ => 0
  | .collContribution _ _ _ => 0
  | .collAbortReport _ _ _ => 0
  | .collDecision _ _ _ _ _ => 0
  | .gangReservation _ _ _ _ => 0
  | .gangStart _ _ => 0
  | .gangStartAck _ _ => 0
  | .gangAckTimeout _ _ => 0
  | .hostApertureRead _ _ _ _ => 0
  | .hostApertureWrite _ _ _ _ => 0
  | .vfFlr _ => 0
  | .pfFlr => 0
  | .powerOnReset => 0
  | .bootLinkUp => 0
  | .bootDhcpReply _ => 0
  | .bootImageFetched _ _ => 0
  | .bootAttemptTimeout => 0
  | .bootcmdVerify => 0
  | .attestationSign => 0
  | .attestationComplete => 0
  | .stewardTimer _ => 0
  | .registerWrite _ _ => 0
  | .partitionCreate _ _ _ _ _ _ _ => 0
  | .partitionDestroy _ => 0
  | .sacShareChange _ _ => 0
  | .pcieLinkTraining _ => 0

/-- What the decoder reads from a row's bits: words are 32 bits, one word an instruction (R84).
A user core's reading comes first; the words only a steward may issue are read as a steward's
(DEDUCED, log entry 64). -/
def decodeTableWord (nbits w : Nat) : Option Instr :=
  if nbits = 32 then
    match decode false (w % 2 ^ 32) with
    | .ok i => some i
    | .error _ =>
      match decode true (w % 2 ^ 32) with
      | .ok i => some i
      | .error _ => none
  else none

end Sys2Proof
end

