-- ==== Sys2Proof/Config.lean ====
section
/-!
DEFINITION. What the spec leaves open: free values (DESIGN CHOICE, log entries 8 and 14 to 16) and the secrets fused into a device.
Every constant here is opaque: nothing can evaluate it, so a claim about the model holds whatever it is.
-/
namespace Sys2Proof.Config

/-- The n-th undefined 32-bit value the machine makes (R64, R138, R148, R169, R198). -/
opaque freeWord : Nat → Word

/-- The n-th undefined byte the machine makes (R64, R169, R171, R177, R178). -/
opaque freeByte : Nat → Byte

/-- The n-th choice the spec leaves to the runtime or to the implementation, as an address or a count. -/
opaque freeNat : Nat → Nat

/-- The bytes a STAGE region holds (R253), which no field of the descriptor gives. -/
opaque stageLimit : Nat

/-- The value of an approximated function where the model's exact bounds do not settle the rounding (R124);
the first argument is the function, the second its operand. -/
opaque approx : Nat → Word → Word

/-- The key hash fused into the device, 32 bytes (R266). -/
opaque fusedKeyHash : List Byte

/-- ECDSA signing with the device identity key over a digest: r then s, 64 bytes (R269). -/
opaque identitySign : List Byte → List Byte

end Sys2Proof.Config
end

