-- ==== Sys2Proof/Machine/Float.lean ====
section
/-!
DEFINITION. Floating-point formats, values and correctly rounded arithmetic (R39 to R44, R118 to R125).
A value is computed exactly as an integer times a power of two and rounded once.
-/
namespace Sys2Proof.Machine

/-- A floating-point format (Table 5.1): exponent bits, fraction bits, and whether it has infinities. -/
structure Fmt where
  ebits : Nat
  fbits : Nat
  ieee : Bool
  deriving DecidableEq, Repr

/-- FP32. -/
def fp32 : Fmt := ⟨8, 23, true⟩
/-- FP64. -/
def fp64 : Fmt := ⟨11, 52, true⟩
/-- FP16. -/
def fp16 : Fmt := ⟨5, 10, true⟩
/-- BF16. -/
def bf16 : Fmt := ⟨8, 7, true⟩
/-- E4M3: no infinity, one NaN pattern. -/
def e4m3 : Fmt := ⟨4, 3, false⟩
/-- E5M2. -/
def e5m2 : Fmt := ⟨5, 2, true⟩

/-- The exponent bias. -/
def Fmt.bias (F : Fmt) : Int := 2 ^ (F.ebits - 1) - 1
/-- The exponent of the smallest subnormal. -/
def Fmt.qmin (F : Fmt) : Int := 1 - F.bias - F.fbits
/-- The weight of the sign bit. -/
def Fmt.signBit (F : Fmt) : Nat := 2 ^ (F.ebits + F.fbits)
/-- The first pattern past the largest finite magnitude. -/
def Fmt.limit (F : Fmt) : Nat := if F.ieee then (2 ^ F.ebits - 1) * 2 ^ F.fbits else 2 ^ (F.ebits + F.fbits) - 1
/-- The canonical NaN (Table 5.1). -/
def Fmt.nan (F : Fmt) : Nat :=
  if F.ieee then (2 ^ F.ebits - 1) * 2 ^ F.fbits + 2 ^ (F.fbits - 1) else 2 ^ (F.ebits + F.fbits) - 1
/-- The infinity of a sign. -/
def Fmt.inf (F : Fmt) (neg : Bool) : Nat := (if neg then F.signBit else 0) + F.limit
/-- The largest finite value of a sign. -/
def Fmt.huge (F : Fmt) (neg : Bool) : Nat := (if neg then F.signBit else 0) + F.limit - 1
/-- The zero of a sign. -/
def Fmt.zero (F : Fmt) (neg : Bool) : Nat := if neg then F.signBit else 0

/-- A value: NaN, an infinity, or ±m × 2^e. -/
inductive FVal where
  | nan
  | inf (neg : Bool)
  | fin (neg : Bool) (m : Nat) (e : Int)
  deriving DecidableEq, Repr

/-- The value a pattern encodes (R39). -/
def Fmt.unpack (F : Fmt) (b : Nat) : FVal :=
  let neg := decide (b / F.signBit % 2 = 1)
  let mag := b % F.signBit
  let ex := mag / 2 ^ F.fbits
  let fr := mag % 2 ^ F.fbits
  if F.limit ≤ mag then if F.ieee && decide (mag = F.limit) then .inf neg else .nan
  else if ex = 0 then .fin neg fr F.qmin
  else .fin neg (2 ^ F.fbits + fr) (F.qmin + (ex - 1 : Nat))

/-- FMODE (Table 5.2). -/
structure FMode where
  rm : Nat
  ftz : Bool
  deriving DecidableEq, Repr

/-- The mode an FMODE value sets. -/
def fmodeOf (w : Word) : FMode := ⟨w.toNat % 4, decide (w.toNat / 4 % 2 = 1)⟩

/-- Round to nearest, ties to even, with subnormals honoured: the fixed mode of the engines and atomics. -/
def rne : FMode := ⟨0, false⟩

/-- Flags of Table 5.3. -/
def flagNV : BitVec 6 := 1
/-- Division by zero. -/
def flagDZ : BitVec 6 := 2
/-- Overflow. -/
def flagOF : BitVec 6 := 4
/-- Underflow. -/
def flagUF : BitVec 6 := 8
/-- Inexact. -/
def flagNX : BitVec 6 := 16
/-- Saturated. -/
def flagSAT : BitVec 6 := 32

/-- A result: its pattern and the flags it raises. -/
structure FRes where
  bits : Nat
  flags : BitVec 6
  deriving DecidableEq, Repr

/-- m × 2^e as a multiple of 2^q: the integer rounded in the mode, and whether it is inexact. -/
def roundAt (rm : Nat) (neg : Bool) (m : Nat) (e q : Int) : Nat × Bool :=
  if q ≤ e then (m * 2 ^ (e - q).toNat, false)
  else
    let d := (q - e).toNat
    let k := m / 2 ^ d
    let r := m % 2 ^ d
    let up := match rm with
      | 0 => decide (2 ^ (d - 1) < r) || decide (r = 2 ^ (d - 1)) && decide (k % 2 = 1)
      | 1 => false
      | 2 => neg && decide (r ≠ 0)
      | _ => !neg && decide (r ≠ 0)
    (if up then k + 1 else k, decide (r ≠ 0))

/-- The exponent of the leading bit of m × 2^e. -/
def leadExp (m : Nat) (e : Int) : Int := e + Nat.log2 m

/-- The result is tiny: below the smallest normal after rounding with an unbounded exponent (R43). -/
def isTiny (F : Fmt) (rm : Nat) (neg : Bool) (m : Nat) (e : Int) : Bool :=
  let q := leadExp m e - F.fbits
  let k := (roundAt rm neg m e q).1
  decide (leadExp k q < F.qmin + F.fbits)

/-- The pattern of ±m × 2^e rounded with exponent range unbounded above, and whether that is inexact. -/
def roundMag (F : Fmt) (rm : Nat) (neg : Bool) (m : Nat) (e : Int) : Nat × Bool :=
  let q := max (leadExp m e - F.fbits) F.qmin
  let r := roundAt rm neg m e q
  (r.1 + (q - F.qmin).toNat * 2 ^ F.fbits, r.2)

/-- Overflow of a finite value (R118, Table 5.4). -/
def overflow (F : Fmt) (rm : Nat) (neg : Bool) : Nat :=
  if rm = 0 ∨ (rm = 2 ∧ neg) ∨ (rm = 3 ∧ !neg) then F.inf neg else F.huge neg

/-- ±m × 2^e rounded once (round32 and round64 of R118). -/
def roundTo (F : Fmt) (md : FMode) (neg : Bool) (m : Nat) (e : Int) : FRes :=
  if m = 0 then ⟨F.zero neg, 0⟩
  else
    let tiny := isTiny F md.rm neg m e
    if tiny && md.ftz then ⟨F.zero neg, flagUF ||| flagNX⟩
    else
      let r := roundMag F md.rm neg m e
      if F.limit ≤ r.1 then ⟨overflow F md.rm neg, flagOF ||| flagNX⟩
      else ⟨F.zero neg + r.1, if r.2 then (if tiny then flagUF ||| flagNX else flagNX) else 0⟩

/-- An operand read under FTZ (R43): a subnormal becomes the zero of its sign. -/
def Fmt.read (F : Fmt) (md : FMode) (b : Nat) : FVal :=
  match F.unpack b with
  | .fin neg m e => if md.ftz && decide (m < 2 ^ F.fbits) then .fin neg 0 e else .fin neg m e
  | v => v

/-- The operand's bits after a flush. -/
def Fmt.readBits (F : Fmt) (md : FMode) (b : Nat) : Nat :=
  match F.unpack b with
  | .fin neg m _ => if md.ftz && decide (m < 2 ^ F.fbits) then F.zero neg else b
  | _ => b

/-- A signed integer times 2^e. -/
def signed (neg : Bool) (m : Nat) : Int := if neg then -(m : Int) else m

/-- x × 2^(e - q) for q ≤ e. -/
def scaleTo (neg : Bool) (m : Nat) (e q : Int) : Int := signed neg m * 2 ^ (e - q).toNat

/-- The exact sum of two values, rounded; a zero sum takes the sign of R118. -/
def addFin (F : Fmt) (md : FMode) (na : Bool) (ma : Nat) (ea : Int) (nb : Bool) (mb : Nat) (eb : Int) : FRes :=
  let q := min ea eb
  let t := scaleTo na ma ea q + scaleTo nb mb eb q
  if t = 0 then
    let neg := if ma = 0 ∧ mb = 0 ∧ na = nb then na else decide (md.rm = 2)
    ⟨F.zero neg, 0⟩
  else roundTo F md (decide (t < 0)) t.natAbs q

/-- Sum (R119). -/
def fAdd (F : Fmt) (md : FMode) (x y : FVal) : FRes :=
  match x, y with
  | .nan, _ => ⟨F.nan, 0⟩
  | _, .nan => ⟨F.nan, 0⟩
  | .inf a, .inf b => if a = b then ⟨F.inf a, 0⟩ else ⟨F.nan, flagNV⟩
  | .inf a, .fin _ _ _ => ⟨F.inf a, 0⟩
  | .fin _ _ _, .inf b => ⟨F.inf b, 0⟩
  | .fin na ma ea, .fin nb mb eb => addFin F md na ma ea nb mb eb

/-- The value with its sign flipped. -/
def FVal.neg : FVal → FVal
  | .nan => .nan
  | .inf n => .inf (!n)
  | .fin n m e => .fin (!n) m e

/-- The exact product, with the invalid case of 0 × ∞. -/
def fProd (x y : FVal) : FVal × Bool :=
  match x, y with
  | .nan, _ => (.nan, false)
  | _, .nan => (.nan, false)
  | .inf a, .inf b => (.inf (a != b), false)
  | .inf a, .fin b m _ => if m = 0 then (.nan, true) else (.inf (a != b), false)
  | .fin a m _, .inf b => if m = 0 then (.nan, true) else (.inf (a != b), false)
  | .fin a m e, .fin b k g => (.fin (a != b) (m * k) (e + g), false)

/-- A value delivered in a format. -/
def fOut (F : Fmt) (md : FMode) : FVal → FRes
  | .nan => ⟨F.nan, 0⟩
  | .inf n => ⟨F.inf n, 0⟩
  | .fin n m e => roundTo F md n m e

/-- Product (R119). -/
def fMul (F : Fmt) (md : FMode) (x y : FVal) : FRes :=
  match fProd x y with
  | (_, true) => ⟨F.nan, flagNV⟩
  | (v, false) => fOut F md v

/-- Fused multiply-add (R119): a 0 × ∞ product is invalid whatever the addend holds. -/
def fFma (F : Fmt) (md : FMode) (x y z : FVal) : FRes :=
  match fProd x y with
  | (_, true) => ⟨F.nan, flagNV⟩
  | (v, false) => fAdd F md v z

/-- A quotient of positive integers with f + 4 significant bits and a sticky bit below. -/
def divBits (f ma mb : Nat) : Nat × Int :=
  let k := f + 4 + Nat.log2 mb + 1
  let n := ma * 2 ^ k
  (2 * (n / mb) + (if n % mb = 0 then 0 else 1), -(k : Int) - 1)

/-- Quotient (R122). -/
def fDiv (F : Fmt) (md : FMode) (x y : FVal) : FRes :=
  match x, y with
  | .nan, _ => ⟨F.nan, 0⟩
  | _, .nan => ⟨F.nan, 0⟩
  | .inf _, .inf _ => ⟨F.nan, flagNV⟩
  | .inf a, .fin b _ _ => ⟨F.inf (a != b), 0⟩
  | .fin a _ _, .inf b => ⟨F.zero (a != b), 0⟩
  | .fin a m e, .fin b k g =>
    if k = 0 then if m = 0 then ⟨F.nan, flagNV⟩ else ⟨F.inf (a != b), flagDZ⟩
    else
      let q := divBits F.fbits m k
      roundTo F md (a != b) q.1 (e - g + q.2)

/-- The integer square root, bit by bit from bit n. -/
def isqrtFrom (x : Nat) : Nat → Nat → Nat
  | 0, r => if (r + 1) * (r + 1) ≤ x then r + 1 else r
  | n + 1, r => isqrtFrom x n (if (r + 2 ^ (n + 1)) * (r + 2 ^ (n + 1)) ≤ x then r + 2 ^ (n + 1) else r)

/-- The integer square root. -/
def isqrt (x : Nat) : Nat := isqrtFrom x (Nat.log2 x / 2 + 1) 0

/-- A square root with enough bits for f fraction bits and a sticky bit; the exponent is even. -/
def sqrtBits (f m : Nat) (e : Int) : Nat × Int :=
  let m' := if e % 2 = 0 then m else 2 * m
  let e' := if e % 2 = 0 then e else e - 1
  let k := f + 4
  let n := m' * 2 ^ (2 * k)
  let r := isqrt n
  (2 * r + (if r * r = n then 0 else 1), e' / 2 - k - 1)

/-- Square root (R122). -/
def fSqrt (F : Fmt) (md : FMode) (x : FVal) : FRes :=
  match x with
  | .nan => ⟨F.nan, 0⟩
  | .inf n => if n then ⟨F.nan, flagNV⟩ else ⟨F.inf false, 0⟩
  | .fin n m e =>
    if m = 0 then ⟨F.zero n, 0⟩
    else if n then ⟨F.nan, flagNV⟩
    else
      let r := sqrtBits F.fbits m e
      roundTo F md false r.1 r.2

/-- The order of two values that are not NaN: their exact values, infinities outside. -/
def fLess (x y : FVal) : Bool :=
  match x, y with
  | .nan, _ => false
  | _, .nan => false
  | .inf a, .inf b => a && !b
  | .inf a, .fin _ _ _ => a
  | .fin _ _ _, .inf b => !b
  | .fin a m e, .fin b k g => decide (scaleTo a m e (min e g) < scaleTo b k g (min e g))

/-- Equality of values, −0 and +0 equal. -/
def fEqual (x y : FVal) : Bool :=
  match x, y with
  | .nan, _ => false
  | _, .nan => false
  | .inf a, .inf b => a == b
  | .fin a m e, .fin b k g => decide (scaleTo a m e (min e g) = scaleTo b k g (min e g))
  | _, _ => false

/-- Whether a value is NaN. -/
def FVal.isNan : FVal → Bool
  | .nan => true
  | _ => false

/-- The sign of a value that is not NaN. -/
def FVal.sign : FVal → Bool
  | .nan => false
  | .inf n => n
  | .fin n _ _ => n

/-- Lesser or greater of two values, −0 below +0; the chosen operand's bits (R120). -/
def fMinMax (F : Fmt) (md : FMode) (greater : Bool) (a b : Nat) : Nat :=
  let x := F.read md a
  let y := F.read md b
  if x.isNan && y.isNan then F.nan
  else if x.isNan then F.readBits md b
  else if y.isNan then F.readBits md a
  else
    let less := fLess x y || (fEqual x y && x.sign && !y.sign)
    if less != greater then F.readBits md a else F.readBits md b

/-- The four compares (R121): 0 EQ, 1 LT, 2 LE, 3 UN. -/
def fCompare (F : Fmt) (md : FMode) (kind a b : Nat) : Bool :=
  let x := F.read md a
  let y := F.read md b
  match kind with
  | 0 => fEqual x y
  | 1 => fLess x y
  | 2 => fLess x y || fEqual x y
  | _ => x.isNan || y.isNan

/-- Conversion to an integer in [lo, hi], toward zero (R44, R125): the integer, and the flags. -/
def fToInt (lo hi : Int) (x : FVal) : Int × BitVec 6 :=
  match x with
  | .nan => (0, flagNV)
  | .inf n => (if n then lo else hi, flagSAT)
  | .fin n m e =>
    let r := roundAt 1 n m e 0
    let t := signed n r.1
    if t < lo then (lo, flagSAT ||| flagNX)
    else if hi < t then (hi, flagSAT ||| flagNX)
    else (t, if r.2 then flagNX else 0)

/-- Conversion of an integer (R44). -/
def fOfInt (F : Fmt) (md : FMode) (t : Int) : FRes := roundTo F md (decide (t < 0)) t.natAbs 0

/-- Conversion between formats with the rules of Table 5.4: narrow results are never flushed. -/
def fConvert (F : Fmt) (md : FMode) (x : FVal) : FRes := fOut F md x

/-- Conversion to E4M3 (Table 5.4, R40): rounded as if unbounded, then clamped; a NaN keeps its sign. -/
def fToE4m3 (rm : Nat) (sign : Bool) (x : FVal) : FRes :=
  match x with
  | .nan => ⟨e4m3.zero sign + 0x7F, 0⟩
  | .inf n => ⟨e4m3.zero n + 0x7E, flagSAT⟩
  | .fin n m e =>
    if m = 0 then ⟨e4m3.zero n, 0⟩
    else
      let r := roundMag e4m3 rm n m e
      if 0x7F ≤ r.1 then ⟨e4m3.zero n + 0x7E, flagSAT ||| flagNX⟩
      else ⟨e4m3.zero n + r.1,
        if r.2 then (if isTiny e4m3 rm n m e then flagUF ||| flagNX else flagNX) else 0⟩

/-- Conversion to E5M2 (Table 5.4): overflow gives ±∞ in every mode. -/
def fToE5m2 (rm : Nat) (x : FVal) : FRes :=
  match x with
  | .fin n m e =>
    if m = 0 then ⟨e5m2.zero n, 0⟩
    else
      let r := roundMag e5m2 rm n m e
      if e5m2.limit ≤ r.1 then ⟨e5m2.inf n, flagOF ||| flagNX⟩
      else ⟨e5m2.zero n + r.1,
        if r.2 then (if isTiny e5m2 rm n m e then flagUF ||| flagNX else flagNX) else 0⟩
  | v => fOut e5m2 ⟨rm, false⟩ v

/-- The codebook of NQ4 in units of 1/1,024 (Table 5.5). -/
def nqMagnitude (k : Nat) : Nat :=
  match k with
  | 0 => 43 | 1 => 130 | 2 => 221 | 3 => 318 | 4 => 427 | 5 => 555 | 6 => 725 | _ => 1024

/-- The exact block product ±m_k × (s + 1) / 256 of an NQ4 code (R46). -/
def nqFactor (code scale : Nat) : FVal :=
  .fin (decide (code / 8 % 2 = 1)) (nqMagnitude (code % 8) * (scale % 256 + 1)) (-18)

/-- The value of an NQ4 element: one rounding, RNE, subnormals kept (R46). -/
def nqValue (code scale : Nat) (super : FVal) : Nat :=
  match super with
  | .nan => fp32.nan
  | .inf n => fp32.inf (n != decide (code / 8 % 2 = 1))
  | v => (fMul fp32 rne (nqFactor code scale) v).bits

/-- |x| × 2,048 compared with a threshold given in units of 1/2,048: true when |x| is greater. -/
def aboveThreshold (m : Nat) (e : Int) (t : Nat) : Bool :=
  decide (scaleTo false t (-11) (min e (-11)) < scaleTo false m e (min e (-11)))

/-- The magnitude index of NQENC (Table 13.5). -/
def nqIndex (m : Nat) (e : Int) : Nat :=
  ([173, 351, 539, 745, 982, 1280, 1749].filter (aboveThreshold m e)).length

/-- NQENC (R127): the nearest code and the flags. -/
def nqEncode (x : FVal) : Nat × BitVec 6 :=
  match x with
  | .nan => (0, flagNV)
  | .inf n => ((if n then 8 else 0) + 7, flagSAT)
  | .fin n m e =>
    let k := nqIndex m e
    let exact := fEqual (.fin false m e) (.fin false (nqMagnitude k) (-10))
    let big := aboveThreshold m e 2048
    ((if n then 8 else 0) + k, if big then flagSAT ||| flagNX else if exact then 0 else flagNX)

/-- A float32 sum under the fixed mode of R117 and R137. -/
def addF32 (a b : Word) : Word :=
  BitVec.ofNat 32 (fAdd fp32 rne (fp32.unpack a.toNat) (fp32.unpack b.toNat)).bits

end Sys2Proof.Machine
end

