-- ==== Sys2Proof/Machine/Store.lean ====
section
/-!
DEFINITION. Sparse maps from numbers, as lists of pairs, and the byte memory in its canonical form.
-/
namespace Sys2Proof.Machine

/-- A sparse map. A key that is not listed has no value. -/
abbrev Store (α : Type) := List (Nat × α)

/-- The value at key k. -/
def Store.get? {α : Type} : Store α → Nat → Option α
  | [], _ => none
  | (j, a) :: t, k => if j = k then some a else Store.get? t k

/-- The value at key k, or the default. -/
def Store.getD {α : Type} (m : Store α) (k : Nat) (d : α) : α := (m.get? k).getD d

/-- The map with key k holding a; a rising list of keys stays rising. -/
def Store.set {α : Type} : Store α → Nat → α → Store α
  | [], k, a => [(k, a)]
  | (j, b) :: t, k, a =>
    if j = k then (k, a) :: t else if k < j then (k, a) :: (j, b) :: t else (j, b) :: Store.set t k a

/-- The map without key k. -/
def Store.erase {α : Type} (m : Store α) (k : Nat) : Store α := m.filter (fun p => p.1 != k)

/-- The map with f applied to the values of the listed keys. -/
def Store.mapKeys {α : Type} (m : Store α) (ks : List Nat) (f : α → α) : Store α :=
  m.map (fun p => if ks.contains p.1 then (p.1, f p.2) else p)

/-- The map with f applied to the value at k, when k has one. -/
def Store.adjust {α : Type} (m : Store α) (k : Nat) (f : α → α) : Store α :=
  m.map (fun p => if p.1 = k then (p.1, f p.2) else p)

/-- The keys whose values satisfy a test, in the map's order. -/
def Store.keysWhere {α : Type} (m : Store α) (q : Nat → α → Bool) : List Nat :=
  (m.filter (fun p => q p.1 p.2)).map (·.1)

/-- The values that satisfy a test. -/
def Store.valuesWhere {α : Type} (m : Store α) (q : α → Bool) : List α := (m.map (·.2)).filter q

/-- One more than the greatest key. -/
def Store.nextKey {α : Type} (m : Store α) : Nat := m.foldl (fun n p => Nat.max n (p.1 + 1)) 0

/-- What a byte of memory that nothing has written reads as (DESIGN CHOICE, log entry 3). -/
def unwrittenByte : Byte := 0

/-- A memory: cells with strictly rising addresses, none of which holds the unwritten byte. -/
abbrev Memory := List Host.Cell

/-- The byte at address a. -/
def Memory.read : Memory → Nat → Byte
  | [], _ => unwrittenByte
  | (j, b) :: t, a => if j = a then b else Memory.read t a

/-- The memory with byte b put before or over the cell for address a; the list of cells is walked once. -/
def Memory.insert : Memory → Nat → Byte → Memory
  | [], a, b => [(a, b)]
  | (j, c) :: t, a, b =>
    if j = a then (a, b) :: t else if a < j then (a, b) :: (j, c) :: t else (j, c) :: Memory.insert t a b

/-- The memory with address a holding b: writing the unwritten byte removes the cell. -/
def Memory.write (m : Memory) (a : Nat) (b : Byte) : Memory :=
  if b = unwrittenByte then m.filter (fun c => c.1 != a) else m.insert a b

/-- The canonical form: addresses strictly rising from lo, and no cell holding the unwritten byte. -/
def Memory.wfFrom : Nat → Memory → Bool
  | _, [] => true
  | lo, (a, b) :: t => decide (lo ≤ a) && b != unwrittenByte && Memory.wfFrom (a + 1) t

/-- The memory is in its canonical form. -/
def Memory.wf (m : Memory) : Bool := Memory.wfFrom 0 m

/-- The n bytes from address a. -/
def Memory.readBytes (m : Memory) (a n : Nat) : List Byte := (List.range n).map (fun i => m.read (a + i))

/-- The memory with the given bytes written from address a. -/
def Memory.writeBytes : Memory → Nat → List Byte → Memory
  | m, _, [] => m
  | m, a, b :: t => Memory.writeBytes (m.write a b) (a + 1) t

/-- The cells of some bytes from address a on. -/
def Memory.cells : Nat → List Byte → Memory
  | _, [] => []
  | a, b :: t => if b = unwrittenByte then Memory.cells (a + 1) t else (a, b) :: Memory.cells (a + 1) t

/-- The memory with the given bytes from address a on, laid over it in one pass: for long lists. -/
def Memory.overwrite (m : Memory) (a : Nat) (l : List Byte) : Memory :=
  m.filter (fun c => decide (c.1 < a)) ++ (Memory.cells a l ++ m.filter (fun c => decide (a + l.length ≤ c.1)))

/-- The addresses at which two memories in canonical form differ, ascending; n bounds the number of their cells. -/
def Memory.changed : Nat → Memory → Memory → List Nat
  | 0, _, _ => []
  | _ + 1, [], m => m.map (·.1)
  | _ + 1, m, [] => m.map (·.1)
  | n + 1, (i, x) :: s, (j, y) :: t =>
    if i = j then (if x = y then Memory.changed n s t else i :: Memory.changed n s t)
    else if i < j then i :: Memory.changed n s ((j, y) :: t)
    else j :: Memory.changed n ((i, x) :: s) t

end Sys2Proof.Machine
end

