-- ==== Sys2Proof/Machine/State.lean ====
section
/-!
DEFINITION. The state of a DXT-9100: everything the spec gives the machine, as plain data, and its value at reset.
Most of it is sparse: a key that a store does not list holds the value the field's docstring names.
-/
namespace Sys2Proof.Machine

/-- Reasons for a stuck machine. -/
inductive Fault where
  /-- Raised by no meaning of this model: every trap the spec describes is a next state. Safe. -/
  | stuck
  deriving DecidableEq, Repr

/-- Reasons for a refusal. -/
inductive Refusal where
  /-- An instruction whose meaning is not modelled; raised by the dispatcher only. Safe. -/
  | notModelled (mnemonic : String)
  deriving DecidableEq, Repr

/-- A trap cause with the values FADDR and FINFO take (R232, Table 32.1). -/
structure Trap where
  cause : BitVec 10
  addr : DWord
  info : Word
  deriving DecidableEq, Repr

/-- What a parked thread waits for (R38, Table 26.2). -/
inductive Park where
  /-- Arrived at rejoin mask RJn (R26). -/
  | join (rj : Nat)
  /-- A tagged word: the word's physical address, 0 LDF, 1 LDFF, 2 STE, the register loaded or the datum stored. -/
  | tagged (pa kind dst : Nat) (data : Word)
  /-- Asleep in WAITV on the word at pa (R61). -/
  | waitv (pa : Nat)
  /-- Queued for the lock at pa, with the value the word takes when the lock is its (R142). -/
  | qlock (pa value : Nat)
  /-- Waiting in the barrier object at pa (R145). -/
  | bar (pa : Nat)
  /-- Its group's request for n rows stands in the grant queue (R30). -/
  | grow (n : Nat)
  /-- Arrived at REGRP with its key (R32). -/
  | regrp (key : Word)
  /-- A ring word: header, 0 RCLAIM, 1 RCOMMIT, 2 RAWAIT, 3 RRETIRE, its index or rank, the register written; its
  issue, as the arrival of the first participant to park, and the number of participants (R192). -/
  | ring (pa kind index dst issue count : Nat)
  /-- MWAIT under CVn (R170). -/
  | mwait (cv : Nat)
  /-- At the first reader of late LDWR data, operation op (R134). -/
  | late (op : Nat)
  /-- A translation fault: the entry it waits on, or none while the buffer is full (R226, R227); the faulting address
  and the access layout of R128. -/
  | xfault (entry : Option Nat) (va info : Nat)
  /-- TWAIT, or TWANY when any is set (R179). -/
  | tagWait (any : Bool) (mask : DWord)
  /-- PROP of a trace: the key of the trace, the register written, the lowest-lane thread of its issue (R188). -/
  | prop (trace dst leader : Nat)
  /-- A steward in WFE (R157). -/
  | wfe
  /-- A steward before boot has ended (R265). -/
  | boot
  deriving DecidableEq, Repr

/-- Whether and how a thread runs. -/
inductive Status where
  | running
  /-- Parked: the wait, the order of arrival, the scope reported by the watchdog, the cycles counted (R38). -/
  | parked (p : Park) (arrival : Nat) (scope : Nat) (count : Nat)
  | exited
  /-- Ended in a trap at a PC (R233). -/
  | ended (t : Trap) (pc : DWord)
  /-- Stopped because its launch ended, or by a machine check (R233, R237). -/
  | stopped
  deriving DecidableEq, Repr

/-- A register that a fixed-latency result is on its way to (R23, R24). -/
inductive Target where
  | v (k : Nat)
  | x (n : Nat)
  | sp (num : Nat)
  deriving DecidableEq, Repr

/-- A fixed-latency result: readable from cycle ready on; a read before that returns old (R24). -/
structure Early where
  tgt : Target
  old : Word
  born : Nat
  ready : Nat
  deriving DecidableEq, Repr

/-- FSTAT bits a fixed-latency class F word will set (R113). -/
structure Pend where
  flags : BitVec 6
  born : Nat
  ready : Nat
  deriving DecidableEq, Repr

/-- A thread (R17). Registers not listed are 0. -/
structure Ctx where
  core : Nat := 0
  lane : Nat := 0
  /-- The group slot that now holds it: GRP. -/
  slot : Nat := 0
  block : Nat := 0
  tid : Nat := 0
  status : Status := .running
  pc : DWord := 0
  v : Store Word := []
  x : Store Word := []
  path : Store Word := []
  fmode : Word := 0
  fstat : Word := 0
  tpc : DWord := 0
  fcause : Word := 0
  faddr : DWord := 0
  finfo : Word := 0
  /-- The handler flag (R232). -/
  handler : Bool := false
  /-- The return stack's hardware entries, top first (R148). -/
  hw : List DWord := []
  spilled : Nat := 0
  /-- What it has spilled, newest first: a fill that finds something else is undefined (R148). -/
  kept : List DWord := []
  tls : DWord := 0
  /-- The CYCHI latch (R113). -/
  cycHi : Word := 0
  early : List Early := []
  pend : List Pend := []
  /-- A deferred store or copy error (R128, R178). -/
  deferred : Option Trap := none
  /-- Restored with a deferred error, which the next word takes (R128). -/
  due : Bool := false
  /-- A FENCE has made its next store or atomic a release (R60, R140). -/
  fenced : Bool := false
  deriving DecidableEq, Repr

/-- The pipes of a core (Tables 11.3 to 11.10). -/
inductive Pipe where
  | alu | fma | fma2 | mem | ctl | xu
  deriving DecidableEq, Repr

/-- A convergence register (R165, R166, Table 26.4). -/
structure Conv where
  declared : Bool := false
  core : Nat := 0
  groups : BitVec 128 := 0
  lanes : Word := 0
  signed : List Nat := []
  packed : Word := 0
  modes : Nat := 0
  /-- 0 for MMA, 1 for MDRAIN: what the first signer signed. -/
  drain : Bool := false
  deriving DecidableEq, Repr

/-- The chain being issued (R25): its pipes, its direct register writes, the registers each thread's words wrote,
and what the group's shared registers held before it. -/
structure Chain where
  pipes : List Pipe
  direct : List Nat
  wrote : List (Nat × Nat)
  /-- Operations numbered from here on were started by this chain. -/
  firstOp : Nat
  alloc : Nat
  rj : Store Word
  tags : DWord
  cv : Store Conv
  /-- BUDGET, SACHIT, SACMISS and SACSKIP before the chain. -/
  budget : Nat
  sac : List Word
  /-- Cycles for which the chain has waited on results of its own words. -/
  waited : Nat
  deriving DecidableEq, Repr

/-- A run (R20): the word it stands at, the threads that remain in it, the words it has issued. -/
structure Run where
  pc : DWord
  mem : List Nat
  count : Nat
  chain : Option Chain
  /-- It waits in place at that word (R22). -/
  held : Bool
  /-- The threads whose copies a COPY that waits has already handed over (R177). -/
  accepted : List Nat
  deriving DecidableEq, Repr

/-- A group (R17), under the key core × 128 + slot. -/
structure Group where
  core : Nat := 0
  slot : Nat := 0
  block : Nat := 0
  /-- Index in the block (R208). -/
  index : Nat := 0
  alloc : Nat := 0
  members : List Nat := []
  rj : Store Word := []
  arrived : Store Word := []
  /-- The ready bitmap TAGHI:TAGLO and the tag fault bits. -/
  tags : DWord := 0
  tagFaults : Store Trap := []
  run : Option Run := none
  lastPc : Option DWord := none
  /-- The runnable PCs of thread class C, each with the cycle since which it has been runnable and not issued (R18). -/
  pcSince : List (DWord × Nat) := []
  /-- PCs that have waited for the starvation time (R18). -/
  starved : List DWord := []
  yielded : Option DWord := none
  /-- The run has issued a YIELD (R152). -/
  yielding : Bool := false
  /-- The cycle before which the group may not begin its next run (R84). -/
  notBefore : Nat := 0
  /-- The cycle since which the group has been eligible (R21). -/
  since : Option Nat := none
  preempt : Bool := false
  /-- Saved, with the address of its group area and what the save wrote there. -/
  saved : Option (Nat × List Byte) := none
  deriving DecidableEq, Repr

/-- One record of a staged stream (R253): the group, lane and order it sorts by, its address, its kind
(0 a store, 1 + op a reduction) and its data. -/
structure Staged where
  grp : Nat
  lane : Nat
  seq : Nat
  pa : Nat
  kind : Nat
  data : List Byte
  deriving DecidableEq, Repr

/-- A range: 48-bit base, granules, written (Table 17.6). -/
structure Range where
  base : Nat
  len : Nat
  written : Bool
  deriving DecidableEq, Repr

/-- The attributes of a kernel that the assembler records with it (R249; DESIGN CHOICE, log entry 7). -/
structure Kernel where
  entry : Nat := 0
  regs : Nat := 8
  tclass : Nat := 0
  gclass : Nat := 0
  bclass : Nat := 0
  budget : Option Nat := none
  scratch : Nat := 0
  tiles : Nat := 0
  cvs : Nat := 0
  recs : Nat := 0
  energy : Nat := 0
  consts : Nat := 0
  traced : Bool := false
  det : Bool := false
  restartable : Bool := false
  rings : List Nat := []
  deriving DecidableEq, Repr

/-- A code image: the partition and code base it lies at, and its kernels by kernel id. -/
structure Image where
  part : Nat
  base : Nat
  kernels : Store Kernel
  deriving DecidableEq, Repr

/-- The phase of a task. -/
inductive Phase where
  | waiting | queued | running | ended | closed
  deriving DecidableEq, Repr

/-- A task (R34), under the number of its dependence-table entry. -/
structure Task where
  gen : Nat := 0
  launch : Nat := 0
  kid : Nat := 0
  nthr : Nat := 1
  bclass : Nat := 0
  det : Bool := false
  restart : Bool := false
  traced : Bool := false
  args : List Word := []
  spawn : List Word := []
  ranges : List Range := []
  /-- Position in the spawn tree: the root's linear block index, then child numbers. -/
  key : List Nat := []
  parent : Option Nat := none
  children : Nat := 0
  /-- Signals still awaited (R186). -/
  waits : Nat := 0
  phase : Phase := .waiting
  /-- The core whose queue holds it. -/
  queue : Option Nat := none
  block : Option Nat := none
  /-- The record of the trace it runs for, with the trace's key. -/
  record : Option (Nat × Nat) := none
  /-- Whether a PROP runs it, and the child numbering restarts (R203). -/
  byProp : Bool := false
  /-- Cores that have run it, and how often it has been run: a restartable task is not run twice on one core, nor more than
  three times (R238). -/
  tried : List Nat := []
  runs : Nat := 0
  /-- A root task of a block of the launch, with that block's linear index. -/
  root : Option Nat := none
  /-- Times it has been bypassed at the head of dispatch (R251). -/
  bypass : Nat := 0
  /-- The round in which a signal last reached it: it is taken in a later one (R231). -/
  signalled : Option Nat := none
  deriving DecidableEq, Repr

/-- A matrix operation in flight (R166): what it was issued with. -/
structure MatOp where
  drain : Bool
  cv : Nat
  signers : List Nat
  modes : Nat
  a : List Word
  b : List Word
  c : List Word
  meta' : List Word
  /-- The metadata descriptor's number, for the report of a nibble that breaks it (R160, R169). -/
  metaTd : Nat
  m : Nat
  /-- The bytes that its operands and results held at issue, to see a racing write (R64). -/
  seen : List Byte
  /-- Where its results lie: physical address and length of each row. -/
  outs : List (Nat × Nat)
  /-- Where its operands lie, likewise. -/
  ins : List (Nat × Nat)
  /-- The registers it reads or writes, with what they held at issue: context, register, value (R64). -/
  held : List (Nat × Nat × Word)
  deriving DecidableEq, Repr

/-- A matrix operation that has completed and that some signers have yet to observe by MWAIT (R64). -/
structure Unseen where
  mat : MatOp
  waiters : List Nat
  /-- Results for registers, delivered at the MWAIT: context, register, value. -/
  regs : List (Nat × Nat × Word)
  /-- No signer has observed it, and its operands still hold what they held at completion. -/
  fresh : Bool
  deriving DecidableEq, Repr

/-- A resident block (R33). -/
structure Block where
  launch : Nat := 0
  task : Nat := 0
  index : Nat := 0
  bx : Nat := 0
  by' : Nat := 0
  bz : Nat := 0
  nthr : Nat := 1
  kernel : Kernel := {}
  det : Bool := false
  restart : Bool := false
  bclass : Nat := 0
  cores : List Nat := []
  /-- Core and byte offset of its scratchpad. -/
  scratchCore : Nat := 0
  scratchOff : Nat := 0
  td : Store (List Word) := []
  cv : Store Conv := []
  recs : Store (List Word) := []
  stage : List Staged := []
  /-- A sampled block (R254): 0 its first run, 1 its second. -/
  sample : Option Nat := none
  /-- A second run: the cores of the first run and of the second so far, and how often it has been run (R238, R254). -/
  tried : List Nat := []
  runs : Nat := 0
  /-- Errors of completed operations, by operation: the register, the trap, the signers yet to see it (R170). -/
  errors : List (Nat × Nat × Trap × List Nat) := []
  /-- Completed matrix operations not yet observed by all their signers (R64). -/
  unseen : List Unseen := []
  /-- The snapshot of a restartable task's written ranges (R238). -/
  snapshot : List (Nat × List Byte) := []
  /-- An access of a restartable task has failed with this cause, and the task is about to end (R238). -/
  failing : Option (BitVec 10) := none
  /-- Ended by a machine check, or for a restart: the cause (R237, R238). -/
  failed : Option (BitVec 10) := none
  /-- Saved whole, with the address of its block area and what the save wrote there (R240). -/
  saved : Option (Nat × List Byte) := none
  deriving DecidableEq, Repr

/-- How a launch ended (Table 28.4). -/
structure Ending where
  status : Nat
  cause : BitVec 10
  block : Nat
  tid : Nat
  pc : DWord
  detail : Nat
  deriving DecidableEq, Repr

/-- A live launch (R249, R250), under its launch number. -/
structure Launch where
  part : Nat := 0
  /-- The slot whose queue issued it, that queue's number and its priority at issue. -/
  slot : Option Nat := none
  queue : Nat := 0
  prio : Nat := 0
  code : DWord := 0
  handler : DWord := 0
  consts : DWord := 0
  compl : DWord := 0
  kid : Nat := 0
  kernel : Kernel := {}
  nbx : Nat := 1
  nby : Nat := 1
  nbz : Nat := 1
  nthr : Nat := 1
  step : Nat := 0
  starve : Nat := 2048
  watchdog : Nat := 0
  checking : Bool := false
  spill : Nat := 56
  replay : Nat := 3
  trace : Option Nat := none
  stage : DWord := 0
  seed : DWord := 0
  restart : DWord := 0
  save : DWord := 0
  args : List Word := []
  ranges : List Range := []
  /-- Blocks dispatched and committed so far: indices below these numbers. -/
  dispatched : Nat := 0
  committed : Nat := 0
  /-- Staged streams of ended blocks that have not committed (R253). -/
  streams : Store (List Staged) := []
  /-- The streams of first and second runs awaiting comparison, with their cores (R254), by linear index. -/
  first : Store (Nat × List Staged) := []
  second : Store (Nat × List Staged) := []
  sacHit : Word := 0
  sacMiss : Word := 0
  sacSkip : Word := 0
  /-- How it will be recorded, once it is ending. -/
  ending : Option Ending := none
  /-- Contexts that trapped in a GROW deadlock firing and have yet to return (R31). -/
  deadlocked : List Nat := []
  deadlock : Option Ending := none
  gang : Option Nat := none
  /-- The words of its constant block and the header addresses of its named rings, as admission found them (R72, R211). -/
  constants : List Word := []
  rings : List DWord := []
  /-- Candidate state of its next block: times bypassed (R251). -/
  bypass : Nat := 0
  /-- Order of admission. -/
  order : Nat := 0
  /-- It may not start until the gang's start (R255). -/
  held : Bool := false
  /-- Not a launch but the tasks a PROP runs: the trace's key (R203). -/
  prop : Option Nat := none
  /-- Memory as it stood at its admission, of which its fetches may still see the code image (R274). -/
  image : Option Memory := none
  /-- The words that the steps since have changed, each as it stood before: address and word, newest first (R274). -/
  past : List (Nat × Word) := []
  deriving DecidableEq, Repr

/-- A partition (R259). -/
structure Partition where
  quads : List Nat := []
  root : Nat := 0
  qtable : Nat := 0
  slots : List Nat := []
  /-- Entries of the SAC it holds, and where their tiles lie (R221). -/
  sacShare : Nat := 0
  sacRegion : Nat := 0
  /-- Queue numbers whose pending bit is set (R245). -/
  pending : List Nat := []
  swapped : Bool := false
  deriving DecidableEq, Repr

/-- A record of a trace (R197). -/
structure TraceTask where
  kid : Nat := 0
  spawn : List Word := []
  args : List Word := []
  parent : Option Nat := none
  key : List Nat := []
  /-- The key it had before an ancestor that runs again renumbered it (R204, R205). -/
  oldKey : Option (List Nat) := none
  ranges : List Range := []
  children : List Nat := []
  reads : List Nat := []
  /-- Granules written in first-write order, each with the bytes it held before, empty until the write is performed. -/
  writes : List (Nat × List Byte) := []
  stale : Bool := false
  /-- The task running it now. -/
  task : Option Nat := none
  /-- While it re-executes: its old read and write sets, its old children not yet matched or passed, those passed. -/
  oldReads : List Nat := []
  oldWrites : List (Nat × List Byte) := []
  oldChildren : List Nat := []
  skipped : List Nat := []
  closed : Bool := false
  bclass : Nat := 0
  nthr : Nat := 1
  deriving DecidableEq, Repr

/-- A PROP (R188): the first context of its issue, or a slot's command as 2 ^ 40 + slot; the tasks executed so far; memory
as it stood when it was issued, of which its tasks' fetches may still see the code image (R274). -/
structure PropRun where
  who : Nat
  count : Word
  image : Memory
  /-- The words changed since, as in Launch.past. -/
  past : List (Nat × Word) := []
  deriving DecidableEq, Repr

/-- A trace (R196), under the key partition × 16 + number. -/
structure Trace where
  launch : Nat := 0
  code : DWord := 0
  done : Bool := false
  dead : Bool := false
  region : Nat := 0
  size : Nat := 0
  /-- Where the region's pages lie: physical address and length, as admission found them. -/
  frames : List (Nat × Nat) := []
  /-- A program has stored into the region (R198). -/
  spoiled : Bool := false
  recs : Store TraceTask := []
  reexecuted : Word := 0
  spawned : Word := 0
  spliced : Word := 0
  discarded : Word := 0
  undone : Word := 0
  marks : Word := 0
  /-- PROPs in the order in which they reached the trace unit. -/
  props : List PropRun := []
  /-- What a launch descriptor gave, kept for tasks a PROP runs. -/
  model : Launch := {}
  deriving DecidableEq, Repr

/-- A copy in flight (R177, R178). -/
structure CopyRec where
  src : Nat
  dst : Nat
  rowBytes : Nat
  rows : Nat
  sstride : Nat
  dstride : Nat
  kind : Nat
  tag : Nat
  caddr : DWord
  part : Nat
  /-- Register-window destinations resolved when the copy was accepted: physical address, context, register (R228). -/
  resolved : List (Nat × Nat × Nat)
  deriving DecidableEq, Repr

/-- A decision on a collective (R264). -/
structure Decision where
  commit : Bool
  code : Nat
  rank : Nat
  result : List Byte
  deriving DecidableEq, Repr

/-- A collective of this device in flight (R182, R264). -/
structure Coll where
  /-- Its place among the group's collectives (R182). -/
  number : Nat := 0
  src : Nat := 0
  dst : Nat := 0
  n : Nat := 0
  op : Nat := 0
  mode : Nat := 0
  status : Nat := 0
  part : Nat := 0
  /-- Its rank's contribution, and whether the predecessor's partial result has come and gone on. -/
  contribution : List Byte := []
  passed : Bool := false
  /-- An ABORT has been reported to the decider. -/
  aborted : Bool := false
  decided : Option Decision := none
  deriving DecidableEq, Repr

/-- What an operation in flight will do. -/
inductive OpKind where
  /-- A load: physical address, size, sign extension; the data is read when it returns. -/
  | load (pa size : Nat) (signed : Bool)
  /-- A value already in hand, such as an atomic's, with the physical address it came from. -/
  | value (pa : Nat) (vals : List Word)
  /-- A variable-latency result, with a path register and FSTAT bits. -/
  | result (vals : List Word) (path : Option (Nat × Word)) (flags : BitVec 6)
  | store (pa : Nat) (data : List Byte) (release : Bool)
  | reduce (pa op : Nat) (data : Word)
  | copy (c : CopyRec)
  | matrix (m : MatOp)
  /-- Rows that SHRINK or a block's end gave back, and the operations that must complete before they return. -/
  | rows (n : Nat) (after : List Nat)
  | walk (vals : List Word) (path : Nat × Word)
  | coll (group : Nat) (c : Coll) (kind tag : Nat)
  deriving DecidableEq, Repr

/-- An operation in flight (R252), under its number; numbers rise in issue order. -/
structure Op where
  core : Nat := 0
  ctx : Nat := 0
  grp : Nat := 0
  block : Nat := 0
  launch : Nat := 0
  /-- V registers of the context it will write, and those a load reads through the register window (R57). -/
  dst : List Nat := []
  src : List Nat := []
  va : DWord := 0
  /-- The access layout of R128. -/
  info : Word := 0
  pc : DWord := 0
  /-- The page is modifiable (R195). -/
  mod : Bool := false
  kind : OpKind := .rows 0 []
  /-- An LDWR's load. -/
  late : Bool := false
  /-- Waiting on a fault buffer entry. -/
  fault : Option Nat := none
  /-- The error response a store or reduction will get for its address (R128); for an engine or the shuttle, that its
  faulting access was refused (R236). -/
  err : Option (BitVec 10) := none
  /-- What a copy waits for is the walk to its kind 1 object; that walk has been refused (R178, R236). -/
  atObject : Bool := false
  noObject : Bool := false
  deriving DecidableEq, Repr

/-- A channel of a shuttle (R181). -/
structure Channel where
  head : DWord := 0
  cur : DWord := 0
  busy : Bool := false
  fault : Bool := false
  cause : Word := 0
  addr : DWord := 0
  ctx : Nat := 0
  grp : Nat := 0
  /-- The partition whose addresses it uses (R176). -/
  part : Nat := 0
  /-- The fault buffer entry the record waits on, and whether the last answer was a failure (R178, R236). -/
  wait : Option Nat := none
  denied : Bool := false
  /-- It waits for the walk to the record's kind 1 object; that walk has been refused. -/
  atObject : Bool := false
  noObject : Bool := false
  deriving DecidableEq, Repr

/-- A core (R7); a core not listed has the values below. -/
structure Core where
  cycle : Nat := 0
  freeRows : Nat := 6144
  /-- Grant queue: group keys with their requests, oldest first (R30). -/
  growQ : List (Nat × Nat) := []
  /-- Task queue: dependence-table entries, oldest first (R229). -/
  taskQ : List Nat := []
  channels : Store Channel := []
  /-- The matrix queue: operations issued, oldest first (R216). -/
  matQ : List Nat := []
  /-- Cycles for which the conditions of the GROW deadlock check have held (R31). -/
  quiet : Nat := 0
  deriving DecidableEq, Repr

/-- A fault buffer entry (R227), under the key core × 256 + entry. -/
structure FaultEntry where
  part : Nat
  base : Nat
  size : Nat
  deriving DecidableEq, Repr

/-- An access of a shuttle or an engine that found its core's fault buffer full: its place in fault order and what its
entry will hold (R227). -/
structure FaultWait where
  seq : Nat
  core : Nat
  part : Nat
  level : Nat
  base : Nat
  size : Nat
  va : Nat
  info : Nat
  agent : Nat
  deriving DecidableEq, Repr

/-- A steward's own registers (R90, R101, R157). -/
structure Steward where
  spart : BitVec 4 := 0
  svec : DWord := 0
  latch : Bool := false
  halted : Bool := false
  deriving DecidableEq, Repr

/-- A hardware slot (R246). -/
structure Slot where
  qcb : Nat := 0
  map : Bool := false
  busy : Bool := false
  read : Word := 0
  age : Nat := 0
  queue : Nat := 0
  part : Nat := 0
  stopped : Bool := false
  /-- The WAITW at READ has begun. -/
  begun : Bool := false
  /-- The PROP or SIGW at READ is under way; an unmapping waits for it. -/
  running : Bool := false
  awake : Bool := false
  /-- The count a PROP command has returned, not yet written (R248). -/
  result : Option Word := none
  deriving DecidableEq, Repr

/-- A stored input and output of the Step Activation Cache (R172). -/
structure SacEntry where
  part : Nat
  key : Word
  tile : Nat
  step : Nat
  replays : Nat
  inTd : List Word
  outTd : List Word
  inData : List Byte
  outData : List Byte
  used : Nat
  /-- Which 64 KiB of its partition's data region are its own, and the bytes it left there (R221). -/
  place : Nat := 0
  leftIn : List Byte := []
  leftOut : List Byte := []
  deriving DecidableEq, Repr

/-- A panel's power controller (R251, R270); the clock counts steps of 100 MHz. -/
structure Panel where
  headroom : Nat := 3
  clock : Nat := 17
  /-- The junction has been above 95 °C and stays above 90 °C. -/
  hot : Bool := false
  deriving DecidableEq, Repr

/-- A seam link (R261). -/
structure Link where
  up : Bool := true
  lanes : Nat := 8
  /-- The sequence number next accepted, and the last one the other side has acknowledged. -/
  expect : Nat := 0
  acked : Nat := 0
  failures : Nat := 0
  deriving DecidableEq, Repr

/-- A gang (R213, R255): its members' launch numbers, the devices still to acknowledge, its slot. -/
structure Gang where
  members : List Nat := []
  remote : List Nat := []
  awaiting : List Nat := []
  started : Bool := false
  slot : Option Nat := none
  aborted : Bool := false
  deriving DecidableEq, Repr

/-- Where the boot stands (R265 to R269). -/
structure Boot where
  state : Nat := 0
  attempts : Nat := 0
  reason : Nat := 0
  linkUp : Bool := false
  url : Bool := false
  /-- The image being verified, or running. -/
  image : List Byte := []
  verifying : Bool := false
  signing : Bool := false
  nonce : List Byte := []
  /-- Where the measurement log ends, as an offset in the management space (R269). -/
  logEnd : Nat := 0x1000
  deriving DecidableEq, Repr

/-- The host's side (R256 to R258). -/
structure HostIf where
  /-- Link rate in units of 0.1 GT/s, 0 while untrained. -/
  rate : Nat := 0
  flits : Bool := false
  /-- MSI-X vectors raised and not yet seen: function, vector. -/
  raised : List (Nat × Nat) := []
  /-- The size of each function's BAR 2, where the host has resized it from 1 GiB (R256). -/
  bars : Store Nat := []
  /-- The bytes the last host read returned. -/
  data : List Byte := []
  deriving DecidableEq, Repr

/-- A write that waits: by the host through a function, or by firmware (256); its physical address and bytes. -/
structure Held where
  source : Nat
  pa : Nat
  data : List Byte
  deriving DecidableEq, Repr

/-- A barrier object (Table 14.1), which a store to its words does not change; damaged lists the words that a store has
left undefined (R138). -/
structure Barrier where
  remain : Nat := 0
  init : Nat := 0
  armed : Bool := false
  bytes : Bool := false
  scope : Nat := 0
  phase : Nat := 0
  damaged : List Nat := []
  deriving DecidableEq, Repr

/-- The word that step has fetched: the issuing core, slot, PC and cohort, in lane order. -/
structure Issue where
  core : Nat
  slot : Nat
  pc : DWord
  word : Word
  cohort : List Nat
  deriving DecidableEq, Repr

/-- The whole device. -/
structure State where
  /-- Physical memory of every kind, by physical address. -/
  mem : Memory := []
  /-- Full/empty tags by the physical address of the scratchpad word; unlisted is EMPTY. -/
  full : Store Bool := []
  /-- Saturation bits by core × 1,024 + accumulator row. -/
  sat : Store Bool := []
  /-- Holders of queue locks, by physical address: the context (R142). -/
  locks : Store Nat := []
  /-- Barrier objects that BINIT has armed, by physical address (R143). -/
  bars : Store Barrier := []
  /-- Fault marks of barrier rounds, by physical address (R178). -/
  barFaults : Store Trap := []
  /-- Ring headers with claims outstanding, by physical address, with the launch that last used each (R191). -/
  rings : Store Nat := []
  /-- Addresses at which memory holds an uncorrectable error (R128). -/
  ecc : List Nat := []
  ctxs : Store Ctx := []
  groups : Store Group := []
  blocks : Store Block := []
  tasks : Store Task := []
  /-- Generation of each dependence-table entry (R185). -/
  gens : Store Nat := []
  launches : Store Launch := []
  parts : Store Partition := []
  traces : Store Trace := []
  cores : Store Core := []
  faults : Store FaultEntry := []
  /-- Oldest first. -/
  faultQ : List FaultWait := []
  stewards : Store Steward := []
  slots : Store Slot := []
  ops : Store Op := []
  sac : Store SacEntry := []
  panels : Store Panel := []
  links : Store Link := []
  gangs : Store Gang := []
  /-- By collective group: COLLs issued on it; partial results received for collectives not issued yet, by number, none
  once they passed the limit and the member reported ABORT; decisions on such collectives (R182, R264). -/
  collCount : Store Nat := []
  collIn : Store (List (Nat × Option (List Byte))) := []
  collDone : Store (List (Nat × Decision)) := []
  images : List Image := []
  /-- Writes that wait for a route or a collective group, and those of the same source behind them, oldest first
  (R257, R262, R263). -/
  held : List Held := []
  elogHead : Word := 0
  /-- Link timeout in microseconds (R262). -/
  linkTimeout : Nat := 100
  /-- Nanoseconds since reset (R271). -/
  time : Nat := 0
  /-- Device number in the pod (Table 12.3). -/
  dev : Nat := 0
  boot : Boot := {}
  host : HostIf := {}
  /-- The model's own: number of the next operation, order of arrivals, free values used. -/
  nextOp : Nat := 0
  seq : Nat := 0
  free : Nat := 0
  /-- The model's own: the agent whose turn it is, the events that come next, the word being issued. -/
  turn : Nat := 0
  inputs : List Instr := []
  issue : Option Issue := none
  deriving DecidableEq, Repr

/-- The contexts of the four stewards: context p runs on steward p, pseudo-core 192 + p, and waits for boot (R265). -/
def stewardCtx (p : Nat) : Ctx :=
  { core := 192 + p, block := 0, tls := 0x0900803F0000, status := .parked .boot 0 0 0 }

/-- The group of one lane that a steward's thread forms (R101). -/
def stewardGroup (p : Nat) : Group := { core := 192 + p, alloc := 256, members := [p] }

/-- The machine right after reset: no launch, no partition; the stewards in the boot ROM (R265, R267).
Values no rule gives are DESIGN CHOICE, log entries 3 and 4. -/
def State.reset : State :=
  { ctxs := [(0, stewardCtx 0), (1, stewardCtx 1), (2, stewardCtx 2), (3, stewardCtx 3)],
    groups := [(192 * 128, stewardGroup 0), (193 * 128, stewardGroup 1), (194 * 128, stewardGroup 2),
      (195 * 128, stewardGroup 3)] }

end Sys2Proof.Machine
end

