-- ==== Sys2Proof/Machine/Operands.lean ====
section
/-!
DEFINITION. The operands, pipe and latency of every word (Tables 11.3 to 11.10), the resolution of register fields
(R28, R87, R109) and the reads of results that may not have landed (R23, R24).
-/
namespace Sys2Proof.Machine

/-- A register operand: its field (0 for d, 1 for a, 2 for b), the field's value, the registers it covers, their
alignment, and whether they are read and written. -/
structure Operand where
  field : Nat
  num : RegField
  n : Nat
  align : Nat
  rd : Bool
  wr : Bool
  deriving DecidableEq, Repr

/-- What the tables give a word: control bits, pipe, fixed latency (0 for variable), class B, register operands in the
order d, a, b (field 3: V1, which QLOCK and BAR read at scope code 7, R129). -/
structure WordInfo where
  ctl : Ctl
  pipe : Pipe
  lat : Nat
  branch : Bool
  ops : List Operand
  /-- Reads no V field names (R24): kind, field and number. -/
  imp : List (Nat × Nat × Nat)
  deriving DecidableEq, Repr

/-- The entry of an instruction in Tables 11.3 to 11.10; a step of another agent has none. XOFF, which keeps BASE and LEN of
Xn, reads it (R24; DESIGN CHOICE, log entry 114). -/
def wordInfo : Instr → WordInfo
  | .add c d a b => ⟨c, .alu, 2, false, [⟨0, d, 1, 1, false, true⟩, ⟨1, a, 1, 1, true, false⟩, ⟨2, b, 1, 1, true, false⟩], []⟩
  | .sub c d a b => ⟨c, .alu, 2, false, [⟨0, d, 1, 1, false, true⟩, ⟨1, a, 1, 1, true, false⟩, ⟨2, b, 1, 1, true, false⟩], []⟩
  | .adds c d a b => ⟨c, .alu, 2, false, [⟨0, d, 1, 1, false, true⟩, ⟨1, a, 1, 1, true, false⟩, ⟨2, b, 1, 1, true, false⟩], []⟩
  | .subs c d a b => ⟨c, .alu, 2, false, [⟨0, d, 1, 1, false, true⟩, ⟨1, a, 1, 1, true, false⟩, ⟨2, b, 1, 1, true, false⟩], []⟩
  | .mul c d a b => ⟨c, .alu, 4, false, [⟨0, d, 1, 1, false, true⟩, ⟨1, a, 1, 1, true, false⟩, ⟨2, b, 1, 1, true, false⟩], []⟩
  | .mulhi c d a b => ⟨c, .alu, 4, false, [⟨0, d, 1, 1, false, true⟩, ⟨1, a, 1, 1, true, false⟩, ⟨2, b, 1, 1, true, false⟩], []⟩
  | .mulhu c d a b => ⟨c, .alu, 4, false, [⟨0, d, 1, 1, false, true⟩, ⟨1, a, 1, 1, true, false⟩, ⟨2, b, 1, 1, true, false⟩], []⟩
  | .mad c d a b => ⟨c, .alu, 4, false, [⟨0, d, 1, 1, true, true⟩, ⟨1, a, 1, 1, true, false⟩, ⟨2, b, 1, 1, true, false⟩], []⟩
  | .div c d a b => ⟨c, .alu, 0, false, [⟨0, d, 1, 1, false, true⟩, ⟨1, a, 1, 1, true, false⟩, ⟨2, b, 1, 1, true, false⟩], []⟩
  | .divu c d a b => ⟨c, .alu, 0, false, [⟨0, d, 1, 1, false, true⟩, ⟨1, a, 1, 1, true, false⟩, ⟨2, b, 1, 1, true, false⟩], []⟩
  | .rem c d a b => ⟨c, .alu, 0, false, [⟨0, d, 1, 1, false, true⟩, ⟨1, a, 1, 1, true, false⟩, ⟨2, b, 1, 1, true, false⟩], []⟩
  | .remu c d a b => ⟨c, .alu, 0, false, [⟨0, d, 1, 1, false, true⟩, ⟨1, a, 1, 1, true, false⟩, ⟨2, b, 1, 1, true, false⟩], []⟩
  | .min c d a b => ⟨c, .alu, 2, false, [⟨0, d, 1, 1, false, true⟩, ⟨1, a, 1, 1, true, false⟩, ⟨2, b, 1, 1, true, false⟩], []⟩
  | .max c d a b => ⟨c, .alu, 2, false, [⟨0, d, 1, 1, false, true⟩, ⟨1, a, 1, 1, true, false⟩, ⟨2, b, 1, 1, true, false⟩], []⟩
  | .minu c d a b => ⟨c, .alu, 2, false, [⟨0, d, 1, 1, false, true⟩, ⟨1, a, 1, 1, true, false⟩, ⟨2, b, 1, 1, true, false⟩], []⟩
  | .maxu c d a b => ⟨c, .alu, 2, false, [⟨0, d, 1, 1, false, true⟩, ⟨1, a, 1, 1, true, false⟩, ⟨2, b, 1, 1, true, false⟩], []⟩
  | .and c d a b => ⟨c, .alu, 2, false, [⟨0, d, 1, 1, false, true⟩, ⟨1, a, 1, 1, true, false⟩, ⟨2, b, 1, 1, true, false⟩], []⟩
  | .or c d a b => ⟨c, .alu, 2, false, [⟨0, d, 1, 1, false, true⟩, ⟨1, a, 1, 1, true, false⟩, ⟨2, b, 1, 1, true, false⟩], []⟩
  | .xor c d a b => ⟨c, .alu, 2, false, [⟨0, d, 1, 1, false, true⟩, ⟨1, a, 1, 1, true, false⟩, ⟨2, b, 1, 1, true, false⟩], []⟩
  | .andn c d a b => ⟨c, .alu, 2, false, [⟨0, d, 1, 1, false, true⟩, ⟨1, a, 1, 1, true, false⟩, ⟨2, b, 1, 1, true, false⟩], []⟩
  | .shl c d a b => ⟨c, .alu, 2, false, [⟨0, d, 1, 1, false, true⟩, ⟨1, a, 1, 1, true, false⟩, ⟨2, b, 1, 1, true, false⟩], []⟩
  | .shr c d a b => ⟨c, .alu, 2, false, [⟨0, d, 1, 1, false, true⟩, ⟨1, a, 1, 1, true, false⟩, ⟨2, b, 1, 1, true, false⟩], []⟩
  | .sar c d a b => ⟨c, .alu, 2, false, [⟨0, d, 1, 1, false, true⟩, ⟨1, a, 1, 1, true, false⟩, ⟨2, b, 1, 1, true, false⟩], []⟩
  | .rotl c d a b => ⟨c, .alu, 2, false, [⟨0, d, 1, 1, false, true⟩, ⟨1, a, 1, 1, true, false⟩, ⟨2, b, 1, 1, true, false⟩], []⟩
  | .popc c d a => ⟨c, .alu, 2, false, [⟨0, d, 1, 1, false, true⟩, ⟨1, a, 1, 1, true, false⟩], []⟩
  | .clz c d a => ⟨c, .alu, 2, false, [⟨0, d, 1, 1, false, true⟩, ⟨1, a, 1, 1, true, false⟩], []⟩
  | .brev c d a => ⟨c, .alu, 2, false, [⟨0, d, 1, 1, false, true⟩, ⟨1, a, 1, 1, true, false⟩], []⟩
  | .bfx c d a b => ⟨c, .alu, 2, false, [⟨0, d, 1, 1, false, true⟩, ⟨1, a, 1, 1, true, false⟩, ⟨2, b, 1, 1, true, false⟩], []⟩
  | .bfi c d a b => ⟨c, .alu, 2, false, [⟨0, d, 1, 1, true, true⟩, ⟨1, a, 1, 1, true, false⟩, ⟨2, b, 1, 1, true, false⟩], []⟩
  | .sel c d a b => ⟨c, .alu, 2, false, [⟨0, d, 1, 1, true, true⟩, ⟨1, a, 1, 1, true, false⟩, ⟨2, b, 1, 1, true, false⟩], []⟩
  | .mov c d a => ⟨c, .alu, 2, false, [⟨0, d, 1, 1, false, true⟩, ⟨1, a, 1, 1, true, false⟩], []⟩
  | .addl c d a b => ⟨c, .alu, 2, false, [⟨0, d, 2, 2, false, true⟩, ⟨1, a, 2, 2, true, false⟩, ⟨2, b, 2, 2, true, false⟩], []⟩
  | .subl c d a b => ⟨c, .alu, 2, false, [⟨0, d, 2, 2, false, true⟩, ⟨1, a, 2, 2, true, false⟩, ⟨2, b, 2, 2, true, false⟩], []⟩
  | .mulw c d a b => ⟨c, .alu, 4, false, [⟨0, d, 2, 2, false, true⟩, ⟨1, a, 1, 1, true, false⟩, ⟨2, b, 1, 1, true, false⟩], []⟩
  | .mulwu c d a b => ⟨c, .alu, 4, false, [⟨0, d, 2, 2, false, true⟩, ⟨1, a, 1, 1, true, false⟩, ⟨2, b, 1, 1, true, false⟩], []⟩
  | .shll c d a b => ⟨c, .alu, 2, false, [⟨0, d, 2, 2, false, true⟩, ⟨1, a, 2, 2, true, false⟩, ⟨2, b, 1, 1, true, false⟩], []⟩
  | .shrl c d a b => ⟨c, .alu, 2, false, [⟨0, d, 2, 2, false, true⟩, ⟨1, a, 2, 2, true, false⟩, ⟨2, b, 1, 1, true, false⟩], []⟩
  | .sarl c d a b => ⟨c, .alu, 2, false, [⟨0, d, 2, 2, false, true⟩, ⟨1, a, 2, 2, true, false⟩, ⟨2, b, 1, 1, true, false⟩], []⟩
  | .movl c d a => ⟨c, .alu, 2, false, [⟨0, d, 2, 2, false, true⟩, ⟨1, a, 2, 2, true, false⟩], []⟩
  | .cmpeq c d a b => ⟨c, .alu, 2, false, [⟨0, d, 1, 1, false, true⟩, ⟨1, a, 1, 1, true, false⟩, ⟨2, b, 1, 1, true, false⟩], []⟩
  | .cmpne c d a b => ⟨c, .alu, 2, false, [⟨0, d, 1, 1, false, true⟩, ⟨1, a, 1, 1, true, false⟩, ⟨2, b, 1, 1, true, false⟩], []⟩
  | .cmplt c d a b => ⟨c, .alu, 2, false, [⟨0, d, 1, 1, false, true⟩, ⟨1, a, 1, 1, true, false⟩, ⟨2, b, 1, 1, true, false⟩], []⟩
  | .cmple c d a b => ⟨c, .alu, 2, false, [⟨0, d, 1, 1, false, true⟩, ⟨1, a, 1, 1, true, false⟩, ⟨2, b, 1, 1, true, false⟩], []⟩
  | .cmpltu c d a b => ⟨c, .alu, 2, false, [⟨0, d, 1, 1, false, true⟩, ⟨1, a, 1, 1, true, false⟩, ⟨2, b, 1, 1, true, false⟩], []⟩
  | .cmpleu c d a b => ⟨c, .alu, 2, false, [⟨0, d, 1, 1, false, true⟩, ⟨1, a, 1, 1, true, false⟩, ⟨2, b, 1, 1, true, false⟩], []⟩
  | .cmpeql c d a b => ⟨c, .alu, 2, false, [⟨0, d, 1, 1, false, true⟩, ⟨1, a, 2, 2, true, false⟩, ⟨2, b, 2, 2, true, false⟩], []⟩
  | .cmpltl c d a b => ⟨c, .alu, 2, false, [⟨0, d, 1, 1, false, true⟩, ⟨1, a, 2, 2, true, false⟩, ⟨2, b, 2, 2, true, false⟩], []⟩
  | .mfs c d h l => ⟨c, .alu, 2, false, [⟨0, d, 1, 1, false, true⟩], [(2, 1, specialNumber h l)]⟩
  | .mts c _ _ b => ⟨c, .alu, 2, false, [⟨2, b, 1, 1, true, false⟩], []⟩
  | .shfl c d a b => ⟨c, .alu, 4, false, [⟨0, d, 1, 1, false, true⟩, ⟨1, a, 1, 1, true, false⟩, ⟨2, b, 1, 1, true, false⟩], []⟩
  | .ballot c d a => ⟨c, .alu, 4, false, [⟨0, d, 1, 1, false, true⟩, ⟨1, a, 1, 1, true, false⟩], []⟩
  | .matchMask c d a => ⟨c, .alu, 4, false, [⟨0, d, 1, 1, false, true⟩, ⟨1, a, 1, 1, true, false⟩], []⟩
  | .compact c d a b => ⟨c, .alu, 4, false, [⟨0, d, 1, 1, false, true⟩, ⟨1, a, 1, 1, true, false⟩, ⟨2, b, 1, 1, true, false⟩], []⟩
  | .gredadd c d a b => ⟨c, .alu, 4, false, [⟨0, d, 1, 1, false, true⟩, ⟨1, a, 1, 1, true, false⟩, ⟨2, b, 1, 1, true, false⟩], []⟩
  | .gscan c d a b => ⟨c, .alu, 4, false, [⟨0, d, 1, 1, false, true⟩, ⟨1, a, 1, 1, true, false⟩, ⟨2, b, 1, 1, true, false⟩], []⟩
  | .addi c d a _ => ⟨c, .alu, 2, false, [⟨0, d, 1, 1, false, true⟩, ⟨1, a, 1, 1, true, false⟩], []⟩
  | .andi c d a _ => ⟨c, .alu, 2, false, [⟨0, d, 1, 1, false, true⟩, ⟨1, a, 1, 1, true, false⟩], []⟩
  | .ori c d a _ => ⟨c, .alu, 2, false, [⟨0, d, 1, 1, false, true⟩, ⟨1, a, 1, 1, true, false⟩], []⟩
  | .xori c d a _ => ⟨c, .alu, 2, false, [⟨0, d, 1, 1, false, true⟩, ⟨1, a, 1, 1, true, false⟩], []⟩
  | .shli c d a _ => ⟨c, .alu, 2, false, [⟨0, d, 1, 1, false, true⟩, ⟨1, a, 1, 1, true, false⟩], []⟩
  | .shri c d a _ => ⟨c, .alu, 2, false, [⟨0, d, 1, 1, false, true⟩, ⟨1, a, 1, 1, true, false⟩], []⟩
  | .sari c d a _ => ⟨c, .alu, 2, false, [⟨0, d, 1, 1, false, true⟩, ⟨1, a, 1, 1, true, false⟩], []⟩
  | .cmpeqi c d a _ => ⟨c, .alu, 2, false, [⟨0, d, 1, 1, false, true⟩, ⟨1, a, 1, 1, true, false⟩], []⟩
  | .cmplti c d a _ => ⟨c, .alu, 2, false, [⟨0, d, 1, 1, false, true⟩, ⟨1, a, 1, 1, true, false⟩], []⟩
  | .cmpltui c d a _ => ⟨c, .alu, 2, false, [⟨0, d, 1, 1, false, true⟩, ⟨1, a, 1, 1, true, false⟩], []⟩
  | .muli c d a _ => ⟨c, .alu, 4, false, [⟨0, d, 1, 1, false, true⟩, ⟨1, a, 1, 1, true, false⟩], []⟩
  | .xset c _ _ _ => ⟨c, .alu, 2, false, [], []⟩
  | .xoff c x a _ => ⟨c, .alu, 2, false, [⟨1, a, 1, 1, true, false⟩], [(1, 0, x.toNat)]⟩
  | .xinc c x _ => ⟨c, .alu, 2, false, [], [(1, 0, x.toNat)]⟩
  | .li c d _ => ⟨c, .alu, 2, false, [⟨0, d, 1, 1, false, true⟩], []⟩
  | .lih c d _ => ⟨c, .alu, 2, false, [⟨0, d, 1, 1, true, true⟩], []⟩
  | .addiw c d _ => ⟨c, .alu, 2, false, [⟨0, d, 1, 1, true, true⟩], []⟩
  | .ldk c d _ => ⟨c, .alu, 2, false, [⟨0, d, 1, 1, false, true⟩], []⟩
  | .fadd c d a b => ⟨c, .fma, 4, false, [⟨0, d, 1, 1, false, true⟩, ⟨1, a, 1, 1, true, false⟩, ⟨2, b, 1, 1, true, false⟩], [(2, 3, 0x16)]⟩
  | .fsub c d a b => ⟨c, .fma, 4, false, [⟨0, d, 1, 1, false, true⟩, ⟨1, a, 1, 1, true, false⟩, ⟨2, b, 1, 1, true, false⟩], [(2, 3, 0x16)]⟩
  | .fmul c d a b => ⟨c, .fma, 4, false, [⟨0, d, 1, 1, false, true⟩, ⟨1, a, 1, 1, true, false⟩, ⟨2, b, 1, 1, true, false⟩], [(2, 3, 0x16)]⟩
  | .ffma c d a b => ⟨c, .fma, 4, false, [⟨0, d, 1, 1, true, true⟩, ⟨1, a, 1, 1, true, false⟩, ⟨2, b, 1, 1, true, false⟩], [(2, 3, 0x16)]⟩
  | .fmin c d a b => ⟨c, .fma, 4, false, [⟨0, d, 1, 1, false, true⟩, ⟨1, a, 1, 1, true, false⟩, ⟨2, b, 1, 1, true, false⟩], [(2, 3, 0x16)]⟩
  | .fmax c d a b => ⟨c, .fma, 4, false, [⟨0, d, 1, 1, false, true⟩, ⟨1, a, 1, 1, true, false⟩, ⟨2, b, 1, 1, true, false⟩], [(2, 3, 0x16)]⟩
  | .fabs c d a => ⟨c, .fma, 4, false, [⟨0, d, 1, 1, false, true⟩, ⟨1, a, 1, 1, true, false⟩], [(2, 3, 0x16)]⟩
  | .fneg c d a => ⟨c, .fma, 4, false, [⟨0, d, 1, 1, false, true⟩, ⟨1, a, 1, 1, true, false⟩], [(2, 3, 0x16)]⟩
  | .fcmpeq c d a b => ⟨c, .fma, 4, false, [⟨0, d, 1, 1, false, true⟩, ⟨1, a, 1, 1, true, false⟩, ⟨2, b, 1, 1, true, false⟩], [(2, 3, 0x16)]⟩
  | .fcmplt c d a b => ⟨c, .fma, 4, false, [⟨0, d, 1, 1, false, true⟩, ⟨1, a, 1, 1, true, false⟩, ⟨2, b, 1, 1, true, false⟩], [(2, 3, 0x16)]⟩
  | .fcmple c d a b => ⟨c, .fma, 4, false, [⟨0, d, 1, 1, false, true⟩, ⟨1, a, 1, 1, true, false⟩, ⟨2, b, 1, 1, true, false⟩], [(2, 3, 0x16)]⟩
  | .fcmpun c d a b => ⟨c, .fma, 4, false, [⟨0, d, 1, 1, false, true⟩, ⟨1, a, 1, 1, true, false⟩, ⟨2, b, 1, 1, true, false⟩], [(2, 3, 0x16)]⟩
  | .fdiv c d a b => ⟨c, .xu, 0, false, [⟨0, d, 1, 1, false, true⟩, ⟨1, a, 1, 1, true, false⟩, ⟨2, b, 1, 1, true, false⟩], [(2, 3, 0x16)]⟩
  | .fsqrt c d a => ⟨c, .xu, 0, false, [⟨0, d, 1, 1, false, true⟩, ⟨1, a, 1, 1, true, false⟩], [(2, 3, 0x16)]⟩
  | .frcp c d a => ⟨c, .xu, 0, false, [⟨0, d, 1, 1, false, true⟩, ⟨1, a, 1, 1, true, false⟩], [(2, 3, 0x16)]⟩
  | .frsq c d a => ⟨c, .xu, 0, false, [⟨0, d, 1, 1, false, true⟩, ⟨1, a, 1, 1, true, false⟩], [(2, 3, 0x16)]⟩
  | .dadd c d a b => ⟨c, .fma2, 6, false, [⟨0, d, 2, 2, false, true⟩, ⟨1, a, 2, 2, true, false⟩, ⟨2, b, 2, 2, true, false⟩], [(2, 3, 0x16)]⟩
  | .dsub c d a b => ⟨c, .fma2, 6, false, [⟨0, d, 2, 2, false, true⟩, ⟨1, a, 2, 2, true, false⟩, ⟨2, b, 2, 2, true, false⟩], [(2, 3, 0x16)]⟩
  | .dmul c d a b => ⟨c, .fma2, 6, false, [⟨0, d, 2, 2, false, true⟩, ⟨1, a, 2, 2, true, false⟩, ⟨2, b, 2, 2, true, false⟩], [(2, 3, 0x16)]⟩
  | .dfma c d a b => ⟨c, .fma2, 6, false, [⟨0, d, 2, 2, true, true⟩, ⟨1, a, 2, 2, true, false⟩, ⟨2, b, 2, 2, true, false⟩], [(2, 3, 0x16)]⟩
  | .dmin c d a b => ⟨c, .fma2, 6, false, [⟨0, d, 2, 2, false, true⟩, ⟨1, a, 2, 2, true, false⟩, ⟨2, b, 2, 2, true, false⟩], [(2, 3, 0x16)]⟩
  | .dmax c d a b => ⟨c, .fma2, 6, false, [⟨0, d, 2, 2, false, true⟩, ⟨1, a, 2, 2, true, false⟩, ⟨2, b, 2, 2, true, false⟩], [(2, 3, 0x16)]⟩
  | .dabs c d a => ⟨c, .fma2, 6, false, [⟨0, d, 2, 2, false, true⟩, ⟨1, a, 2, 2, true, false⟩], [(2, 3, 0x16)]⟩
  | .dneg c d a => ⟨c, .fma2, 6, false, [⟨0, d, 2, 2, false, true⟩, ⟨1, a, 2, 2, true, false⟩], [(2, 3, 0x16)]⟩
  | .dcmpeq c d a b => ⟨c, .fma2, 6, false, [⟨0, d, 1, 1, false, true⟩, ⟨1, a, 2, 2, true, false⟩, ⟨2, b, 2, 2, true, false⟩], [(2, 3, 0x16)]⟩
  | .dcmplt c d a b => ⟨c, .fma2, 6, false, [⟨0, d, 1, 1, false, true⟩, ⟨1, a, 2, 2, true, false⟩, ⟨2, b, 2, 2, true, false⟩], [(2, 3, 0x16)]⟩
  | .dcmple c d a b => ⟨c, .fma2, 6, false, [⟨0, d, 1, 1, false, true⟩, ⟨1, a, 2, 2, true, false⟩, ⟨2, b, 2, 2, true, false⟩], [(2, 3, 0x16)]⟩
  | .dcmpun c d a b => ⟨c, .fma2, 6, false, [⟨0, d, 1, 1, false, true⟩, ⟨1, a, 2, 2, true, false⟩, ⟨2, b, 2, 2, true, false⟩], [(2, 3, 0x16)]⟩
  | .ddiv c d a b => ⟨c, .xu, 0, false, [⟨0, d, 2, 2, false, true⟩, ⟨1, a, 2, 2, true, false⟩, ⟨2, b, 2, 2, true, false⟩], [(2, 3, 0x16)]⟩
  | .dsqrt c d a => ⟨c, .xu, 0, false, [⟨0, d, 2, 2, false, true⟩, ⟨1, a, 2, 2, true, false⟩], [(2, 3, 0x16)]⟩
  | .fex2 c d a => ⟨c, .xu, 0, false, [⟨0, d, 1, 1, false, true⟩, ⟨1, a, 1, 1, true, false⟩], [(2, 3, 0x16)]⟩
  | .flg2 c d a => ⟨c, .xu, 0, false, [⟨0, d, 1, 1, false, true⟩, ⟨1, a, 1, 1, true, false⟩], [(2, 3, 0x16)]⟩
  | .fsinp c d a => ⟨c, .xu, 0, false, [⟨0, d, 1, 1, false, true⟩, ⟨1, a, 1, 1, true, false⟩], [(2, 3, 0x16)]⟩
  | .fcosp c d a => ⟨c, .xu, 0, false, [⟨0, d, 1, 1, false, true⟩, ⟨1, a, 1, 1, true, false⟩], [(2, 3, 0x16)]⟩
  | .ftanh c d a => ⟨c, .xu, 0, false, [⟨0, d, 1, 1, false, true⟩, ⟨1, a, 1, 1, true, false⟩], [(2, 3, 0x16)]⟩
  | .cvtif c d a => ⟨c, .fma, 4, false, [⟨0, d, 1, 1, false, true⟩, ⟨1, a, 1, 1, true, false⟩], [(2, 3, 0x16)]⟩
  | .cvtuf c d a => ⟨c, .fma, 4, false, [⟨0, d, 1, 1, false, true⟩, ⟨1, a, 1, 1, true, false⟩], [(2, 3, 0x16)]⟩
  | .cvtfi c d a => ⟨c, .fma, 4, false, [⟨0, d, 1, 1, false, true⟩, ⟨1, a, 1, 1, true, false⟩], [(2, 3, 0x16)]⟩
  | .cvtfu c d a => ⟨c, .fma, 4, false, [⟨0, d, 1, 1, false, true⟩, ⟨1, a, 1, 1, true, false⟩], [(2, 3, 0x16)]⟩
  | .cvtfd c d a => ⟨c, .fma2, 6, false, [⟨0, d, 2, 2, false, true⟩, ⟨1, a, 1, 1, true, false⟩], [(2, 3, 0x16)]⟩
  | .cvtdf c d a => ⟨c, .fma2, 6, false, [⟨0, d, 1, 1, false, true⟩, ⟨1, a, 2, 2, true, false⟩], [(2, 3, 0x16)]⟩
  | .cvtid c d a => ⟨c, .fma2, 6, false, [⟨0, d, 2, 2, false, true⟩, ⟨1, a, 1, 1, true, false⟩], [(2, 3, 0x16)]⟩
  | .cvtdi c d a => ⟨c, .fma2, 6, false, [⟨0, d, 1, 1, false, true⟩, ⟨1, a, 2, 2, true, false⟩], [(2, 3, 0x16)]⟩
  | .cvtfh c d a => ⟨c, .fma, 4, false, [⟨0, d, 1, 1, false, true⟩, ⟨1, a, 1, 1, true, false⟩], [(2, 3, 0x16)]⟩
  | .cvthf c d a => ⟨c, .fma, 4, false, [⟨0, d, 1, 1, false, true⟩, ⟨1, a, 1, 1, true, false⟩], [(2, 3, 0x16)]⟩
  | .cvtfb c d a => ⟨c, .fma, 4, false, [⟨0, d, 1, 1, false, true⟩, ⟨1, a, 1, 1, true, false⟩], [(2, 3, 0x16)]⟩
  | .cvtbf c d a => ⟨c, .fma, 4, false, [⟨0, d, 1, 1, false, true⟩, ⟨1, a, 1, 1, true, false⟩], [(2, 3, 0x16)]⟩
  | .cvtf8a c d a => ⟨c, .fma, 4, false, [⟨0, d, 1, 1, false, true⟩, ⟨1, a, 1, 1, true, false⟩], [(2, 3, 0x16)]⟩
  | .cvtf8b c d a => ⟨c, .fma, 4, false, [⟨0, d, 1, 1, false, true⟩, ⟨1, a, 1, 1, true, false⟩], [(2, 3, 0x16)]⟩
  | .cvt8af c d a => ⟨c, .fma, 4, false, [⟨0, d, 1, 1, false, true⟩, ⟨1, a, 1, 1, true, false⟩], [(2, 3, 0x16)]⟩
  | .cvt8bf c d a => ⟨c, .fma, 4, false, [⟨0, d, 1, 1, false, true⟩, ⟨1, a, 1, 1, true, false⟩], [(2, 3, 0x16)]⟩
  | .nqdec c d a => ⟨c, .fma, 4, false, [⟨0, d, 1, 1, false, true⟩, ⟨1, a, 1, 1, true, false⟩], [(2, 3, 0x16)]⟩
  | .nqenc c d a => ⟨c, .fma, 4, false, [⟨0, d, 1, 1, false, true⟩, ⟨1, a, 1, 1, true, false⟩], [(2, 3, 0x16)]⟩
  | .ldb c d a _ => ⟨c, .mem, 0, false, [⟨0, d, 1, 1, false, true⟩, ⟨1, a, 2, 2, true, false⟩], []⟩
  | .ldbs c d a _ => ⟨c, .mem, 0, false, [⟨0, d, 1, 1, false, true⟩, ⟨1, a, 2, 2, true, false⟩], []⟩
  | .ldh c d a _ => ⟨c, .mem, 0, false, [⟨0, d, 1, 1, false, true⟩, ⟨1, a, 2, 2, true, false⟩], []⟩
  | .ldhs c d a _ => ⟨c, .mem, 0, false, [⟨0, d, 1, 1, false, true⟩, ⟨1, a, 2, 2, true, false⟩], []⟩
  | .ldw c d a _ => ⟨c, .mem, 0, false, [⟨0, d, 1, 1, false, true⟩, ⟨1, a, 2, 2, true, false⟩], []⟩
  | .ldl c d a _ => ⟨c, .mem, 0, false, [⟨0, d, 2, 2, false, true⟩, ⟨1, a, 2, 2, true, false⟩], []⟩
  | .ldq c d a _ => ⟨c, .mem, 0, false, [⟨0, d, 4, 4, false, true⟩, ⟨1, a, 2, 2, true, false⟩], []⟩
  | .stb c d a _ => ⟨c, .mem, 0, false, [⟨0, d, 1, 1, true, false⟩, ⟨1, a, 2, 2, true, false⟩], []⟩
  | .sth c d a _ => ⟨c, .mem, 0, false, [⟨0, d, 1, 1, true, false⟩, ⟨1, a, 2, 2, true, false⟩], []⟩
  | .stw c d a _ => ⟨c, .mem, 0, false, [⟨0, d, 1, 1, true, false⟩, ⟨1, a, 2, 2, true, false⟩], []⟩
  | .stl c d a _ => ⟨c, .mem, 0, false, [⟨0, d, 2, 2, true, false⟩, ⟨1, a, 2, 2, true, false⟩], []⟩
  | .stq c d a _ => ⟨c, .mem, 0, false, [⟨0, d, 4, 4, true, false⟩, ⟨1, a, 2, 2, true, false⟩], []⟩
  | .ldf c d a _ => ⟨c, .mem, 0, false, [⟨0, d, 1, 1, false, true⟩, ⟨1, a, 2, 2, true, false⟩], []⟩
  | .ldff c d a _ => ⟨c, .mem, 0, false, [⟨0, d, 1, 1, false, true⟩, ⟨1, a, 2, 2, true, false⟩], []⟩
  | .ste c d a _ => ⟨c, .mem, 0, false, [⟨0, d, 1, 1, true, false⟩, ⟨1, a, 2, 2, true, false⟩], []⟩
  | .stf c d a _ => ⟨c, .mem, 0, false, [⟨0, d, 1, 1, true, false⟩, ⟨1, a, 2, 2, true, false⟩], []⟩
  | .sete c a _ => ⟨c, .mem, 0, false, [⟨1, a, 2, 2, true, false⟩], []⟩
  | .ldwr c d a _ => ⟨c, .mem, 0, false, [⟨0, d, 1, 1, false, true⟩, ⟨1, a, 2, 2, true, false⟩], []⟩
  | .ldacq c d a _ => ⟨c, .mem, 0, false, [⟨0, d, 1, 1, false, true⟩, ⟨1, a, 2, 2, true, false⟩], []⟩
  | .strel c d a _ => ⟨c, .mem, 0, false, [⟨0, d, 1, 1, true, false⟩, ⟨1, a, 2, 2, true, false⟩], []⟩
  | .pref c a _ => ⟨c, .mem, 0, false, [⟨1, a, 2, 2, true, false⟩], []⟩
  | .aadd c _ d a b => ⟨c, .mem, 0, false, [⟨0, d, 1, 1, false, true⟩, ⟨1, a, 2, 2, true, false⟩, ⟨2, b, 1, 1, true, false⟩], []⟩
  | .axchg c _ d a b => ⟨c, .mem, 0, false, [⟨0, d, 1, 1, false, true⟩, ⟨1, a, 2, 2, true, false⟩, ⟨2, b, 1, 1, true, false⟩], []⟩
  | .acas c _ d a b => ⟨c, .mem, 0, false, [⟨0, d, 1, 1, true, true⟩, ⟨1, a, 2, 2, true, false⟩, ⟨2, b, 1, 1, true, false⟩], []⟩
  | .amin c _ d a b => ⟨c, .mem, 0, false, [⟨0, d, 1, 1, false, true⟩, ⟨1, a, 2, 2, true, false⟩, ⟨2, b, 1, 1, true, false⟩], []⟩
  | .amax c _ d a b => ⟨c, .mem, 0, false, [⟨0, d, 1, 1, false, true⟩, ⟨1, a, 2, 2, true, false⟩, ⟨2, b, 1, 1, true, false⟩], []⟩
  | .aand c _ d a b => ⟨c, .mem, 0, false, [⟨0, d, 1, 1, false, true⟩, ⟨1, a, 2, 2, true, false⟩, ⟨2, b, 1, 1, true, false⟩], []⟩
  | .aor c _ d a b => ⟨c, .mem, 0, false, [⟨0, d, 1, 1, false, true⟩, ⟨1, a, 2, 2, true, false⟩, ⟨2, b, 1, 1, true, false⟩], []⟩
  | .afadd c _ d a b => ⟨c, .mem, 0, false, [⟨0, d, 1, 1, false, true⟩, ⟨1, a, 2, 2, true, false⟩, ⟨2, b, 1, 1, true, false⟩], []⟩
  | .red c _ _ a b => ⟨c, .mem, 0, false, [⟨1, a, 2, 2, true, false⟩, ⟨2, b, 1, 1, true, false⟩], []⟩
  | .fence c _ _ => ⟨c, .mem, 0, false, [], []⟩
  | .waitv c p a b => ⟨c, .mem, 0, false, [⟨1, a, 2, 2, true, false⟩, ⟨2, b, if p = 7 then 2 else 1, 1, true, false⟩], []⟩
  | .notify c _ _ a => ⟨c, .mem, 0, false, [⟨1, a, 2, 2, true, false⟩], []⟩
  | .qlock c p a => ⟨c, .mem, 0, false, [⟨1, a, 2, 2, true, false⟩] ++ (if p = 7 then [⟨3, 1, 1, 1, true, false⟩] else []), []⟩
  | .qunlock c _ a => ⟨c, .mem, 0, false, [⟨1, a, 2, 2, true, false⟩], []⟩
  | .bar c p a => ⟨c, .mem, 0, false, [⟨1, a, 2, 2, true, false⟩] ++ (if p = 7 then [⟨3, 1, 1, 1, true, false⟩] else []), []⟩
  | .binit c _ _ a b => ⟨c, .mem, 0, false, [⟨1, a, 2, 2, true, false⟩, ⟨2, b, 1, 1, true, false⟩], []⟩
  | .bra c _ => ⟨c, .ctl, 0, true, [], []⟩
  | .bnz c a _ => ⟨c, .ctl, 0, true, [⟨1, a, 1, 1, true, false⟩], []⟩
  | .bz c a _ => ⟨c, .ctl, 0, true, [⟨1, a, 1, 1, true, false⟩], []⟩
  | .call c _ => ⟨c, .ctl, 0, true, [], []⟩
  | .brx c a => ⟨c, .ctl, 0, true, [⟨1, a, 2, 2, true, false⟩], []⟩
  | .callx c a => ⟨c, .ctl, 0, true, [⟨1, a, 2, 2, true, false⟩], []⟩
  | .ret c => ⟨c, .ctl, 0, true, [], []⟩
  | .dbnz c a _ => ⟨c, .ctl, 2, true, [⟨1, a, 1, 1, true, true⟩], []⟩
  | .nop c => ⟨c, .ctl, 0, false, [], []⟩
  | .exit c _ => ⟨c, .ctl, 0, false, [], []⟩
  | .yield c => ⟨c, .ctl, 0, false, [], []⟩
  | .trap c _ => ⟨c, .ctl, 0, false, [], []⟩
  | .tret c => ⟨c, .ctl, 0, false, [], [(2, 3, 0x40), (2, 3, 0x41)]⟩
  | .joinset c _ a => ⟨c, .ctl, 0, false, [⟨1, a, 1, 1, true, false⟩], []⟩
  | .join c _ => ⟨c, .ctl, 0, false, [], []⟩
  | .regrp c a => ⟨c, .ctl, 0, false, [⟨1, a, 1, 1, true, false⟩], []⟩
  | .grow c _ => ⟨c, .ctl, 0, false, [], []⟩
  | .shrink c _ => ⟨c, .ctl, 0, false, [], []⟩
  | .growt c d _ => ⟨c, .ctl, 0, false, [⟨0, d, 1, 1, false, true⟩], []⟩
  | .tdset c _ a => ⟨c, .xu, 0, false, [⟨1, a, 4, 2, true, false⟩], []⟩
  | .tdget c d _ => ⟨c, .xu, 0, false, [⟨0, d, 4, 2, false, true⟩], []⟩
  | .cvset c a _ => ⟨c, .xu, 0, false, [⟨1, a, 5, 2, true, false⟩], []⟩
  | .ofence c => ⟨c, .xu, 0, false, [], []⟩
  | .mma c _ a _ => ⟨c, .xu, 0, false, [⟨1, a, 1, 1, true, false⟩], []⟩
  | .mwait c _ => ⟨c, .xu, 0, false, [], []⟩
  | .mdrain c _ a _ => ⟨c, .xu, 0, false, [⟨1, a, 1, 1, true, false⟩], []⟩
  | .wbload c _ a => ⟨c, .xu, 0, false, [⟨1, a, 4, 2, true, false⟩], []⟩
  | .obres c _ a => ⟨c, .xu, 0, false, [⟨1, a, 4, 2, true, false⟩], []⟩
  | .obrel c _ => ⟨c, .xu, 0, false, [], []⟩
  | .twalk c d a p => ⟨c, .xu, 0, false, [⟨0, d, 1, 1, false, true⟩, ⟨1, a, 8, 2, true, false⟩], [(2, 3, 0x38 + p.toNat)]⟩
  | .sacl c d a => ⟨c, .xu, 0, false, [⟨0, d, 1, 1, false, true⟩, ⟨1, a, 4, 2, true, false⟩], []⟩
  | .sacs c a => ⟨c, .xu, 0, false, [⟨1, a, 4, 2, true, false⟩], []⟩
  | .copy c _ a _ => ⟨c, .xu, 0, false, [⟨1, a, 10, 2, true, false⟩], []⟩
  | .chaingo c _ a => ⟨c, .xu, 0, false, [⟨1, a, 2, 2, true, false⟩], []⟩
  | .twait c a => ⟨c, .xu, 0, false, [⟨1, a, 2, 2, true, false⟩], []⟩
  | .twany c a => ⟨c, .xu, 0, false, [⟨1, a, 2, 2, true, false⟩], []⟩
  | .tffr c d a => ⟨c, .xu, 0, false, [⟨0, d, 1, 1, false, true⟩, ⟨1, a, 2, 2, true, false⟩], []⟩
  | .tclr c a => ⟨c, .xu, 0, false, [⟨1, a, 2, 2, true, false⟩], []⟩
  | .coll c a => ⟨c, .xu, 0, false, [⟨1, a, 8, 2, true, false⟩], []⟩
  | .spawn c d a => ⟨c, .xu, 0, false, [⟨0, d, 1, 1, false, true⟩, ⟨1, a, 12, 2, true, false⟩], []⟩
  | .tsig c a => ⟨c, .xu, 0, false, [⟨1, a, 1, 1, true, false⟩], []⟩
  | .mwrite c a => ⟨c, .xu, 0, false, [⟨1, a, 3, 2, true, false⟩], []⟩
  | .prop c d a => ⟨c, .xu, 0, false, [⟨0, d, 1, 1, false, true⟩, ⟨1, a, 1, 1, true, false⟩], []⟩
  | .trfree c a => ⟨c, .xu, 0, false, [⟨1, a, 1, 1, true, false⟩], []⟩
  | .trstat c d a => ⟨c, .xu, 0, false, [⟨0, d, 7, 2, false, true⟩, ⟨1, a, 1, 1, true, false⟩], []⟩
  | .rclaim c d a _ => ⟨c, .xu, 0, false, [⟨0, d, 1, 1, false, true⟩, ⟨1, a, 2, 2, true, false⟩], []⟩
  | .rcommit c d a _ => ⟨c, .xu, 0, false, [⟨0, d, 1, 1, true, false⟩, ⟨1, a, 2, 2, true, false⟩], []⟩
  | .rawait c d a _ => ⟨c, .xu, 0, false, [⟨0, d, 1, 1, false, true⟩, ⟨1, a, 2, 2, true, false⟩], []⟩
  | .rretire c d a _ => ⟨c, .xu, 0, false, [⟨0, d, 1, 1, true, false⟩, ⟨1, a, 2, 2, true, false⟩], []⟩
  | .wfe c => ⟨c, .ctl, 0, false, [], []⟩
  | .itlb c a => ⟨c, .ctl, 0, false, [⟨1, a, 2, 2, true, false⟩], []⟩
  | .dataReturn _ _ => ⟨⟨false, false, 0⟩, .alu, 0, false, [], []⟩
  | .variableLatencyComplete _ => ⟨⟨false, false, 0⟩, .alu, 0, false, [], []⟩
  | .storePerformed _ => ⟨⟨false, false, 0⟩, .alu, 0, false, [], []⟩
  | .reductionApply _ => ⟨⟨false, false, 0⟩, .alu, 0, false, [], []⟩
  | .shrinkRowReturn _ => ⟨⟨false, false, 0⟩, .alu, 0, false, [], []⟩
  | .copyComplete _ _ => ⟨⟨false, false, 0⟩, .alu, 0, false, [], []⟩
  | .chainRecordComplete _ _ => ⟨⟨false, false, 0⟩, .alu, 0, false, [], []⟩
  | .matrixOpComplete _ _ => ⟨⟨false, false, 0⟩, .alu, 0, false, [], []⟩
  | .twalkComplete _ => ⟨⟨false, false, 0⟩, .alu, 0, false, [], []⟩
  | .collTimeout _ => ⟨⟨false, false, 0⟩, .alu, 0, false, [], []⟩
  | .collDecisionTimeout _ => ⟨⟨false, false, 0⟩, .alu, 0, false, [], []⟩
  | .detCommit _ => ⟨⟨false, false, 0⟩, .alu, 0, false, [], []⟩
  | .detSampleCompare _ _ => ⟨⟨false, false, 0⟩, .alu, 0, false, [], []⟩
  | .blockEnd _ => ⟨⟨false, false, 0⟩, .alu, 0, false, [], []⟩
  | .blockDispatch _ => ⟨⟨false, false, 0⟩, .alu, 0, false, [], []⟩
  | .taskTake _ => ⟨⟨false, false, 0⟩, .alu, 0, false, [], []⟩
  | .launchComplete _ => ⟨⟨false, false, 0⟩, .alu, 0, false, [], []⟩
  | .launch _ => ⟨⟨false, false, 0⟩, .alu, 0, false, [], []⟩
  | .gang _ => ⟨⟨false, false, 0⟩, .alu, 0, false, [], []⟩
  | .propCommand _ => ⟨⟨false, false, 0⟩, .alu, 0, false, [], []⟩
  | .waitw _ => ⟨⟨false, false, 0⟩, .alu, 0, false, [], []⟩
  | .sigw _ => ⟨⟨false, false, 0⟩, .alu, 0, false, [], []⟩
  | .waitwPoll _ => ⟨⟨false, false, 0⟩, .alu, 0, false, [], []⟩
  | .kick _ _ _ => ⟨⟨false, false, 0⟩, .alu, 0, false, [], []⟩
  | .growDeadlockCheck _ => ⟨⟨false, false, 0⟩, .alu, 0, false, [], []⟩
  | .waitWatchdog _ => ⟨⟨false, false, 0⟩, .alu, 0, false, [], []⟩
  | .deferredStoreError _ _ => ⟨⟨false, false, 0⟩, .alu, 0, false, [], []⟩
  | .contextSave _ _ => ⟨⟨false, false, 0⟩, .alu, 0, false, [], []⟩
  | .contextRestore _ _ _ => ⟨⟨false, false, 0⟩, .alu, 0, false, [], []⟩
  | .remoteTimeout _ => ⟨⟨false, false, 0⟩, .alu, 0, false, [], []⟩
  | .starvationTimeExpiry _ _ _ => ⟨⟨false, false, 0⟩, .alu, 0, false, [], []⟩
  | .frespReplay _ _ => ⟨⟨false, false, 0⟩, .alu, 0, false, [], []⟩
  | .frespFail _ _ => ⟨⟨false, false, 0⟩, .alu, 0, false, [], []⟩
  | .machineCheck _ _ _ => ⟨⟨false, false, 0⟩, .alu, 0, false, [], []⟩
  | .preemptionRequest _ _ => ⟨⟨false, false, 0⟩, .alu, 0, false, [], []⟩
  | .partitionSwap _ _ => ⟨⟨false, false, 0⟩, .alu, 0, false, [], []⟩
  | .slotMap _ => ⟨⟨false, false, 0⟩, .alu, 0, false, [], []⟩
  | .slotUnmap _ => ⟨⟨false, false, 0⟩, .alu, 0, false, [], []⟩
  | .queueAgeTick => ⟨⟨false, false, 0⟩, .alu, 0, false, [], []⟩
  | .powerRefresh _ _ _ => ⟨⟨false, false, 0⟩, .alu, 0, false, [], []⟩
  | .powerFault => ⟨⟨false, false, 0⟩, .alu, 0, false, [], []⟩
  | .flitReceive _ _ _ _ => ⟨⟨false, false, 0⟩, .alu, 0, false, [], []⟩
  | .linkDown _ => ⟨⟨false, false, 0⟩, .alu, 0, false, [], []⟩
  | .laneLoss _ => ⟨⟨false, false, 0⟩, .alu, 0, false, [], []⟩
  | .routeEntryWrite _ _ => ⟨⟨false, false, 0⟩, .alu, 0, false, [], []⟩
  | .collGroupEntryWrite _ _ _ => ⟨⟨false, false, 0⟩, .alu, 0, false, [], []⟩
  | .collContribution _ _ _ => ⟨⟨false, false, 0⟩, .alu, 0, false, [], []⟩
  | .collAbortReport _ _ _ => ⟨⟨false, false, 0⟩, .alu, 0, false, [], []⟩
  | .collDecision _ _ _ _ _ => ⟨⟨false, false, 0⟩, .alu, 0, false, [], []⟩
  | .gangReservation _ _ _ _ => ⟨⟨false, false, 0⟩, .alu, 0, false, [], []⟩
  | .gangStart _ _ => ⟨⟨false, false, 0⟩, .alu, 0, false, [], []⟩
  | .gangStartAck _ _ => ⟨⟨false, false, 0⟩, .alu, 0, false, [], []⟩
  | .gangAckTimeout _ _ => ⟨⟨false, false, 0⟩, .alu, 0, false, [], []⟩
  | .hostApertureRead _ _ _ _ => ⟨⟨false, false, 0⟩, .alu, 0, false, [], []⟩
  | .hostApertureWrite _ _ _ _ => ⟨⟨false, false, 0⟩, .alu, 0, false, [], []⟩
  | .vfFlr _ => ⟨⟨false, false, 0⟩, .alu, 0, false, [], []⟩
  | .pfFlr => ⟨⟨false, false, 0⟩, .alu, 0, false, [], []⟩
  | .powerOnReset => ⟨⟨false, false, 0⟩, .alu, 0, false, [], []⟩
  | .bootLinkUp => ⟨⟨false, false, 0⟩, .alu, 0, false, [], []⟩
  | .bootDhcpReply _ => ⟨⟨false, false, 0⟩, .alu, 0, false, [], []⟩
  | .bootImageFetched _ _ => ⟨⟨false, false, 0⟩, .alu, 0, false, [], []⟩
  | .bootAttemptTimeout => ⟨⟨false, false, 0⟩, .alu, 0, false, [], []⟩
  | .bootcmdVerify => ⟨⟨false, false, 0⟩, .alu, 0, false, [], []⟩
  | .attestationSign => ⟨⟨false, false, 0⟩, .alu, 0, false, [], []⟩
  | .attestationComplete => ⟨⟨false, false, 0⟩, .alu, 0, false, [], []⟩
  | .stewardTimer _ => ⟨⟨false, false, 0⟩, .alu, 0, false, [], []⟩
  | .registerWrite _ _ => ⟨⟨false, false, 0⟩, .alu, 0, false, [], []⟩
  | .partitionCreate _ _ _ _ _ _ _ => ⟨⟨false, false, 0⟩, .alu, 0, false, [], []⟩
  | .partitionDestroy _ => ⟨⟨false, false, 0⟩, .alu, 0, false, [], []⟩
  | .sacShareChange _ _ => ⟨⟨false, false, 0⟩, .alu, 0, false, [], []⟩
  | .pcieLinkTraining _ => ⟨⟨false, false, 0⟩, .alu, 0, false, [], []⟩

/-- The contents of an index register, V register or special register as a read at cycle now finds it: a fixed-latency
result that has not landed is not seen (R23, R24). -/
def lookEarly (l : List Early) (t : Target) (now : Nat) (cur : Word) : Word :=
  match l.find? (fun e => e.tgt = t && decide (now < e.ready)) with
  | some e => e.old
  | none => cur

/-- Register Vk as a word issued at cycle now reads it. -/
def Ctx.readV (c : Ctx) (now k : Nat) : Word := lookEarly c.early (.v k) now (c.v.getD k 0)

/-- Index register Xn as a word issued at cycle now reads it. -/
def Ctx.readX (c : Ctx) (now n : Nat) : Word := lookEarly c.early (.x n) now (c.x.getD n 0)

/-- A read of the target at cycle now is one the checking scoreboard traps (R24); a write of the same chain is none
(R25). -/
def Ctx.undersized (c : Ctx) (now : Nat) (t : Target) : Bool :=
  c.early.any (fun e => e.tgt = t && decide (e.born < now) && decide (now < e.ready))

/-- BASE, LEN and OFF of an index register (Table 12.2). -/
def xBase (w : Word) : Nat := w.toNat % 256
/-- LEN of an index register. -/
def xLen (w : Word) : Nat := w.toNat / 256 % 256
/-- OFF of an index register. -/
def xOff (w : Word) : Nat := w.toNat / 65536

/-- The register a field names in a thread (R28, R87). -/
def Ctx.resolve (c : Ctx) (now : Nat) (f : RegField) : Nat :=
  if f.toNat < 60 then f.toNat else xBase (c.readX now (f.toNat - 60)) + xOff (c.readX now (f.toNat - 60))

/-- The i-th register of the operand at field f. -/
def Ctx.rd (c : Ctx) (now : Nat) (f : RegField) (i : Nat) : Word := c.readV now (c.resolve now f + i)

/-- The 64-bit value of the pair at field f (R2). -/
def Ctx.rdPair (c : Ctx) (now : Nat) (f : RegField) : DWord := c.rd now f 1 ++ c.rd now f 0

/-- A write of Vk at cycle now that lands at once: an interlocked result. -/
def Ctx.setV (c : Ctx) (k : Nat) (w : Word) : Ctx :=
  { c with v := c.v.set k w, early := c.early.filter (fun e => e.tgt != .v k) }

/-- A fixed-latency write of Vk by a word issued at cycle now (R23); it replaces an earlier one that has not landed. -/
def Ctx.putV (c : Ctx) (now lat k : Nat) (w : Word) : Ctx :=
  { c with
    v := c.v.set k w
    early := ⟨.v k, c.readV now k, now, now + lat⟩ :: c.early.filter (fun e => e.tgt != .v k) }

/-- A fixed-latency write of Xn by a word issued at cycle now (R91, R113). -/
def Ctx.putX (c : Ctx) (now n : Nat) (w : Word) : Ctx :=
  { c with
    x := c.x.set n w
    early := ⟨.x n, c.readX now n, now, now + 2⟩ :: c.early.filter (fun e => e.tgt != .x n) }

/-- The write of a word's destination field d: its i-th register. -/
def Ctx.wr (c : Ctx) (now lat : Nat) (d : RegField) (i : Nat) (w : Word) : Ctx :=
  c.putV now lat (c.resolve now d + i) w

/-- The write of a pair destination: both words with the word's latency (R106). The register is resolved once. -/
def Ctx.wrPair (c : Ctx) (now lat : Nat) (d : RegField) (w : DWord) : Ctx :=
  (c.putV now lat (c.resolve now d) (w.setWidth 32)).putV now lat (c.resolve now d + 1) ((w >>> 32).setWidth 32)

/-- The registers an operand covers in a thread. -/
def Operand.regs (o : Operand) (c : Ctx) (now : Nat) : List Nat :=
  (List.range o.n).map (c.resolve now o.num + ·)

/-- FINFO of steps 9 and 10 of R98. -/
def fieldInfo (field reg : Nat) : Word := BitVec.ofNat 32 (field * 256 + Nat.min reg 255)

/-- The trap of an early read (R24): its kind, field and register. -/
def stallTrap (pc : DWord) (kind field reg : Nat) : Trap :=
  ⟨0x006, pc, BitVec.ofNat 32 (kind * 1024 + field * 256 + Nat.min reg 255)⟩

/-- Step 9 of R98 for one operand, with R24's check of its index register (DEDUCED, log entry 67). -/
def checkOperand (c : Ctx) (now alloc : Nat) (checking : Bool) (pc : DWord) (o : Operand) : Option Trap :=
  let n := o.num.toNat - 60
  let x := c.readX now n
  let r := c.resolve now o.num
  if 60 ≤ o.num.toNat ∧ checking ∧ c.undersized now (.x n) then some (stallTrap pc 1 o.field n)
  else if 60 ≤ o.num.toNat ∧ xLen x < xOff x + o.n then
    some ⟨0x008, pc, fieldInfo o.field (xBase x + Nat.max (xOff x) (xLen x))⟩
  else if r % o.align ≠ 0 then some ⟨0x00A, pc, fieldInfo o.field r⟩
  else if alloc < r + o.n then some ⟨0x007, pc, fieldInfo o.field (Nat.max r alloc)⟩
  else none

/-- Step 10 of R98 for one operand: the registers this chain's earlier words wrote in the thread. -/
def checkChained (c : Ctx) (now : Nat) (wrote : List Nat) (pc : DWord) (o : Operand) : Option Trap :=
  if o.num.toNat < 60 ∨ !o.rd then none
  else match (o.regs c now).find? wrote.contains with
    | some r => some ⟨0x003, pc, fieldInfo o.field r⟩
    | none => none

/-- R24's check of the V registers an operand reads. -/
def checkLanded (c : Ctx) (now : Nat) (checking : Bool) (pc : DWord) (o : Operand) : Option Trap :=
  if !checking ∨ !o.rd then none
  else match (o.regs c now).find? (fun r => c.undersized now (.v r)) with
    | some r => some (stallTrap pc 0 o.field r)
    | none => none

/-- R24's check of a read that no V field names: kind 1 an index register, kind 2 a special register
(DEDUCED, log entry 66). An MFS of X0 to X3 is of kind 2 (DESIGN CHOICE, log entry 115). -/
def checkImplicit (c : Ctx) (now : Nat) (checking : Bool) (pc : DWord) (r : Nat × Nat × Nat) : Option Trap :=
  let early :=
    if r.1 = 1 then c.undersized now (.x r.2.2)
    else if 0x3C ≤ r.2.2 ∧ r.2.2 ≤ 0x3F then c.undersized now (.x (r.2.2 - 0x3C))
    else c.undersized now (.sp r.2.2) ||
      decide (r.2.2 = 0x17) && c.pend.any (fun p => decide (p.born < now) && decide (now < p.ready))
  if checking && early then some (stallTrap pc r.1 r.2.1 r.2.2) else none

/-- The first check that fails. -/
def firstTrap (l : List Operand) (f : Operand → Option Trap) : Option Trap := l.findSome? f

/-- Every result of the thread complete: at the end of a run (R23). -/
def Ctx.land (c : Ctx) : Ctx :=
  { c with early := [], pend := [], fstat := c.pend.foldl (fun a p => a ||| p.flags.setWidth 32) c.fstat }

end Sys2Proof.Machine
end

