-- ==== Sys2Proof/Machine/Ops.lean ====
section
/-!
DEFINITION. The operations the meanings share: reading and updating parts of the state, taking a trap and returning
from one, ending a launch, the error log, and the issue of a word by a cohort.
-/
namespace Sys2Proof.Machine

/-- A core number from 192 on stands for a steward (R101). -/
def isSteward (core : Nat) : Bool := decide (192 ≤ core)

/-- The core an error log entry names (R271). -/
def logCore (core : Nat) : Nat := if isSteward core then 255 else core

/-- The key of a group slot. -/
def groupKey (core slot : Nat) : Nat := core * 128 + slot

namespace State

/-- The context with this number. -/
def ctx (s : State) (id : Nat) : Ctx := s.ctxs.getD id {}
/-- The core with this number. -/
def core (s : State) (c : Nat) : Core := s.cores.getD c {}
/-- The group under this key. -/
def group (s : State) (k : Nat) : Group := s.groups.getD k {}
/-- The block with this number. -/
def block (s : State) (b : Nat) : Block := s.blocks.getD b {}
/-- The panel with this number. -/
def panel (s : State) (p : Nat) : Panel := s.panels.getD p {}
/-- The steward of this panel. -/
def steward (s : State) (p : Nat) : Steward := s.stewards.getD p {}
/-- The group that holds a context. -/
def groupOf (s : State) (c : Ctx) : Group := s.group (groupKey c.core c.slot)
/-- The cycle counter of a core (R113). -/
def now (s : State) (core : Nat) : Nat := (s.core core).cycle
/-- The launch of a block, with its number. -/
def launchOf (s : State) (b : Nat) : Option (Nat × Launch) :=
  match s.blocks.get? b with
  | some k => (s.launches.get? k.launch).map (fun l => (k.launch, l))
  | none => none
/-- The launch of a context; the defaults of Table 28.3 on a steward. -/
def launchFor (s : State) (c : Ctx) : Launch :=
  match s.launchOf c.block with
  | some (_, l) => l
  | none => {}
/-- The partition a context acts for: its launch's, or on a steward the one SPART names (R176). -/
def partOf (s : State) (c : Ctx) : Nat :=
  if isSteward c.core then
    (lookEarly c.early (.sp 0x100) (s.now c.core) ((s.steward (c.core - 192)).spart.setWidth 32)).toNat % 16
  else (s.launchFor c).part
/-- The trap handler of a context (R101, R232). -/
def handlerOf (s : State) (c : Ctx) : DWord :=
  if isSteward c.core then (s.steward (c.core - 192)).svec else (s.launchFor c).handler
/-- The code base packets count from (R85); a steward's is the start of its SRAM (DESIGN CHOICE, log entry 6). -/
def codeBase (s : State) (c : Ctx) : DWord :=
  if isSteward c.core then 0x090080000000 else (s.launchFor c).code
/-- A launch runs with the checking scoreboard (R24); stewards do not. -/
def checking (s : State) (c : Ctx) : Bool := !isSteward c.core && (s.launchFor c).checking

/-- The state with f applied to a context. -/
def updCtx (s : State) (id : Nat) (f : Ctx → Ctx) : State := { s with ctxs := s.ctxs.adjust id f }
/-- The state with f applied to the listed contexts. -/
def mapCtxs (s : State) (ids : List Nat) (f : Ctx → Ctx) : State := { s with ctxs := s.ctxs.mapKeys ids f }
/-- The state with f applied to a core. -/
def updCore (s : State) (c : Nat) (f : Core → Core) : State := { s with cores := s.cores.set c (f (s.core c)) }
/-- The state with f applied to a group. -/
def updGroup (s : State) (k : Nat) (f : Group → Group) : State := { s with groups := s.groups.adjust k f }
/-- The state with f applied to a block. -/
def updBlock (s : State) (b : Nat) (f : Block → Block) : State := { s with blocks := s.blocks.adjust b f }
/-- The state with f applied to a task. -/
def updTask (s : State) (t : Nat) (f : Task → Task) : State := { s with tasks := s.tasks.adjust t f }
/-- The state with f applied to a launch. -/
def updLaunch (s : State) (l : Nat) (f : Launch → Launch) : State := { s with launches := s.launches.adjust l f }
/-- The state with f applied to a trace. -/
def updTrace (s : State) (k : Nat) (f : Trace → Trace) : State := { s with traces := s.traces.adjust k f }
/-- The state with f applied to a slot. -/
def updSlot (s : State) (k : Nat) (f : Slot → Slot) : State := { s with slots := s.slots.adjust k f }
/-- The state with f applied to a partition. -/
def updPart (s : State) (k : Nat) (f : Partition → Partition) : State := { s with parts := s.parts.adjust k f }
/-- The state with f applied to an operation in flight. -/
def updOp (s : State) (k : Nat) (f : Op → Op) : State := { s with ops := s.ops.adjust k f }
/-- The state with f applied to a steward. -/
def updSteward (s : State) (p : Nat) (f : Steward → Steward) : State :=
  { s with stewards := s.stewards.set p (f (s.steward p)) }
/-- The state with f applied to a panel. -/
def updPanel (s : State) (p : Nat) (f : Panel → Panel) : State := { s with panels := s.panels.set p (f (s.panel p)) }

/-- A new operation in flight. -/
def addOp (s : State) (o : Op) : State := { s with ops := s.ops.set s.nextOp o, nextOp := s.nextOp + 1 }
/-- The operation is no longer in flight. -/
def dropOp (s : State) (k : Nat) : State := { s with ops := s.ops.erase k }

/-- The next free value, and the state with it used (DESIGN CHOICE, log entry 8). -/
def freshWord (s : State) : Word × State := (Config.freeWord s.free, { s with free := s.free + 1 })

end State

/-- A number as bytes, lowest first (R2). -/
def toBytes (n x : Nat) : List Byte := (List.range n).map (fun i => BitVec.ofNat 8 (x / 256 ^ i))

/-- The number that bytes stand for, lowest first (R2). -/
def ofBytes : List Byte → Nat
  | [] => 0
  | b :: t => b.toNat + 256 * ofBytes t

/-- A parked thread goes on at the word after the one it waits at, in a new run (R20, R129). -/
def Ctx.wake (c : Ctx) : Ctx := { c with status := .running, pc := c.pc + 4 }

/-- A parked thread issues its word again (R226). -/
def Ctx.reissue (c : Ctx) : Ctx := { c with status := .running }

/-- What a context is parked at. -/
def Ctx.parkKind (c : Ctx) : Option Park :=
  match c.status with
  | .parked p _ _ _ => some p
  | _ => none

/-- An event of R157 for one steward: its latch is set, or its WFE completes and the latch is clear again. -/
def State.setLatch (s : State) (p : Nat) : State :=
  if (s.ctx p).parkKind = some .wfe then s.updCtx p Ctx.wake
  else s.updSteward p (fun w => { w with latch := true })

/-- An event for every steward: an entry added to the error log (R157) (DESIGN CHOICE, log entry 37). -/
def State.setLatches (s : State) : State := [0, 1, 2, 3].foldl State.setLatch s

/-- The words of an error log entry (R271). -/
def logBytes (seq : Word) (cause : BitVec 10) (core part detail addr time : Nat) : List Byte :=
  toBytes 4 seq.toNat ++ toBytes 4 0 ++ toBytes 4 (part % 16 * 2 ^ 18 + core % 256 * 2 ^ 10 + cause.toNat) ++
    toBytes 4 detail ++ toBytes 8 time ++ toBytes 8 addr

/-- Writes an entry of the error log: the oldest is overwritten, the event latch is set and PF vector 0 is raised
(R271). -/
def State.logError (s : State) (cause : BitVec 10) (core part detail addr : Nat) : State :=
  let a := 0x090000040000 + 32 * (s.elogHead.toNat % 4096)
  let s := { s with
    mem := s.mem.writeBytes a (logBytes s.elogHead cause core part detail addr s.time)
    elogHead := s.elogHead + 1
    host := { s.host with raised := (0, 0) :: s.host.raised } }
  s.setLatches

/-- Entry to the handler, or the end of the thread (R232, R233): pc is the trapping word, tpc what TPC takes. -/
def Ctx.enterTrap (c : Ctx) (handler pc tpc : DWord) (t : Trap) : Ctx :=
  if c.handler ∨ handler = 0 then { c.land with status := .ended t pc, pc := pc }
  else
    { c.land with
      status := .running
      tpc := tpc
      fcause := t.cause.setWidth 32
      faddr := t.addr
      finfo := t.info
      handler := true
      pc := handler }

/-- Return from a handler: the flag is cleared and the thread goes on at TPC (R151, R233). -/
def Ctx.returnTrap (c : Ctx) (tpc : DWord) : Ctx := { c with handler := false, pc := tpc }

/-- The linear index, TID and PC that a completion record carries for a thread (R233, Table 28.4). -/
def State.ending (s : State) (c : Ctx) (t : Trap) (pc : DWord) : Ending :=
  ⟨2, t.cause, (s.block c.block).index, c.tid, pc, 0⟩

/-- The contexts of a launch that are alive. -/
def State.liveCtxs (s : State) (l : Nat) : List Nat :=
  s.ctxs.keysWhere (fun _ c => decide (c.core < 192 ∧ (s.block c.block).launch = l ∧ s.blocks.get? c.block ≠ none) &&
    (c.status != .exited) && (match c.status with | .ended _ _ => false | .stopped => false | _ => true))

/-- The contexts in the middle of a run. -/
def State.inRuns (s : State) : List Nat :=
  s.groups.foldl (fun l g => match g.2.run with | some r => r.mem ++ l | none => l) []

/-- Stops every live thread of a launch that is not in a run; those in a run stop at its end (R233). -/
def State.stopThreads (s : State) (l : Nat) : State :=
  let busy := s.inRuns
  s.mapCtxs ((s.liveCtxs l).filter (fun id => !busy.contains id)) (fun c => { c.land with status := .stopped })

/-- The requests of stopped groups leave the grant queues, and their tasks the task queues (R210, R233). -/
def State.clearQueues (s : State) (l : Nat) : State :=
  { s with
    cores := s.cores.map (fun p => (p.1,
      { p.2 with
        growQ := p.2.growQ.filter (fun q => decide ((s.block (s.group q.1).block).launch ≠ l))
        taskQ := p.2.taskQ.filter (fun e => decide ((s.tasks.getD e {}).launch ≠ l)) }))
    tasks := s.tasks.map (fun p =>
      if p.2.launch = l ∧ (p.2.phase = .queued ∨ p.2.phase = .waiting) then (p.1, { p.2 with phase := .closed, queue := none }) else p) }

/-- A launch begins to end, once: its threads are stopped, its trace dies (R196, R233). -/
def State.endLaunch (s : State) (l : Nat) (e : Ending) : State :=
  match s.launches.get? l with
  | none => s
  | some k =>
    if k.ending ≠ none then s
    else
      let s := s.updLaunch l (fun k => { k with ending := some e })
      let s := (s.clearQueues l).stopThreads l
      match k.trace with
      | some n => s.updTrace (k.part * 16 + n) (fun t => { t with dead := true })
      | none => s

/-- The other members of a gang are aborted: GANG_ABORT, with the failing launch and device (R214, R255). -/
def State.abortGang (s : State) (l device : Nat) : State :=
  match s.launches.get? l with
  | some k =>
    match k.gang with
    | some g =>
      let others := (s.gangs.getD g {}).members.filter (· ≠ l)
      let s := { s with gangs := s.gangs.adjust g (fun x => { x with aborted := true }) }
      others.foldl (fun s m => s.endLaunch m ⟨2, 0x387, 0, 0, 0, l % 2 ^ 32 + device % 256 * 2 ^ 32⟩) s
    | none => s
  | none => s

/-- A launch ends in a trap, and with it the other members of its gang (R233, R214). -/
def State.failLaunch (s : State) (l : Nat) (e : Ending) : State :=
  match s.launches.get? l with
  | some k => if k.ending ≠ none then s else (s.endLaunch l e).abortGang l s.dev
  | none => s

/-- A thread of a user core has ended in a trap: its launch ends (R233). -/
def State.noteEnded (s : State) (c : Ctx) (t : Trap) (pc : DWord) : State :=
  s.failLaunch (s.block c.block).launch (s.ending c t pc)

/-- A PROP command has its result, which the slot writes (R248). -/
def State.propSlotDone (s : State) (slot : Nat) (w : Word) : State := s.updSlot slot (fun q => { q with result := some w })

/-- The number under which a trace lists a slot that issued a PROP command. -/
def propSlotId (slot : Nat) : Nat := 2 ^ 40 + slot

/-- Enters a trap in a context without judging its launch. -/
def State.enterOnly (s : State) (id : Nat) (pc tpc : DWord) (t : Trap) : State :=
  s.updCtx id (fun c => c.enterTrap (s.handlerOf c) pc tpc t)

/-- The context's next trap ends it (R233). -/
def State.trapEnds (s : State) (c : Ctx) : Bool := c.handler || decide (s.handlerOf c = 0)

/-- A steward halts at a trap (R101): the halt is logged with its cause and PC. -/
def State.haltSteward (s : State) (c : Ctx) (pc : DWord) (t : Trap) : State :=
  (s.updSteward (c.core - 192) (fun w => { w with halted := true })).logError t.cause 255 (s.partOf c) t.info.toNat
    pc.toNat

/-- A trap in a thread that waits, at the word it waits at, where the thread runs for no PROP. -/
def State.trapWaiter (s : State) (id : Nat) (t : Trap) : State :=
  let c := s.ctx id
  let s' := s.enterOnly id c.pc c.pc t
  if !s.trapEnds c then s' else if isSteward c.core then s'.haltSteward c c.pc t else s'.noteEnded c t c.pc

/-- The threads of the issue whose PROP a trace lists under its first context. -/
def State.propThreads (s : State) (leader : Nat) : List Nat :=
  s.ctxs.keysWhere (fun _ c => match c.parkKind with | some (.prop _ _ l) => decide (l = leader) | _ => false)

/-- A PROP that a trace lists ends in a trap: its threads take it, or its slot's result is 0xFFFF_FFFF (R188, R248). -/
def State.failProp (s : State) (w : Nat) (t : Trap) : State :=
  if 2 ^ 40 ≤ w then s.propSlotDone (w - 2 ^ 40) 0xFFFFFFFF
  else (s.propThreads w).foldl (fun s id => s.trapWaiter id { t with addr := (s.ctx id).pc }) s

/-- The running PROP of a trace is aborted and the trace dies: PROP_ABORTED for it, TRACE_INVALID for those behind it
(R188). -/
def State.abortProp (s : State) (k : Nat) (cause : BitVec 10) : State :=
  let l := (s.traces.getD k {}).props
  let s := s.updTrace k (fun x => { x with dead := true, props := [] })
  match l with
  | [] => s
  | p :: rest =>
    rest.foldl (fun s p => s.failProp p.who ⟨0x38F, 0, 0⟩) (s.failProp p.who ⟨0x38E, 0, cause.setWidth 32⟩)

/-- A launch ends in a trap, and with it its gang (R214, R233); where it stands for the tasks a PROP runs, that PROP is
aborted (R188). -/
def State.endInTrap (s : State) (l : Nat) (e : Ending) : State :=
  match (s.launches.getD l {}).prop with
  | none => s.failLaunch l e
  | some k => if (s.launches.getD l {}).ending ≠ none then s else (s.endLaunch l e).abortProp k e.cause

/-- A thread that trapped in a firing of the deadlock check has returned, exited or ended; the launch is aborted once
all have (R31, R210). -/
def State.settleDeadlock (s : State) (id : Nat) : State :=
  let l := (s.block (s.ctx id).block).launch
  match s.launches.get? l with
  | none => s
  | some k =>
    if !k.deadlocked.contains id then s
    else
      let rest := k.deadlocked.filter (· ≠ id)
      let s := s.updLaunch l (fun k => { k with deadlocked := rest })
      match rest, k.deadlock with
      | [], some e => s.endInTrap l e
      | _, _ => s

/-- A thread has ended in a trap: its launch ends with it, but where the thread trapped in a firing of the deadlock check,
whose threads must all be done first (R210, R233). -/
def State.endThread (s : State) (id : Nat) (e : Ending) : State :=
  let l := (s.block (s.ctx id).block).launch
  if (s.launches.getD l {}).deadlocked.contains id then s.settleDeadlock id else s.endInTrap l e

/-- A trap taken by one thread (R232, R233, R101): the handler is entered, or the thread and its launch end, or the
steward halts. A thread of a task that a PROP runs aborts that PROP instead (R188). -/
def State.trapThread (s : State) (id : Nat) (pc tpc : DWord) (t : Trap) : State :=
  let c := s.ctx id
  let s' := s.enterOnly id pc tpc t
  if !s.trapEnds c then s'
  else if isSteward c.core then s'.haltSteward c pc t
  else s'.endThread id (s.ending c t pc)

/-- A trap whose TPC is the trapping word. -/
def State.trapAt (s : State) (id : Nat) (pc : DWord) (t : Trap) : State := s.trapThread id pc pc t

/-- A thread parks at its word (R22). -/
def Ctx.park (c : Ctx) (p : Park) (arrival scope : Nat) : Ctx := { c with status := .parked p arrival scope 0 }

/-- A thread parks with the next arrival number. -/
def State.parkThread (s : State) (id : Nat) (p : Park) (scope : Nat) : State :=
  { s.updCtx id (fun c => c.park p s.seq scope) with seq := s.seq + 1 }

/-- The order of arrival of a parked context. -/
def Ctx.arrival (c : Ctx) : Nat :=
  match c.status with
  | .parked _ a _ _ => a
  | _ => 0

/-- A context that has not exited, ended or been stopped (R17). -/
def Ctx.live (c : Ctx) : Bool :=
  match c.status with
  | .running => true
  | .parked _ _ _ _ => true
  | _ => false

/-- The parked contexts that satisfy a test, oldest arrival first. -/
def State.waiters (s : State) (q : Park → Bool) : List Nat :=
  let ids := s.ctxs.keysWhere (fun _ c => match c.parkKind with | some p => q p | none => false)
  ids.foldl (fun l id =>
    let a := (s.ctx id).arrival
    (l.filter (fun j => (s.ctx j).arrival ≤ a)) ++ [id] ++ l.filter (fun j => a < (s.ctx j).arrival)) []

/-- The contexts of a group, empty lanes left out, in ascending lane order. -/
def State.laneOrder (s : State) (ids : List Nat) : List Nat :=
  (List.range 32).filterMap (fun l => ids.find? (fun id => (s.ctx id).lane = l))

/-- The step that completes an operation in flight. -/
def completion (k : Nat) (o : Op) : Option Instr :=
  if o.fault ≠ none then none
  else match o.kind with
  | .load _ _ _ => some (.dataReturn k false)
  | .value _ _ => some (.dataReturn k false)
  | .result _ _ _ => some (.variableLatencyComplete k)
  | .store _ _ _ => some (match o.err with | some c => .deferredStoreError k c | none => .storePerformed k)
  | .reduce _ _ _ => some (match o.err with | some c => .deferredStoreError k c | none => .reductionApply k)
  | .copy _ => some (.copyComplete k none)
  | .matrix _ => some (.matrixOpComplete k none)
  | .rows _ _ => some (.shrinkRowReturn k)
  | .walk _ _ => some (.twalkComplete k)
  | .coll g c _ _ => some (if c.aborted && c.decided.isNone then .collDecisionTimeout g else .collTimeout g)

/-- The group of an issue. -/
def Issue.key (is : Issue) : Nat := groupKey is.core is.slot

/-- The run being issued. -/
def State.runOf (s : State) (is : Issue) : Run := (s.group is.key).run.getD ⟨is.pc, is.cohort, 0, none, false, []⟩

/-- The chain the issued word continues, if it does. -/
def State.chainOf (s : State) (is : Issue) : Option Chain := (s.runOf is).chain

/-- A cycle has passed in which the run's word waited; a chain that has begun keeps its issue cycle (R22, R25, R97). -/
def Run.wait (r : Run) : Run :=
  { r with chain := r.chain.map (fun c => { c with waited := c.waited + 1 }), held := true }

/-- The run waits in place at its word for one cycle (R22); ev is the step it waits for, when one is in flight
(DESIGN CHOICE, log entry 93). -/
def State.hold (s : State) (is : Issue) (ev : Option Instr) : State :=
  { (s.updCore is.core (fun c => { c with cycle := if (s.chainOf is).isSome then c.cycle else c.cycle + 1 })).updGroup is.key
      (fun g => { g with run := g.run.map Run.wait }) with
    inputs := ev.toList ++ s.inputs
    issue := none }

/-- A thread leaves the run it is in. -/
def State.leaveRun (s : State) (id : Nat) : State :=
  let c := s.ctx id
  s.updGroup (groupKey c.core c.slot) (fun g =>
    match g.run with
    | some r =>
      let l := r.mem.filter (· ≠ id)
      { g with run := if l.isEmpty then none else some { r with mem := l } }
    | none => g)

/-- A word's pipe clashes with the pipes its chain has taken (R97). -/
def pipeClash (taken : List Pipe) (p : Pipe) : Bool :=
  match p with
  | .fma => taken.contains .fma2 || decide (2 ≤ taken.count .fma)
  | .fma2 => taken.contains .fma2 || taken.contains .fma
  | p => taken.contains p

/-- Registers an operand names directly (R28). -/
def Operand.direct (o : Operand) : List Nat :=
  if o.num.toNat < 60 then (List.range o.n).map (o.num.toNat + ·) else []

/-- Steps 6 to 8 of R98: the same outcome in every thread of the cohort. -/
def wordFault (w : WordInfo) (pos count : Nat) (ch : Option Chain) : Option (BitVec 10) :=
  if w.ctl.c ∧ w.ctl.e then some 0x003
  else if w.ctl.c ∧ w.ctl.s ≠ 0 then some 0x003
  else if w.branch ∧ !w.ctl.e then some 0x005
  else if w.ctl.c ∧ pos = 2 then some 0x003
  else if (match ch with
      | some c => pipeClash c.pipes w.pipe ||
          w.ops.any (fun o => o.rd && decide (o.field < 3) && o.direct.any c.direct.contains)
      | none => false) then some 0x003
  else if 24 ≤ count then some 0x004
  else none

/-- Steps 9 and 10 of R98 and the checks of R24 on the operands, in a thread. -/
def threadCheck (c : Ctx) (now alloc : Nat) (checking : Bool) (pc : DWord) (wrote : List Nat) (w : WordInfo) :
    Option Trap :=
  (firstTrap w.ops (checkOperand c now alloc checking pc)).or
    ((firstTrap w.ops (checkChained c now wrote pc)).or
      ((firstTrap w.ops (checkLanded c now checking pc)).or (w.imp.findSome? (checkImplicit c now checking pc))))

/-- The registers a word reads or writes in a thread, for the scoreboard (R23). -/
def WordInfo.regs (w : WordInfo) (c : Ctx) (now : Nat) : List Nat := w.ops.flatMap (fun o => o.regs c now)

/-- The registers a word writes in a thread. -/
def WordInfo.written (w : WordInfo) (c : Ctx) (now : Nat) : List Nat :=
  (w.ops.filter (·.wr)).flatMap (fun o => o.regs c now)

/-- The operations in flight that a word of a thread must wait for: those that will write a register it reads or
writes or will read one it writes, and those that busy names. Of the operations of its own chain, from number first on, it
waits only for those that will write or read a register it writes (R23, R25, R57). -/
def State.awaited (s : State) (id : Nat) (first : Nat) (regs written : List Nat) (busy : Op → Bool) : Store Op :=
  s.ops.filter (fun p => p.2.ctx = id && (p.2.src.any written.contains ||
    (if p.1 < first then p.2.dst.any regs.contains || busy p.2 else p.2.dst.any written.contains)))

/-- What the wrapper of a word decides before the word takes effect. -/
inductive Start where
  /-- No thread takes the word's effect in this step. -/
  | done (s : State)
  /-- The threads that have passed R98. -/
  | go (s : State) (ids : List Nat)

/-- The group's run goes on with the word after pc, or ends (R20, R23, R25). -/
def State.finish (s : State) (is : Issue) (w : WordInfo) (cont : List Nat) (chain : Option Chain) : State :=
  let r := s.runOf is
  let ends := w.ctl.e || cont.isEmpty
  let chained := w.ctl.c && !ends
  let t := s.now is.core
  let stall := w.ctl.s.toNat + r.chain.elim 0 (·.waited)
  let s := s.updCore is.core (fun c =>
    { c with cycle := if chained then t else if ends then t + 1 else t + 1 + stall })
  let s := s.updGroup is.key (fun g =>
    if ends then
      { g with
        run := none
        yielded := if g.yielding then some (s.ctx (is.cohort.headD 0)).pc else none
        yielding := false
        notBefore := t + 1 + stall }
    else { g with run := some ⟨is.pc + 4, cont, r.count + 1, if chained then chain else none, false, []⟩ })
  { s with issue := none }

/-- Rows that a launch holds on a core (R29): its groups' allocations and rows released and not yet returned. -/
def State.heldRows (s : State) (core l : Nat) : Nat :=
  s.groups.foldl (fun n g =>
    if g.1 / 128 = core ∧ (s.block g.2.block).launch = l then n + g.2.alloc else n)
    (s.ops.foldl (fun n p => match p.2.kind with
      | .rows k _ => if p.2.core = core ∧ p.2.launch = l then n + k else n
      | _ => n) 0)

/-- BUDGET of a launch on a core (R29). -/
def State.budget (s : State) (core l : Nat) : Nat :=
  let free := (s.core core).freeRows
  match (s.launches.getD l {}).kernel.budget with
  | some b => Nat.min free (b - s.heldRows core l)
  | none => free

/-- The chain that an issued word continues, or begins: what the group's, the block's and the launch's registers held
before it (R25). -/
def State.chainBase (s : State) (is : Issue) : Chain :=
  let g := s.group is.key
  let l := (s.block g.block).launch
  let q := s.launches.getD l {}
  (s.chainOf is).getD ⟨[], [], [], s.nextOp, g.alloc, g.rj, g.tags, (s.block g.block).cv, s.budget is.core l,
    [q.sacHit, q.sacMiss, q.sacSkip], 0⟩

/-- The chain after a word has issued for some threads. -/
def State.chainAfter (s : State) (is : Issue) (w : WordInfo) (ids : List Nat) : Option Chain :=
  let now := s.now is.core
  let base := s.chainBase is
  let wr := w.ops.filter (·.wr)
  some { base with
    pipes := w.pipe :: base.pipes
    direct := wr.flatMap Operand.direct ++ base.direct
    wrote := ids.flatMap (fun id => (wr.flatMap (fun o => o.regs (s.ctx id) now)).map (fun r => (id, r))) ++ base.wrote }

/-- Every thread of the cohort takes one trap at the word, and the run ends. -/
def State.trapAll (s : State) (is : Issue) (t : Trap) : State :=
  (is.cohort.foldl (fun s id => s.trapAt id is.pc t) s).finish is ⟨⟨false, true, 0⟩, .alu, 0, false, [], []⟩ [] none

/-- The position of a word in its packet (R85): below the code base the difference counts modulo 2 ^ 64 (DEDUCED, log
entry 131). -/
def State.position (s : State) (is : Issue) : Nat :=
  ((is.pc - s.codeBase (s.ctx (is.cohort.headD 0))).toNat / 4) % 3

/-- The first operation in flight that the whole run waits for (R22): late run-ahead data is not among them. -/
def State.heldBy (s : State) (is : Issue) (w : WordInfo) (busy : Op → Bool) : Option (Nat × Op) :=
  let now := s.now is.core
  let first := match s.chainOf is with | some c => c.firstOp | none => s.nextOp
  is.cohort.findSome? (fun id =>
    (s.awaited id first (w.regs (s.ctx id) now) (w.written (s.ctx id) now) busy).find? (fun p => !p.2.late))

/-- The late run-ahead operation a thread waits for at this word (R134). -/
def State.lateFor (s : State) (is : Issue) (w : WordInfo) (id : Nat) : Option Nat :=
  let now := s.now is.core
  let first := match s.chainOf is with | some c => c.firstOp | none => s.nextOp
  ((s.awaited id first (w.regs (s.ctx id) now) (w.written (s.ctx id) now) (fun _ => false)).find?
    (fun p => p.2.late)).map (·.1)

/-- The registers of a thread that the chain's earlier words wrote. -/
def wroteBy (ch : Option Chain) (id : Nat) : List Nat :=
  match ch with
  | some c => (c.wrote.filter (fun p => p.1 = id)).map (·.2)
  | none => []

/-- The trap of steps 9 and 10 in a thread of the cohort (DEDUCED, log entry 65). -/
def State.issueCheck (s : State) (is : Issue) (w : WordInfo) (id : Nat) : Option Trap :=
  let c := s.ctx id
  threadCheck c (s.now is.core) (s.group is.key).alloc (s.checking c) is.pc (wroteBy (s.chainOf is) id) w

/-- The start of a word: steps 6 to 8 of R98 for the cohort, the scoreboard, then steps 9 and 10 per thread
(R22, R98, R99, R134). -/
def State.start (s : State) (is : Issue) (w : WordInfo) (busy : Op → Bool) : Start :=
  match wordFault w (s.position is) (s.runOf is).count (s.chainOf is) with
  | some cause => .done (s.trapAll is ⟨cause, is.pc, is.word⟩)
  | none =>
    match s.heldBy is w busy with
    | some (k, o) => .done (s.hold is (completion k o))
    | none =>
      let late := is.cohort.filter (fun id => (s.lateFor is w id).isSome)
      if late ≠ [] ∧ late.length = is.cohort.length then
        match s.lateFor is w (late.headD 0) with
        | some k => .done (s.hold is (completion k (s.ops.getD k {})))
        | none => .done s
      else
        let rest := is.cohort.filter (fun id => (s.lateFor is w id).isNone)
        let ids := rest.filter (fun id => (s.issueCheck is w id).isNone)
        let s' := late.foldl (fun t id =>
          match s.lateFor is w id with
          | some k => t.parkThread id (.late k) 0
          | none => t) s
        let s' := rest.foldl (fun t id =>
          match s.issueCheck is w id with
          | some tr => t.trapAt id is.pc tr
          | none => t) s'
        .go s' ids

/-- The next word of a thread that goes on in the run. -/
def Ctx.advance (c : Ctx) : Ctx := { c with pc := c.pc + 4 }

/-- A word whose whole effect is on the thread that issues it: f gives the thread's new state
(DEDUCED, log entry 92). -/
def threadWord (s : State) (w : WordInfo) (busy : Op → Bool) (f : State → Issue → Ctx → Ctx) : State :=
  match s.issue with
  | none => s
  | some is =>
    match s.start is w busy with
    | .done s' => s'
    | .go s' ids => (s'.mapCtxs ids (fun c => (f s is c).advance)).finish is w ids (s.chainAfter is w ids)

/-- The outcome of a word in one thread. -/
inductive TOut where
  /-- The thread goes on to the next word. -/
  | next (c : Ctx)
  /-- The thread goes on at a PC of its own; the run ends (R146). -/
  | jump (c : Ctx) (pc : DWord)
  | trap (t : Trap)

/-- A word that acts on the thread alone and may trap it or divert it. -/
def branchWord (s : State) (w : WordInfo) (busy : Op → Bool) (f : State → Issue → Ctx → TOut) : State :=
  match s.issue with
  | none => s
  | some is =>
    match s.start is w busy with
    | .done s' => s'
    | .go s' ids =>
      let out := fun id => f s is (s.ctx id)
      let fin := ids.foldl (fun (p : State × List Nat) id =>
        match out id with
        | .next c => (p.1.updCtx id (fun _ => c.advance), p.2 ++ [id])
        | .jump c pc => (p.1.updCtx id (fun _ => { c with pc := pc }), p.2)
        | .trap t => (p.1.trapAt id is.pc t, p.2)) (s', [])
      fin.1.finish is w fin.2 (s.chainAfter is w ids)

/-- A word that acts on more than the thread: g is applied in each thread in lane order, and says whether the thread
goes on in the run. A thread that goes on has its PC advanced. -/
def foldWord (s : State) (w : WordInfo) (busy : Op → Bool) (g : State → Issue → Nat → State × Bool) : State :=
  match s.issue with
  | none => s
  | some is =>
    match s.start is w busy with
    | .done s' => s'
    | .go s' ids =>
      let chain := s.chainAfter is w ids
      let fin := ids.foldl (fun (p : State × List Nat) id =>
        let r := g p.1 is id
        if r.2 then (r.1.updCtx id Ctx.advance, p.2 ++ [id]) else (r.1, p.2)) (s', [])
      fin.1.finish is w fin.2 chain

/-- The outcome of a word that acts once per issue. -/
inductive Once where
  /-- The effect, and the threads that go on. -/
  | next (s : State) (cont : List Nat)
  /-- Every thread of the cohort traps. -/
  | trap (t : Trap)
  /-- The run waits in place for a step in flight (R22). -/
  | hold (ev : Option Instr)

/-- A word that acts once per issue for the threads that pass R98; g sees the state with the others trapped. -/
def onceWord (s : State) (w : WordInfo) (busy : Op → Bool) (g : State → Issue → List Nat → Once) : State :=
  match s.issue with
  | none => s
  | some is =>
    match s.start is w busy with
    | .done s' => s'
    | .go s' [] => s'.finish is w [] none
    | .go s' ids =>
      match g s' is ids with
      | .next t cont => (t.mapCtxs cont Ctx.advance).finish is w cont (s.chainAfter is w ids)
      | .trap t => (ids.foldl (fun s id => s.trapAt id is.pc t) s').finish is w [] none
      | .hold ev => s.hold is ev

/-- A word that may hold its run before any thread takes effect (R22): h names the step it waits for. -/
def State.holdFirst (s : State) (h : State → Issue → Option (Option Instr)) (k : State → State) : State :=
  match s.issue with
  | none => s
  | some is =>
    match h s is with
    | some ev => s.hold is ev
    | none => k s

/-- No operation beyond the operands' is awaited. -/
def noneBusy : Op → Bool := fun _ => false

/-- The outcome of a step that goes on. -/
def next (s : State) : Host.Outcome State Fault Refusal := .next s

end Sys2Proof.Machine
end

