-- ==== Sys2Proof/Machine/Flags.lean ====
section
/-!
DEFINITION. FMODE and FSTAT as the words read and write them (R42, R113, R118), and the integer results that compare
and saturate (R103, R107).
-/
namespace Sys2Proof.Machine

/-- FMODE as a word issued at cycle now reads it: an MTS that has not landed is not seen (R113). -/
def Ctx.mode (c : Ctx) (now : Nat) : FMode := fmodeOf (lookEarly c.early (.sp 0x16) now c.fmode)

/-- FSTAT as a word issued at cycle now reads it: flags that have not landed are not seen (R113). -/
def Ctx.readFstat (c : Ctx) (now : Nat) : Word :=
  (c.pend.filter (fun p => decide (p.ready ≤ now))).foldl (fun a p => a ||| p.flags.setWidth 32)
    (lookEarly c.early (.sp 0x17) now c.fstat)

/-- Flags raised by a fixed-latency class F word issued at cycle now: they land with its result (R113, R118). -/
def Ctx.raise (c : Ctx) (now lat : Nat) (f : BitVec 6) : Ctx :=
  { c with pend := ⟨f, now, now + lat⟩ :: c.pend }

/-- 1 when a relation holds and 0 when it does not (R107, R121). -/
def bool32 (b : Bool) : Word := if b then 1 else 0

/-- A value clamped to the int32 range (R103). -/
def clamp32 (x : Int) : Word :=
  if x < -2147483648 then 0x80000000 else if 2147483647 < x then 0x7FFFFFFF else BitVec.ofInt 32 x

/-- Sign extension of an immediate to a register (R91). -/
def sext {n : Nat} (x : BitVec n) : Word := x.signExtend 32

/-- Zero extension of an immediate to a register (R91). -/
def zext {n : Nat} (x : BitVec n) : Word := x.setWidth 32

end Sys2Proof.Machine
end

