-- ==== Sys2Proof/Machine/Alu.lean ====
section
/-!
DEFINITION. The arithmetic, logic, bit-field, pair and compare words of class A, and classes I and W but for index
registers and LDK (R102 to R108, R111).
-/
namespace Sys2Proof.Machine

/-- A word that writes Vd from what the thread holds, with its fixed latency (R102). -/
def write1 (s : State) (i : Instr) (d : RegField) (f : Nat → Ctx → Word) : Host.Outcome State Fault Refusal :=
  next (threadWord s (wordInfo i) noneBusy (fun s is c =>
    c.wr (s.now is.core) (wordInfo i).lat d 0 (f (s.now is.core) c)))

/-- A word that writes the pair at d. -/
def write2 (s : State) (i : Instr) (d : RegField) (f : Nat → Ctx → DWord) : Host.Outcome State Fault Refusal :=
  next (threadWord s (wordInfo i) noneBusy (fun s is c =>
    c.wrPair (s.now is.core) (wordInfo i).lat d (f (s.now is.core) c)))

/-- A word of two source registers. -/
def alu3 (s : State) (i : Instr) (d a b : RegField) (f : Word → Word → Word) : Host.Outcome State Fault Refusal :=
  write1 s i d (fun t c => f (c.rd t a 0) (c.rd t b 0))

/-- A word of two source registers that also reads its destination. -/
def alu3d (s : State) (i : Instr) (d a b : RegField) (f : Word → Word → Word → Word) :
    Host.Outcome State Fault Refusal :=
  write1 s i d (fun t c => f (c.rd t d 0) (c.rd t a 0) (c.rd t b 0))

/-- A word of one source register. -/
def alu2 (s : State) (i : Instr) (d a : RegField) (f : Word → Word) : Host.Outcome State Fault Refusal :=
  write1 s i d (fun t c => f (c.rd t a 0))

/-- A word of two source pairs that writes a pair. -/
def pair3 (s : State) (i : Instr) (d a b : RegField) (f : DWord → DWord → DWord) :
    Host.Outcome State Fault Refusal :=
  write2 s i d (fun t c => f (c.rdPair t a) (c.rdPair t b))

/-- A word with a variable-latency result: each thread's values are written when its operation completes, and nothing
reads the registers before (R23, R275). -/
def resultWord (s : State) (w : WordInfo) (d : RegField) (n : Nat) (f : State → Issue → Ctx → List Word × BitVec 6) :
    State :=
  foldWord s w noneBusy (fun s is id =>
    let c := s.ctx id
    let r := f s is c
    (s.addOp
      { core := is.core, ctx := id, grp := is.key, block := c.block, launch := (s.block c.block).launch
        dst := (List.range n).map (c.resolve (s.now is.core) d + ·), kind := .result r.1 none r.2 }, true))

/-- A division word (R103). -/
def divide (s : State) (i : Instr) (d a b : RegField) (f : Word → Word → Word) : Host.Outcome State Fault Refusal :=
  next (resultWord s (wordInfo i) d 1 (fun s is c =>
    ([f (c.rd (s.now is.core) a 0) (c.rd (s.now is.core) b 0)], 0)))

/-- DIV (R53, R103): toward zero, −1 for a zero divisor. -/
def divS (x y : Word) : Word :=
  if y = 0 then 0xFFFFFFFF
  else if x = 0x80000000 ∧ y = 0xFFFFFFFF then 0x80000000
  else BitVec.ofInt 32 (x.toInt.tdiv y.toInt)

/-- REM (R53, R103): the sign of the dividend. -/
def remS (x y : Word) : Word :=
  if y = 0 then x
  else if x = 0x80000000 ∧ y = 0xFFFFFFFF then 0
  else BitVec.ofInt 32 (x.toInt - y.toInt * x.toInt.tdiv y.toInt)

/-- Shift left; 0 from 32 on (R104). -/
def shlW (x n : Word) : Word := if 32 ≤ n.toNat then 0 else x <<< n.toNat
/-- Shift right, zeros in; 0 from 32 on (R104). -/
def shrW (x n : Word) : Word := if 32 ≤ n.toNat then 0 else x >>> n.toNat
/-- Arithmetic shift right; the sign fill from 32 on (R104). -/
def sarW (x n : Word) : Word := if 32 ≤ n.toNat then (if x.msb then 0xFFFFFFFF else 0) else x.sshiftRight n.toNat
/-- Rotate left by the amount modulo 32 (R104). -/
def rotlW (x n : Word) : Word := x.rotateLeft (n.toNat % 32)
/-- The number of 1 bits. -/
def popcW (x : Word) : Word := BitVec.ofNat 32 ((List.range 32).filter (fun i => x.getLsbD i)).length
/-- The number of 0 bits above the highest 1 bit. -/
def clzW (x : Word) : Word := if x = 0 then 32 else BitVec.ofNat 32 (31 - Nat.log2 x.toNat)
/-- The bits in reverse order. -/
def brevW (x : Word) : Word := x.reverse

/-- The effective width of a bit field (R105). -/
def fieldWidth (ctl : Word) : Nat :=
  let pos := ctl.toNat % 256
  let len := ctl.toNat / 256 % 256
  if len ≠ 0 ∧ pos < 32 then Nat.min len (32 - pos) else 0

/-- BFX (R105, Table 12.1). -/
def bfxW (x ctl : Word) : Word :=
  let w := fieldWidth ctl
  if w = 0 then 0
  else
    let f := x.toNat / 2 ^ (ctl.toNat % 256) % 2 ^ w
    if ctl.getLsbD 16 ∧ f / 2 ^ (w - 1) % 2 = 1 then BitVec.ofNat 32 (f + 2 ^ 32 - 2 ^ w) else BitVec.ofNat 32 f

/-- BFI (R105). -/
def bfiW (old x ctl : Word) : Word :=
  let w := fieldWidth ctl
  let pos := ctl.toNat % 256
  if w = 0 then old
  else
    let m : Word := BitVec.ofNat 32 ((2 ^ w - 1) * 2 ^ pos)
    (old &&& ~~~m) ||| ((x <<< pos) &&& m)

/-- SHLL (R106). -/
def shllW (x : DWord) (n : Word) : DWord := if 64 ≤ n.toNat then 0 else x <<< n.toNat
/-- SHRL (R106). -/
def shrlW (x : DWord) (n : Word) : DWord := if 64 ≤ n.toNat then 0 else x >>> n.toNat
/-- SARL (R106). -/
def sarlW (x : DWord) (n : Word) : DWord :=
  if 64 ≤ n.toNat then (if x.msb then 0xFFFFFFFFFFFFFFFF else 0) else x.sshiftRight n.toNat

/-- ADD (R103). -/
def execAdd (ctl : Ctl) (d a b : RegField) (s : State) : Host.Outcome State Fault Refusal :=
  alu3 s (.add ctl d a b) d a b (· + ·)

/-- SUB (R103). -/
def execSub (ctl : Ctl) (d a b : RegField) (s : State) : Host.Outcome State Fault Refusal :=
  alu3 s (.sub ctl d a b) d a b (· - ·)

/-- ADDS (R103). -/
def execAdds (ctl : Ctl) (d a b : RegField) (s : State) : Host.Outcome State Fault Refusal :=
  alu3 s (.adds ctl d a b) d a b (fun x y => clamp32 (x.toInt + y.toInt))

/-- SUBS (R103). -/
def execSubs (ctl : Ctl) (d a b : RegField) (s : State) : Host.Outcome State Fault Refusal :=
  alu3 s (.subs ctl d a b) d a b (fun x y => clamp32 (x.toInt - y.toInt))

/-- MUL (R103). -/
def execMul (ctl : Ctl) (d a b : RegField) (s : State) : Host.Outcome State Fault Refusal :=
  alu3 s (.mul ctl d a b) d a b (· * ·)

/-- MULHI (R103). -/
def execMulhi (ctl : Ctl) (d a b : RegField) (s : State) : Host.Outcome State Fault Refusal :=
  alu3 s (.mulhi ctl d a b) d a b (fun x y => BitVec.ofInt 32 (x.toInt * y.toInt / 2 ^ 32))

/-- MULHU (R103). -/
def execMulhu (ctl : Ctl) (d a b : RegField) (s : State) : Host.Outcome State Fault Refusal :=
  alu3 s (.mulhu ctl d a b) d a b (fun x y => BitVec.ofNat 32 (x.toNat * y.toNat / 2 ^ 32))

/-- MAD (R103). -/
def execMad (ctl : Ctl) (d a b : RegField) (s : State) : Host.Outcome State Fault Refusal :=
  alu3d s (.mad ctl d a b) d a b (fun z x y => x * y + z)

/-- DIV (R53, R103). -/
def execDiv (ctl : Ctl) (d a b : RegField) (s : State) : Host.Outcome State Fault Refusal :=
  divide s (.div ctl d a b) d a b divS

/-- DIVU (R53, R103). -/
def execDivu (ctl : Ctl) (d a b : RegField) (s : State) : Host.Outcome State Fault Refusal :=
  divide s (.divu ctl d a b) d a b (fun x y => if y = 0 then 0xFFFFFFFF else x / y)

/-- REM (R53, R103). -/
def execRem (ctl : Ctl) (d a b : RegField) (s : State) : Host.Outcome State Fault Refusal :=
  divide s (.rem ctl d a b) d a b remS

/-- REMU (R53, R103). -/
def execRemu (ctl : Ctl) (d a b : RegField) (s : State) : Host.Outcome State Fault Refusal :=
  divide s (.remu ctl d a b) d a b (fun x y => if y = 0 then x else x % y)

/-- MIN (R103). -/
def execMin (ctl : Ctl) (d a b : RegField) (s : State) : Host.Outcome State Fault Refusal :=
  alu3 s (.min ctl d a b) d a b (fun x y => if x.toInt ≤ y.toInt then x else y)

/-- MAX (R103). -/
def execMax (ctl : Ctl) (d a b : RegField) (s : State) : Host.Outcome State Fault Refusal :=
  alu3 s (.max ctl d a b) d a b (fun x y => if x.toInt ≤ y.toInt then y else x)

/-- MINU (R103). -/
def execMinu (ctl : Ctl) (d a b : RegField) (s : State) : Host.Outcome State Fault Refusal :=
  alu3 s (.minu ctl d a b) d a b (fun x y => if x.toNat ≤ y.toNat then x else y)

/-- MAXU (R103). -/
def execMaxu (ctl : Ctl) (d a b : RegField) (s : State) : Host.Outcome State Fault Refusal :=
  alu3 s (.maxu ctl d a b) d a b (fun x y => if x.toNat ≤ y.toNat then y else x)

/-- AND (R104). -/
def execAnd (ctl : Ctl) (d a b : RegField) (s : State) : Host.Outcome State Fault Refusal :=
  alu3 s (.and ctl d a b) d a b (· &&& ·)

/-- OR (R104). -/
def execOr (ctl : Ctl) (d a b : RegField) (s : State) : Host.Outcome State Fault Refusal :=
  alu3 s (.or ctl d a b) d a b (· ||| ·)

/-- XOR (R104). -/
def execXor (ctl : Ctl) (d a b : RegField) (s : State) : Host.Outcome State Fault Refusal :=
  alu3 s (.xor ctl d a b) d a b (· ^^^ ·)

/-- ANDN (R104). -/
def execAndn (ctl : Ctl) (d a b : RegField) (s : State) : Host.Outcome State Fault Refusal :=
  alu3 s (.andn ctl d a b) d a b (fun x y => x &&& ~~~y)

/-- SHL (R104). -/
def execShl (ctl : Ctl) (d a b : RegField) (s : State) : Host.Outcome State Fault Refusal :=
  alu3 s (.shl ctl d a b) d a b shlW

/-- SHR (R104). -/
def execShr (ctl : Ctl) (d a b : RegField) (s : State) : Host.Outcome State Fault Refusal :=
  alu3 s (.shr ctl d a b) d a b shrW

/-- SAR (R104). -/
def execSar (ctl : Ctl) (d a b : RegField) (s : State) : Host.Outcome State Fault Refusal :=
  alu3 s (.sar ctl d a b) d a b sarW

/-- ROTL (R104). -/
def execRotl (ctl : Ctl) (d a b : RegField) (s : State) : Host.Outcome State Fault Refusal :=
  alu3 s (.rotl ctl d a b) d a b rotlW

/-- POPC (R104). -/
def execPopc (ctl : Ctl) (d a : RegField) (s : State) : Host.Outcome State Fault Refusal :=
  alu2 s (.popc ctl d a) d a popcW

/-- CLZ (R104). -/
def execClz (ctl : Ctl) (d a : RegField) (s : State) : Host.Outcome State Fault Refusal :=
  alu2 s (.clz ctl d a) d a clzW

/-- BREV (R104). -/
def execBrev (ctl : Ctl) (d a : RegField) (s : State) : Host.Outcome State Fault Refusal :=
  alu2 s (.brev ctl d a) d a brevW

/-- BFX (R105). -/
def execBfx (ctl : Ctl) (d a b : RegField) (s : State) : Host.Outcome State Fault Refusal :=
  alu3 s (.bfx ctl d a b) d a b bfxW

/-- BFI (R105). -/
def execBfi (ctl : Ctl) (d a b : RegField) (s : State) : Host.Outcome State Fault Refusal :=
  alu3d s (.bfi ctl d a b) d a b bfiW

/-- SEL (R105). -/
def execSel (ctl : Ctl) (d a b : RegField) (s : State) : Host.Outcome State Fault Refusal :=
  alu3d s (.sel ctl d a b) d a b (fun z x y => if z ≠ 0 then x else y)

/-- MOV (R104). -/
def execMov (ctl : Ctl) (d a : RegField) (s : State) : Host.Outcome State Fault Refusal :=
  alu2 s (.mov ctl d a) d a id

/-- ADDL (R106). -/
def execAddl (ctl : Ctl) (d a b : RegField) (s : State) : Host.Outcome State Fault Refusal :=
  pair3 s (.addl ctl d a b) d a b (· + ·)

/-- SUBL (R106). -/
def execSubl (ctl : Ctl) (d a b : RegField) (s : State) : Host.Outcome State Fault Refusal :=
  pair3 s (.subl ctl d a b) d a b (· - ·)

/-- MULW (R106): the exact product. -/
def execMulw (ctl : Ctl) (d a b : RegField) (s : State) : Host.Outcome State Fault Refusal :=
  write2 s (.mulw ctl d a b) d (fun t c => BitVec.ofInt 64 ((c.rd t a 0).toInt * (c.rd t b 0).toInt))

/-- MULWU (R106). -/
def execMulwu (ctl : Ctl) (d a b : RegField) (s : State) : Host.Outcome State Fault Refusal :=
  write2 s (.mulwu ctl d a b) d (fun t c => BitVec.ofNat 64 ((c.rd t a 0).toNat * (c.rd t b 0).toNat))

/-- SHLL (R106). -/
def execShll (ctl : Ctl) (d a b : RegField) (s : State) : Host.Outcome State Fault Refusal :=
  write2 s (.shll ctl d a b) d (fun t c => shllW (c.rdPair t a) (c.rd t b 0))

/-- SHRL (R106). -/
def execShrl (ctl : Ctl) (d a b : RegField) (s : State) : Host.Outcome State Fault Refusal :=
  write2 s (.shrl ctl d a b) d (fun t c => shrlW (c.rdPair t a) (c.rd t b 0))

/-- SARL (R106). -/
def execSarl (ctl : Ctl) (d a b : RegField) (s : State) : Host.Outcome State Fault Refusal :=
  write2 s (.sarl ctl d a b) d (fun t c => sarlW (c.rdPair t a) (c.rd t b 0))

/-- MOVL (R106). -/
def execMovl (ctl : Ctl) (d a : RegField) (s : State) : Host.Outcome State Fault Refusal :=
  write2 s (.movl ctl d a) d (fun t c => c.rdPair t a)

/-- CMPEQ (R107). -/
def execCmpeq (ctl : Ctl) (d a b : RegField) (s : State) : Host.Outcome State Fault Refusal :=
  alu3 s (.cmpeq ctl d a b) d a b (fun x y => bool32 (decide (x = y)))

/-- CMPNE (R107). -/
def execCmpne (ctl : Ctl) (d a b : RegField) (s : State) : Host.Outcome State Fault Refusal :=
  alu3 s (.cmpne ctl d a b) d a b (fun x y => bool32 (decide (x ≠ y)))

/-- CMPLT (R107). -/
def execCmplt (ctl : Ctl) (d a b : RegField) (s : State) : Host.Outcome State Fault Refusal :=
  alu3 s (.cmplt ctl d a b) d a b (fun x y => bool32 (decide (x.toInt < y.toInt)))

/-- CMPLE (R107). -/
def execCmple (ctl : Ctl) (d a b : RegField) (s : State) : Host.Outcome State Fault Refusal :=
  alu3 s (.cmple ctl d a b) d a b (fun x y => bool32 (decide (x.toInt ≤ y.toInt)))

/-- CMPLTU (R107). -/
def execCmpltu (ctl : Ctl) (d a b : RegField) (s : State) : Host.Outcome State Fault Refusal :=
  alu3 s (.cmpltu ctl d a b) d a b (fun x y => bool32 (decide (x.toNat < y.toNat)))

/-- CMPLEU (R107). -/
def execCmpleu (ctl : Ctl) (d a b : RegField) (s : State) : Host.Outcome State Fault Refusal :=
  alu3 s (.cmpleu ctl d a b) d a b (fun x y => bool32 (decide (x.toNat ≤ y.toNat)))

/-- CMPEQL (R107). -/
def execCmpeql (ctl : Ctl) (d a b : RegField) (s : State) : Host.Outcome State Fault Refusal :=
  write1 s (.cmpeql ctl d a b) d (fun t c => bool32 (decide (c.rdPair t a = c.rdPair t b)))

/-- CMPLTL (R107). -/
def execCmpltl (ctl : Ctl) (d a b : RegField) (s : State) : Host.Outcome State Fault Refusal :=
  write1 s (.cmpltl ctl d a b) d (fun t c => bool32 (decide ((c.rdPair t a).toInt < (c.rdPair t b).toInt)))

/-- ADDI (R108). -/
def execAddi (ctl : Ctl) (d a : RegField) (i : BitVec 8) (s : State) : Host.Outcome State Fault Refusal :=
  alu2 s (.addi ctl d a i) d a (· + sext i)

/-- ANDI (R108). -/
def execAndi (ctl : Ctl) (d a : RegField) (i : BitVec 8) (s : State) : Host.Outcome State Fault Refusal :=
  alu2 s (.andi ctl d a i) d a (· &&& zext i)

/-- ORI (R108). -/
def execOri (ctl : Ctl) (d a : RegField) (i : BitVec 8) (s : State) : Host.Outcome State Fault Refusal :=
  alu2 s (.ori ctl d a i) d a (· ||| zext i)

/-- XORI (R108). -/
def execXori (ctl : Ctl) (d a : RegField) (i : BitVec 8) (s : State) : Host.Outcome State Fault Refusal :=
  alu2 s (.xori ctl d a i) d a (· ^^^ zext i)

/-- SHLI (R108). -/
def execShli (ctl : Ctl) (d a : RegField) (i : BitVec 8) (s : State) : Host.Outcome State Fault Refusal :=
  alu2 s (.shli ctl d a i) d a (fun x => shlW x (zext i))

/-- SHRI (R108). -/
def execShri (ctl : Ctl) (d a : RegField) (i : BitVec 8) (s : State) : Host.Outcome State Fault Refusal :=
  alu2 s (.shri ctl d a i) d a (fun x => shrW x (zext i))

/-- SARI (R108). -/
def execSari (ctl : Ctl) (d a : RegField) (i : BitVec 8) (s : State) : Host.Outcome State Fault Refusal :=
  alu2 s (.sari ctl d a i) d a (fun x => sarW x (zext i))

/-- CMPEQI (R108). -/
def execCmpeqi (ctl : Ctl) (d a : RegField) (i : BitVec 8) (s : State) : Host.Outcome State Fault Refusal :=
  alu2 s (.cmpeqi ctl d a i) d a (fun x => bool32 (decide (x = sext i)))

/-- CMPLTI (R108). -/
def execCmplti (ctl : Ctl) (d a : RegField) (i : BitVec 8) (s : State) : Host.Outcome State Fault Refusal :=
  alu2 s (.cmplti ctl d a i) d a (fun x => bool32 (decide (x.toInt < (sext i).toInt)))

/-- CMPLTUI (R108). -/
def execCmpltui (ctl : Ctl) (d a : RegField) (i : BitVec 8) (s : State) : Host.Outcome State Fault Refusal :=
  alu2 s (.cmpltui ctl d a i) d a (fun x => bool32 (decide (x.toNat < i.toNat)))

/-- MULI (R108). -/
def execMuli (ctl : Ctl) (d a : RegField) (i : BitVec 8) (s : State) : Host.Outcome State Fault Refusal :=
  alu2 s (.muli ctl d a i) d a (· * sext i)

/-- LI (R111). -/
def execLi (ctl : Ctl) (d : RegField) (i : BitVec 16) (s : State) : Host.Outcome State Fault Refusal :=
  write1 s (.li ctl d i) d (fun _ _ => zext i)

/-- LIH (R111): the low half is kept. -/
def execLih (ctl : Ctl) (d : RegField) (i : BitVec 16) (s : State) : Host.Outcome State Fault Refusal :=
  write1 s (.lih ctl d i) d (fun t c => i ++ (c.rd t d 0).setWidth 16)

/-- ADDIW (R111). -/
def execAddiw (ctl : Ctl) (d : RegField) (i : BitVec 16) (s : State) : Host.Outcome State Fault Refusal :=
  write1 s (.addiw ctl d i) d (fun t c => c.rd t d 0 + sext i)

end Sys2Proof.Machine
end

