-- ==== Sys2Proof/Machine/Device.lean ====
section
/-!
DEFINITION. The physical map and what lies behind each address: memory, on-chip windows, the core control block, the
steward and management space (R11 to R16, R101, R246, R262, R267 to R271).
-/
namespace Sys2Proof.Machine

/-- What a physical address reaches (Tables 1.5 and 1.6). -/
inductive Region where
  | hbm
  | registers (core off : Nat)
  | scratch (core off : Nat)
  | acc (core off : Nat)
  | ob (core off : Nat)
  | wb (core off : Nat)
  | control (core off : Nat)
  /-- Within a core's window and backed by nothing (R13). -/
  | hole (core : Nat)
  | mgmt (off : Nat)
  | sram (off : Nat)
  | peer (device off : Nat)
  /-- The store of a live trace, under the trace's key: bytes of no address, which a program must not access (R198). -/
  | store (trace off : Nat)
  /-- In no range of Table 1.5. -/
  | nowhere
  deriving DecidableEq, Repr

/-- The first address of the windows. -/
def windowBase : Nat := 0x080000000000
/-- The first address of the steward and management space. -/
def mgmtBase : Nat := 0x090000000000
/-- The first address of the peer windows. -/
def peerBase : Nat := 0x100000000000

/-- Where the stores of traces stand beside the physical addresses. -/
def storeBase : Nat := 2 ^ 80

/-- Where an access to a physical address lands: in the region of a trace, whatever agent makes it and by whatever
mapping, in that trace's store (R198) (DEDUCED, log entry 19). -/
def State.storeAt (s : State) (pa : Nat) : Nat :=
  match s.traces.find? (fun t => t.2.frames.any (fun f => decide (f.1 ≤ pa ∧ pa < f.1 + f.2))) with
  | some t => storeBase + t.1 * 2 ^ 40 + pa
  | none => pa

/-- The region of an offset in a core's window (Table 1.6). -/
def windowRegion (core off : Nat) : Region :=
  if off < 0x400000 then .registers core off
  else if 0x400000 ≤ off ∧ off < 0x4C0000 then .scratch core (off - 0x400000)
  else if 0x800000 ≤ off ∧ off < 0x880000 then .acc core (off - 0x800000)
  else if 0xA00000 ≤ off ∧ off < 0xA40000 then .ob core (off - 0xA00000)
  else if 0xC00000 ≤ off ∧ off < 0xC80000 then .wb core (off - 0xC00000)
  else if 0x1000000 ≤ off ∧ off < 0x1010000 then .control core (off - 0x1000000)
  else .hole core

/-- The region of a physical address (Table 1.5). -/
def regionOf (pa : Nat) : Region :=
  if pa < 0x8000000000 then .hbm
  else if windowBase ≤ pa ∧ pa < windowBase + 192 * 0x4000000 then
    windowRegion ((pa - windowBase) / 0x4000000) ((pa - windowBase) % 0x4000000)
  else if mgmtBase ≤ pa ∧ pa < mgmtBase + 0x100000000 then
    if 0x80000000 ≤ pa - mgmtBase ∧ pa - mgmtBase < 0x80400000 then .sram (pa - mgmtBase - 0x80000000)
    else .mgmt (pa - mgmtBase)
  else if peerBase ≤ pa ∧ pa < peerBase + 256 * 0x10000000000 then
    .peer ((pa - peerBase) / 0x10000000000) ((pa - peerBase) % 0x10000000000)
  else if storeBase ≤ pa then .store ((pa - storeBase) / 2 ^ 40) ((pa - storeBase) % 2 ^ 40)
  else .nowhere

/-- The physical address of a core's scratchpad, accumulators, operand buffer and weight buffer. -/
def scratchBase (core : Nat) : Nat := windowBase + core * 0x4000000 + 0x400000
/-- Accumulator memory of a core. -/
def accBase (core : Nat) : Nat := windowBase + core * 0x4000000 + 0x800000
/-- Operand buffer of a core. -/
def obBase (core : Nat) : Nat := windowBase + core * 0x4000000 + 0xA00000
/-- Weight buffer of a core. -/
def wbBase (core : Nat) : Nat := windowBase + core * 0x4000000 + 0xC00000

/-- The link mask of a device in the route table (R262). -/
def State.routeMask (s : State) (device : Nat) : Nat := ofBytes (s.mem.readBytes (mgmtBase + 0x30000 + 8 * device) 2) % 4096

/-- The device is part of the pod and not this one (R12, R262). -/
def State.peerReachable (s : State) (device : Nat) : Bool :=
  decide (device ≠ s.dev) && decide (s.routeMask device ≠ 0)

/-- The link that carries all traffic to a device (R262): the k-th set bit of its mask. -/
def State.linkTo (s : State) (device : Nat) : Option Nat :=
  let l := (List.range 12).filter (fun i => decide (s.routeMask device / 2 ^ i % 2 = 1))
  l[(s.dev + device) % l.length]?

/-- A peer address whose link is down: an access to it gets no response (R63, R261) (DEDUCED, log entry 49). -/
def State.cutPeer (s : State) (pa : Nat) : Bool :=
  match regionOf pa with
  | .peer d _ => (s.linkTo d).any (fun l => !(s.links.getD l {}).up)
  | _ => false

/-- The context of a group at a lane. -/
def State.memberAt (s : State) (g : Group) (lane : Nat) : Option Nat :=
  g.members.find? (fun id => decide ((s.ctx id).lane = lane))

/-- The context and the register that a register-window offset names: of a resident group, below its allocation, at a
lane that holds a thread (R14) (DESIGN CHOICE, log entry 68). -/
def State.windowReg (s : State) (core off : Nat) : Option (Nat × Nat) :=
  let idx := off / 1024
  match s.groups.get? (groupKey core (idx / 32)) with
  | some g =>
    if g.saved.isNone && decide (off % 1024 / 4 < g.alloc) then
      (s.memberAt g (idx % 32)).map (fun id => (id, off % 1024 / 4))
    else none
  | none => none

/-- The error response an access gets for its address, if any: the cause, and whether the address is logged
(R11 to R14, R101). The agent is a core, 192 + p for a steward, 255 for the host. -/
def State.accessError (s : State) (agent pa size : Nat) : Option (BitVec 10 × Bool) :=
  match regionOf pa with
  | .registers core off =>
    if (size ≠ 4 ∧ size ≠ 8) ∨ pa % size ≠ 0 then some (0x103, false)
    else if s.windowReg core off = none ∨ s.windowReg core (off + size - 4) = none then some (0x102, false)
    else none
  | .hole _ => some (0x102, true)
  | .sram _ => if 192 ≤ agent ∧ agent < 196 then none else some (0x101, true)
  | .peer d off => if 0x8000000000 ≤ off ∨ !s.peerReachable d then some (0x101, true) else none
  | .nowhere => some (0x101, true)
  | _ => none

/-- The key under which memory holds an address as an agent sees it: each steward has an SRAM of its own (R101)
(DESIGN CHOICE, log entry 29). -/
def memKey (agent pa : Nat) : Nat :=
  match regionOf pa with
  | .sram _ => if agent < 196 then pa + (agent - 192) * 2 ^ 52 else pa
  | _ => pa

/-- Memory holds an uncorrectable error in the bytes an agent accesses (R128) (DESIGN CHOICE, log entry 108). -/
def State.hasEcc (s : State) (agent pa n : Nat) : Bool :=
  (List.range n).any (fun i => s.ecc.contains (memKey agent (pa + i)))

/-- The error response an access now gets: the cause, and whether its address is logged; over a link that is down no
response comes (R11 to R14, R63, R128). -/
def State.responseError (s : State) (agent pa size : Nat) : Option (BitVec 10 × Bool) :=
  (s.accessError agent pa size).or
    (if s.cutPeer pa then some (0x105, false) else if s.hasEcc agent pa size then some (0x104, false) else none)

/-- The access layout of R128: size, whether W is needed, whether it is a fetch. -/
def accessInfo (size : Nat) (w x : Bool) : Nat :=
  Nat.log2 size + 8 * w.toNat + 16 * x.toNat

/-- The address is in the home of a write that a mapped WAITW may watch; its slot reads again (R248). -/
def State.wakeSlots (s : State) : State :=
  { s with slots := s.slots.map (fun p => if p.2.begun then (p.1, { p.2 with awake := true }) else p) }

/-- n bytes of a region that is memory and nothing else. -/
def plainMemory (r : Region) : Bool :=
  match r with
  | .hbm => true
  | .scratch _ _ => true
  | .acc _ _ => true
  | .ob _ _ => true
  | .wb _ _ => true
  | .peer _ _ => true
  | _ => false

/-- Bytes that the device itself leaves in memory: a slot that waits on a word reads again (R248). -/
def State.pokeMem (s : State) (pa : Nat) (l : List Byte) : State :=
  ({ s with
    mem := s.mem.writeBytes pa l
    ecc := s.ecc.filter (fun a => !decide (pa ≤ a ∧ a < pa + l.length)) }).wakeSlots

/-- The error response that an access of the device itself to n bytes of a partition's tables gets is logged where the
rules log it (R11 to R13). -/
def State.logDevice (s : State) (part pa n : Nat) (w : Bool) : State :=
  match s.responseError 255 pa n with
  | some (cause, true) => s.logError cause 255 part (accessInfo n w false) pa
  | _ => s

/-- A store of the device itself to a partition's tables: made, or logged and dropped (DESIGN CHOICE, log entry 125). -/
def State.deviceStore (s : State) (part pa : Nat) (l : List Byte) : State :=
  if (s.accessError 255 pa l.length).isSome || s.cutPeer pa then s.logDevice part pa l.length true else s.pokeMem pa l

/-- Byte i of a number. -/
def byteOf (x i : Nat) : Byte := BitVec.ofNat 8 (x / 256 ^ i)

/-- A channel's registers as the 32 bytes of the control block (R181). -/
def channelBytes (c : Channel) : List Byte :=
  toBytes 8 c.head.toNat ++ toBytes 8 c.cur.toNat ++ toBytes 4 (c.busy.toNat + 2 * c.fault.toNat) ++
    toBytes 4 c.cause.toNat ++ toBytes 8 c.addr.toNat

/-- A byte of the core control block (Table 1.7). -/
def State.controlByte (s : State) (core off : Nat) : Byte :=
  if 0x100 ≤ off ∧ off < 0x180 then
    (channelBytes ((s.core core).channels.getD ((off - 0x100) / 32) {})).getD ((off - 0x100) % 32) 0
  else if 0x200 ≤ off ∧ off < 0x204 then byteOf (s.core core).freeRows (off - 0x200)
  else if 0x204 ≤ off ∧ off < 0x208 then byteOf (6144 - (s.core core).freeRows) (off - 0x204)
  else if 0x1000 ≤ off ∧ off < 0x1400 then
    byteOf (s.group (groupKey core ((off - 0x1000) / 8))).tags.toNat ((off - 0x1000) % 8)
  else 0

/-- BOOTSTAT (R267). -/
def State.bootStat (s : State) : Nat := s.boot.reason * 2 ^ 24 + s.boot.attempts * 2 ^ 16 + s.boot.state

/-- The priority of a slot's queue, whose control block is memory (R247) (DEDUCED, log entry 56). -/
def State.slotPriority (s : State) (q : Slot) : Nat :=
  if (s.responseError 255 (q.qcb + 8) 4).isSome || !plainMemory (regionOf (q.qcb + 8)) then q.age
  else ofBytes (s.mem.readBytes (q.qcb + 8) 4) / 2 ^ 16 % 256 + q.age

/-- A byte of a slot's registers (R246). -/
def State.slotByte (s : State) (slot off : Nat) : Byte :=
  let q := s.slots.getD slot {}
  if off < 8 then byteOf q.qcb off
  else if off < 12 then byteOf (q.map.toNat + 2 * q.busy.toNat) (off - 8)
  else if off < 16 then byteOf (s.slotPriority q) (off - 12)
  else 0

/-- The bits of a byte of the management space that are not reserved: a route entry has 12, a collective group's word 0
all but [30:28], its words 4 to 15 none, an entry of the error log none in word 1 and 22 in word 2 (R1, R262, R271,
Table 30.3). -/
def mgmtMask (off : Nat) : Byte :=
  if 0x30000 ≤ off ∧ off < 0x30800 then
    if off % 8 = 0 then 0xFF else if off % 8 = 1 then 0x0F else 0
  else if 0x20000 ≤ off ∧ off < 0x24000 then
    if off % 64 = 3 then 0x8F else if off % 64 < 16 then 0xFF else 0
  else if 0x40000 ≤ off ∧ off < 0x60000 then
    if 4 ≤ off % 32 ∧ off % 32 < 8 then 0 else if off % 32 = 10 then 0x3F else if off % 32 = 11 then 0 else 0xFF
  else 0xFF

/-- A byte of the management space; what has no behaviour of its own, an offset that no rule lists among it, is memory
(DESIGN CHOICE, log entry 126), reserved fields reading 0 (R1). -/
def State.mgmtByte (s : State) (off : Nat) : Byte :=
  if 0x100 ≤ off ∧ off < 0x104 then byteOf s.bootStat (off - 0x100)
  else if 0x104 ≤ off ∧ off < 0x108 then 0
  else if 0x110 ≤ off ∧ off < 0x114 then byteOf s.elogHead.toNat (off - 0x110)
  else if 0x340 ≤ off ∧ off < 0x344 then byteOf s.boot.signing.toNat (off - 0x340)
  else if 0x10000 ≤ off ∧ off < 0x14000 then s.slotByte ((off - 0x10000) / 64) (off % 64)
  else if 0x30800 ≤ off ∧ off < 0x30804 then byteOf s.linkTimeout (off - 0x30800)
  else s.mem.read (mgmtBase + off) &&& mgmtMask off

/-- The byte an agent reads at a physical address that gives no error response; one of a trace's store is undefined
(R198). -/
def State.physByte (s : State) (agent pa : Nat) : Byte :=
  match regionOf pa with
  | .registers core off =>
    match s.windowReg core off with
    | some (id, k) => byteOf ((s.ctx id).v.getD k 0).toNat (pa % 4)
    | none => 0
  | .control core off => s.controlByte core off
  | .mgmt off => s.mgmtByte off
  | .store _ _ => Config.freeByte (s.free + pa)
  | _ => s.mem.read (memKey agent pa)

/-- n bytes from a physical address. -/
def State.physBytes (s : State) (agent pa n : Nat) : List Byte := (List.range n).map (fun i => s.physByte agent (pa + i))

/-- The number of n bytes at a physical address. -/
def State.physNat (s : State) (agent pa n : Nat) : Nat := ofBytes (s.physBytes agent pa n)

/-- The number that a read of the device itself finds at a physical address: 0 where it gets an error response
(DESIGN CHOICE, log entries 113 and 125). -/
def State.deviceNat (s : State) (pa n : Nat) : Nat := if (s.responseError 255 pa n).isSome then 0 else s.physNat 255 pa n

/-- A queue control block can be read and written as memory (Table 28.1). -/
def State.goodQcb (s : State) (qcb : Nat) : Bool :=
  (List.range 6).all (fun i => plainMemory (regionOf (qcb + 4 * i)) && (s.responseError 255 (qcb + 4 * i) 4).isNone)

/-- The cause under which a control block that is no memory is logged. -/
def State.qcbCause (s : State) (qcb : Nat) : BitVec 10 :=
  ((List.range 6).findSome? (fun i => s.responseError 255 (qcb + 4 * i) 4)).elim 0x101 (·.1)

/-- The panel whose steward acts for a partition: that of its first quad (DEDUCED, log entry 5). -/
def State.stewardFor (s : State) (part : Nat) : Nat := ((s.parts.getD part {}).quads.headD 0) / 12

/-- The slot that has a partition's queue mapped. -/
def State.slotOf (s : State) (part q : Nat) : Option Nat :=
  (s.slots.keysWhere (fun _ x => x.map && decide (x.part = part) && decide (x.queue = q))).head?

/-- A kick of queue q by an agent of a partition (R245) (DEDUCED, log entry 47). A queue table whose entry gets an error
response has no such queue (DESIGN CHOICE, log entry 125). -/
def State.kickQueue (s : State) (part agent q : Nat) : State :=
  match s.slotOf part q with
  | some k => s.updSlot k (fun x => { x with awake := decide (x.read.toNat ≠ s.deviceNat (x.qcb + 16) 4) })
  | none =>
    match s.parts.get? part with
    | none => s.logError 0x101 agent part 0 q
    | some p =>
      let w := s.deviceNat (p.qtable + 64 * q + 8) 4
      if w / 2 ^ 31 % 2 = 1 ∧ w / 2 ^ 8 % 16 = part then
        (s.updPart part (fun p => { p with pending := if p.pending.contains q then p.pending else q :: p.pending })).setLatches
      else (s.logDevice part (p.qtable + 64 * q + 8) 4 false).logError 0x101 agent part 0 q

/-- A write of MAP = 1: READ and AGE are loaded and the pending bit cleared; a queue already mapped is logged (R246)
(DEDUCED, log entry 48), and so is one whose control block is no memory (DESIGN CHOICE, log entry 125). -/
def State.mapSlot (s : State) (slot : Nat) : State :=
  let q := s.slots.getD slot {}
  let part := s.physNat 255 (q.qcb + 8) 4 / 2 ^ 8 % 16
  let num := (q.qcb - (s.parts.getD part {}).qtable) / 64
  if q.map then s
  else if q.busy then s.updSlot slot (fun q => { q with map := true })
  else if (s.slots.keysWhere (fun _ x => x.map && decide (x.qcb = q.qcb))) ≠ [] then s.logError 0x101 255 part 0 q.qcb
  else if !s.goodQcb q.qcb then s.logError (s.qcbCause q.qcb) 255 0 0 q.qcb
  else
    let q' : Slot :=
      { q with
        map := true, busy := true, part := part, queue := num
        read := BitVec.ofNat 32 (s.physNat 255 (q.qcb + 20) 4)
        age := s.physNat 255 (q.qcb + 12) 4
        begun := false, running := false, result := none, stopped := false
        awake := decide (s.physNat 255 (q.qcb + 20) 4 ≠ s.physNat 255 (q.qcb + 16) 4) }
    { s with slots := s.slots.set slot q' }.updPart part (fun p => { p with pending := p.pending.filter (· ≠ num) })

/-- READ and AGE are written back and BUSY is cleared (R246). -/
def State.writeBack (s : State) (slot : Nat) : State :=
  let q := s.slots.getD slot {}
  let s := (s.deviceStore q.part (q.qcb + 20) (toBytes 4 q.read.toNat)).deviceStore q.part (q.qcb + 12) (toBytes 4 q.age)
  { s with
    slots := s.slots.set slot { q with map := false, busy := false, begun := false, awake := false } }

/-- A write of MAP = 0 (R246): a WAITW is abandoned; a PROP under way is finished first (DEDUCED, log entry 59). -/
def State.unmapSlot (s : State) (slot : Nat) : State :=
  let q := s.slots.getD slot {}
  if !q.map then s
  else if q.running then s.updSlot slot (fun q => { q with map := false })
  else s.writeBack slot

/-- The bytes of a 32-bit register at base with some of them written: what each byte then holds. -/
def overlay (old : List Byte) (off : Nat) (b : Byte) : List Byte := old.set off b

/-- A register of the slot block takes a written byte (R246). -/
def State.writeSlotByte (s : State) (slot off : Nat) (b : Byte) : State :=
  let q := s.slots.getD slot {}
  if off < 8 then { s with slots := s.slots.set slot { q with qcb := ofBytes (overlay (toBytes 8 q.qcb) off b) } }
  else if off = 8 then if b.toNat % 2 = 1 then s.mapSlot slot else s.unmapSlot slot
  else s

/-- The completing byte of ATTNONCE starts a signing over the log and the nonce, unless one is under way (R269). -/
def State.writeNonceByte (s : State) (off : Nat) (b : Byte) : State :=
  if s.boot.signing then s
  else
    let s := { s with mem := s.mem.write (mgmtBase + 0x200 + off) b }
    if off = 31 then
      { s with boot := { s.boot with signing := true, nonce := s.mem.readBytes (mgmtBase + 0x200) 32 } }
    else s

/-- Whether the host finds an offset of the management space read only (R267, R269, R271). -/
def hostReadOnly (off : Nat) : Bool :=
  decide (0x100 ≤ off ∧ off < 0x104) || decide (0x110 ≤ off ∧ off < 0x114) || decide (0x300 ≤ off ∧ off < 0x344) ||
    decide (0x1000 ≤ off ∧ off < 0x2000) || decide (0x40000 ≤ off ∧ off < 0x60000)

/-- A byte that firmware writes in the measurement log, which it may only append to: what a record holds stands
(R269) (DESIGN CHOICE, log entry 110). -/
def State.appendLogByte (s : State) (off : Nat) (b : Byte) : State :=
  if off < s.boot.logEnd then s
  else { s with mem := s.mem.write (mgmtBase + off) b, boot := { s.boot with logEnd := off + 1 } }

/-- A byte written in the management space by an agent. BOOTSTAT, BOOTCMD, ELOGHEAD and the signing flag take none. -/
def State.writeMgmtByte (s : State) (agent off : Nat) (b : Byte) : State :=
  if agent = 255 ∧ hostReadOnly off then s
  else if 0x100 ≤ off ∧ off < 0x108 ∨ 0x110 ≤ off ∧ off < 0x114 ∨ 0x340 ≤ off ∧ off < 0x344 then s
  else if 0x1000 ≤ off ∧ off < 0x2000 then s.appendLogByte off b
  else if 0x200 ≤ off ∧ off < 0x220 then s.writeNonceByte (off - 0x200) b
  else if 0x10000 ≤ off ∧ off < 0x14000 then s.writeSlotByte ((off - 0x10000) / 64) (off % 64) b
  else if 0x30800 ≤ off ∧ off < 0x30804 then
    let t := ofBytes (overlay (toBytes 4 s.linkTimeout) (off - 0x30800) b)
    { s with linkTimeout := t }
  else { s with mem := s.mem.write (mgmtBase + off) b }

/-- A channel from its 32 bytes: a write sets the addresses, FAULT, CAUSE and ADDR at once, busy or not; BUSY is the
shuttle's own and a reserved bit takes nothing (R16, R181) (DESIGN CHOICE, log entry 105). -/
def channelOf (old : Channel) (l : List Byte) : Channel :=
  { old with
    head := BitVec.ofNat 64 (ofBytes (l.take 8))
    cur := BitVec.ofNat 64 (ofBytes ((l.drop 8).take 8))
    fault := decide (ofBytes ((l.drop 16).take 4) / 2 % 2 = 1)
    cause := BitVec.ofNat 32 (ofBytes ((l.drop 20).take 4))
    addr := BitVec.ofNat 64 (ofBytes ((l.drop 24).take 8)) }

/-- A byte written in a core control block: the channel registers; the read-only and reserved words are unchanged. -/
def State.writeControlByte (s : State) (core off : Nat) (b : Byte) : State :=
  if 0x100 ≤ off ∧ off < 0x180 then
    let n := (off - 0x100) / 32
    s.updCore core (fun c =>
      let ch := c.channels.getD n {}
      { c with channels := c.channels.set n (channelOf ch (overlay (channelBytes ch) ((off - 0x100) % 32) b)) })
  else s

/-- A write to an address in the region of a live trace leaves the trace's later results undefined (R198). -/
def State.markStore (s : State) (pa : Nat) : State :=
  match regionOf pa with
  | .store k _ => s.updTrace k (fun t => { t with spoiled := true })
  | _ => s

/-- One byte of an access written at a physical address. -/
def State.writePhysByte (s : State) (agent pa : Nat) (b : Byte) : State :=
  match regionOf pa with
  | .registers core off =>
    match s.windowReg core off with
    | some (id, k) => s.updCtx id (fun c =>
        c.setV k (BitVec.ofNat 32 (ofBytes (overlay (toBytes 4 (c.v.getD k 0).toNat) (pa % 4) b))))
    | none => s
  | .control core off => s.writeControlByte core off b
  | .mgmt off => s.writeMgmtByte agent off b
  | .store _ _ => s.markStore pa
  | _ => { s with mem := s.mem.write (memKey agent pa) b, ecc := s.ecc.filter (· ≠ memKey agent pa) }

/-- Bytes written from a physical address on. -/
def State.writePhysBytes (s : State) (agent pa : Nat) : List Byte → State
  | [] => s
  | b :: t => (s.writePhysByte agent pa b).writePhysBytes agent (pa + 1) t

/-- The partition that holds a core; one that is swapped out holds none (R242). -/
def State.partOfCore (s : State) (core : Nat) : Nat :=
  (s.parts.keysWhere (fun _ p => !p.swapped && p.quads.contains (core / 4))).headD 16

/-- A host write of the value 1 to all of BOOTCMD, in tack mode with no verification running: it starts one (R268)
(DEDUCED, log entry 111). -/
def State.bootCmd (s : State) (agent off : Nat) (l : List Byte) : State :=
  if agent = 255 ∧ off ≤ 0x104 ∧ (l.drop (0x104 - off)).take 4 = toBytes 4 1 ∧ s.boot.state = 4 ∧ !s.boot.verifying then
    { s with boot := { s.boot with verifying := true } }
  else s

/-- A write performed at a physical address: a write that covers a kick register kicks the queue it names, by its first
bytes up to four, modulo 65,536 (Table 1.7, R245) (DESIGN CHOICE, log entry 112). -/
def State.writePhys (s : State) (agent pa : Nat) (l : List Byte) : State :=
  match regionOf pa with
  | .control core off =>
    if off = 0 then (s.writePhysBytes agent pa l).kickQueue (s.partOfCore core) core (ofBytes (l.take 4) % 65536)
    else s.writePhysBytes agent pa l
  | .mgmt off => (s.writePhysBytes agent pa l).bootCmd agent off l
  | _ => s.writePhysBytes agent pa l

end Sys2Proof.Machine
end

