-- ==== Sys2Proof/Machine/Translate.lean ====
section
/-!
DEFINITION. Address translation and protection, and the fault buffers (R226, R227, R234 to R236).
Every translation walks the page table; no cached translation is modelled (DESIGN CHOICE, log entry 9).
-/
namespace Sys2Proof.Machine

/-- What an access needs of a page (R235). -/
structure Need where
  r : Bool
  w : Bool
  x : Bool
  deriving DecidableEq, Repr

/-- A load. -/
def needR : Need := ⟨true, false, false⟩
/-- A store. -/
def needW : Need := ⟨false, true, false⟩
/-- An atomic, and the other words of R235 that need both. -/
def needRW : Need := ⟨true, true, false⟩
/-- A fetch. -/
def needX : Need := ⟨false, false, true⟩

/-- The outcome of a translation. -/
inductive TRes where
  /-- The physical address, the UC attribute and the MOD attribute. -/
  | ok (pa : Nat) (uc mod : Bool)
  /-- The walk met an invalid entry: its level, and the region it governs (R227). -/
  | fault (level base size : Nat)
  /-- A protection violation. -/
  | denied
  deriving DecidableEq, Repr

/-- log2 of the region an entry of a level governs. -/
def levelShift (level : Nat) : Nat :=
  match level with
  | 0 => 16
  | 1 => 21
  | 2 => 30
  | _ => 39

/-- Index bits of a level (R234). -/
def levelBits (level : Nat) : Nat :=
  match level with
  | 0 => 5
  | 3 => 17
  | _ => 9

/-- A page overlaps the window of a core outside the partition (R15, R234). -/
def foreignWindow (quads : List Nat) (pa size : Nat) : Bool :=
  if pa + size ≤ windowBase ∨ windowBase + 192 * 0x4000000 ≤ pa then false
  else
    (List.range 192).any (fun c => decide (pa < windowBase + (c + 1) * 0x4000000) &&
      decide (windowBase + c * 0x4000000 < pa + size) && !quads.contains (c / 4))

/-- A leaf may map its page (R234, R195). -/
def leafValid (quads : List Nat) (level addr : Nat) (mod : Bool) : Bool :=
  decide (level ≠ 3) && decide (addr % 2 ^ levelShift level = 0) &&
    (!mod || decide (addr + 2 ^ levelShift level ≤ 0x8000000000)) &&
    !foreignWindow quads addr (2 ^ levelShift level)

/-- The walk from a table down the listed levels (R234, Table 26.1). An entry whose read gets an error response
reads 0, so that the walk ends there in a translation fault; one in the SRAM range is read as the device's own access
to steward 0's (DESIGN CHOICE, log entry 113). -/
def walkFrom (s : State) (quads : List Nat) (va : Nat) (need : Need) : List Nat → Nat → TRes
  | [], _ => .fault 0 0 0
  | level :: below, table =>
    let sh := levelShift level
    let bad : TRes := .fault level (va / 2 ^ sh * 2 ^ sh) (2 ^ sh)
    let e := s.deviceNat (table + 8 * (va / 2 ^ sh % 2 ^ levelBits level)) 8
    let addr := e / 256 % 2 ^ 44 * 256
    let bit := fun n => decide (e / 2 ^ n % 2 = 1)
    if !bit 0 || bit 7 || decide (e / 2 ^ 52 ≠ 0) then bad
    else if bit 1 then
      if !leafValid quads level addr (bit 5) then bad
      else if (need.r && !bit 2) || (need.w && !bit 3) || (need.x && !bit 4) then .denied
      else .ok (addr + va % 2 ^ sh) (bit 6) (bit 5)
    else
      match below with
      | [] => bad
      | l :: _ =>
        if addr % (2 ^ levelBits l * 8) ≠ 0 then bad else walkFrom s quads va need below addr

/-- The error response that a walk meets at a table entry, where the rules log its address (R11 to R13, R101). -/
def walkError (s : State) (va : Nat) : List Nat → Nat → Option (BitVec 10 × Nat)
  | [], _ => none
  | level :: below, table =>
    let a := table + 8 * (va / 2 ^ levelShift level % 2 ^ levelBits level)
    let e := s.deviceNat a 8
    match s.responseError 255 a 8 with
    | some (cause, logged) => if logged then some (cause, a) else none
    | none => if e % 4 = 1 then walkError s va below (e / 256 % 2 ^ 44 * 256) else none

/-- The log takes the error response that the walk of a faulting address met. -/
def State.logWalk (s : State) (core part va : Nat) : State :=
  match (s.parts.get? part).bind (fun p => walkError s va [3, 2, 1, 0] p.root) with
  | some (cause, a) => s.logError cause (logCore core) part (accessInfo 8 false false) a
  | none => s

/-- An address that translates, where it lies in the region of a trace, stands in that trace's store, and is no modifiable
memory (R198). -/
def State.inStore (s : State) (r : TRes) : TRes :=
  match r with
  | .ok pa uc mod => .ok (s.storeAt pa) uc (mod && decide (s.storeAt pa = pa))
  | r => r

/-- The translation of a virtual address of a partition (DESIGN CHOICE, log entry 52). -/
def State.translate (s : State) (part : Nat) (va : Nat) (need : Need) : TRes :=
  match s.parts.get? part with
  | some p => s.inStore (walkFrom s p.quads va need [3, 2, 1, 0] p.root)
  | none => .fault 3 (va / 2 ^ 39 * 2 ^ 39) (2 ^ 39)

/-- The fault buffer entry of a core whose region of a partition holds a faulting address, if one is in use (R227). -/
def State.findFault (s : State) (core part va : Nat) : Option Nat :=
  (s.faults.keysWhere (fun k f => decide (k / 256 = core) && decide (f.part = part) && decide (f.base ≤ va) &&
    decide (va < f.base + f.size))).head?

/-- The lowest free fault buffer entry of a core. -/
def State.freeFault (s : State) (core : Nat) : Option Nat :=
  ((List.range 256).find? (fun e => s.faults.get? (core * 256 + e) = none)).map (core * 256 + ·)

/-- An access takes or joins an entry of its core's fault buffer; a new entry is logged with FAULT_ENTRY
(R227, R236), behind the error response its walk met, if it met one (R11 to R13). The agent is 0 for a thread, 1 for the shuttle, 2 for the matrix engine. With the buffer full there is
no entry. -/
def State.takeFault (s : State) (core part level base size va info agent : Nat) : State × Option Nat :=
  match s.findFault core part va with
  | some k => (s, some k)
  | none =>
    match s.freeFault core with
    | some k =>
      ((({ s with faults := s.faults.set k ⟨part, base, size⟩ }).logWalk core part va).logError 0x107 (logCore core) part
        (k % 256 + info % 32 * 2 ^ 8 + agent * 2 ^ 13 + level % 4 * 2 ^ 16) va, some k)
    | none => (s, none)

/-- The mark under which an access of an engine or a shuttle waits for an entry to free. -/
def faultMark (seq : Nat) : Nat := 2 ^ 40 + seq

/-- What an access of an engine or a shuttle waits on: the entry it takes or joins, or, while the buffer is full, a mark
of its place in fault order (R227). -/
def State.awaitFault (s : State) (core part level base size va info agent : Nat) : State × Nat :=
  match s.takeFault core part level base size va info agent with
  | (s, some k) => (s, k)
  | (s, none) =>
    ({ s with faultQ := s.faultQ ++ [⟨s.seq, core, part, level, base, size, va, info, agent⟩], seq := s.seq + 1 },
      faultMark s.seq)

/-- A thread parks for a translation fault, at its word (R226). -/
def State.parkFault (s : State) (id : Nat) (part level base size va info : Nat) : State :=
  let r := s.takeFault (s.ctx id).core part level base size va info 0
  r.1.parkThread id (.xfault r.2 va info) 0

end Sys2Proof.Machine
end

