-- ==== Sys2Proof/Machine/Access.lean ====
section
/-!
DEFINITION. A thread's access to memory: the path of R128, the wait rules of Table 3.1, staging (R69, R238), traces
(R195 to R201), and the performance of stores and reductions.
-/
namespace Sys2Proof.Machine

/-- The outcome of an access's checks. -/
inductive ARes where
  | ok (pa : Nat) (uc mod : Bool)
  | trap (t : Trap)
  /-- A replayable translation fault (R226). -/
  | fault (level base size : Nat)
  deriving DecidableEq, Repr

/-- The regions an instruction may address (R130). -/
inductive Reach where
  /-- Loads and stores. -/
  | plain
  /-- Tagged words: a scratchpad of the partition. -/
  | tagged
  /-- Atomics and their like: HBM, peer HBM within a gang, a scratchpad. -/
  | atomic
  deriving DecidableEq, Repr

/-- The regions of R130 for a user thread. -/
def reaches (k : Reach) (gang : Bool) (r : Region) : Bool :=
  match k, r with
  | .plain, .mgmt _ => false
  | .plain, .sram _ => false
  | .plain, _ => true
  | .tagged, .scratch _ _ => true
  | .tagged, _ => false
  | .atomic, .hbm => true
  | .atomic, .peer _ _ => gang
  | .atomic, .scratch _ _ => true
  | .atomic, .store _ _ => true
  | .atomic, _ => false

/-- The same on a steward, whose addresses are physical (R101): the management space counts as memory; atomics and their
like reach any HBM, any scratchpad and its SRAM (DESIGN CHOICE, log entry 106). -/
def stewardReaches (k : Reach) (r : Region) : Bool :=
  match k, r with
  | .plain, _ => true
  | .tagged, _ => false
  | .atomic, .hbm => true
  | .atomic, .peer _ _ => true
  | .atomic, .scratch _ _ => true
  | .atomic, .sram _ => true
  | .atomic, _ => false

/-- Step 5 of R128 passes: the region is one of the instruction's row, and the address is one that Table 1.5 and R12 give
(DEDUCED, log entry 123). -/
def State.stepFive (s : State) (agent pa size : Nat) (row : Bool) : Bool :=
  row && !(s.accessError agent pa size).any (fun e => e.1 == 0x101)

/-- Steps 2 to 5 of R128. align is the alignment step 3 checks; w says that the access needs W. -/
def State.access (s : State) (c : Ctx) (ea : DWord) (size align : Nat) (need : Need) (w : Bool) (k : Reach) : ARes :=
  let info : Word := BitVec.ofNat 32 (accessInfo size w false)
  let bad : ARes := .trap ⟨0x101, ea, info⟩
  if isSteward c.core then
    if 2 ^ 52 ≤ ea.toNat then bad
    else if ea.toNat % align ≠ 0 then .trap ⟨0x103, ea, info⟩
    else if !s.stepFive c.core ea.toNat size (stewardReaches k (regionOf ea.toNat)) then bad
    else .ok (s.storeAt ea.toNat) false false
  else if 2 ^ 56 ≤ ea.toNat then bad
  else if ea.toNat % align ≠ 0 then .trap ⟨0x103, ea, info⟩
  else
    match s.translate (s.partOf c) ea.toNat need with
    | .fault l b z => .fault l b z
    | .denied => bad
    | .ok pa uc mod =>
      if s.stepFive c.core pa size (reaches k (s.launchFor c).gang.isSome (regionOf pa)) then .ok pa uc mod else bad

/-- Steps 2 to 5 for a word of class X on a steward too: virtual addresses of the partition SPART names (R176). -/
def State.accessVirtual (s : State) (c : Ctx) (ea : DWord) (size align : Nat) (need : Need) (w : Bool) (k : Reach) :
    ARes :=
  let info : Word := BitVec.ofNat 32 (accessInfo size w false)
  let bad : ARes := .trap ⟨0x101, ea, info⟩
  if 2 ^ 56 ≤ ea.toNat then bad
  else if ea.toNat % align ≠ 0 then .trap ⟨0x103, ea, info⟩
  else
    match s.translate (s.partOf c) ea.toNat need with
    | .fault l b z => .fault l b z
    | .denied => bad
    | .ok pa uc mod =>
      if s.stepFive c.core pa size (reaches k (isSteward c.core || (s.launchFor c).gang.isSome) (regionOf pa)) then
        .ok pa uc mod
      else bad

/-- What the error log takes of an access that fails at step 4 or 5 of R128: the cause and the address. A leaf that denies
it is logged with the virtual address; one that reaches what R11 to R13 and R101 log, with the physical address it lands at
(R235) (DEDUCED, log entry 124). virt says that a steward's address is virtual too (R176). -/
def State.loggedAt (s : State) (c : Ctx) (ea : DWord) (size : Nat) (need : Need) (virt : Bool) : Option (BitVec 10 × Nat) :=
  let found := fun pa => ((s.accessError c.core pa size).filter (·.2)).map (fun e => (e.1, pa))
  if isSteward c.core && !virt then (if ea.toNat < 2 ^ 52 then found ea.toNat else none)
  else if 2 ^ 56 ≤ ea.toNat then none
  else match s.translate (s.partOf c) ea.toNat need with
    | .denied => some (0x101, ea.toNat)
    | .ok pa _ _ => found pa
    | .fault _ _ _ => none

/-- An access that fails at step 4 or 5 of R128 is logged, where the rules log its address (R235). -/
def State.logDenied (s : State) (c : Ctx) (ea : DWord) (size : Nat) (need : Need) (virt : Bool) (info : Nat) : State :=
  match s.loggedAt c ea size need virt with
  | some (cause, a) => s.logError cause (logCore c.core) (s.partOf c) info a
  | none => s

/-- The linear block index (R112). -/
def State.linear (s : State) (c : Ctx) : Nat := (s.block c.block).index

/-- The progress classes a context is under: thread, group, block; 0 C, 1 P, 2 W (R35). -/
def State.classes (s : State) (c : Ctx) : Nat × Nat × Nat :=
  let b := s.block c.block
  (b.kernel.tclass, b.kernel.gclass, b.bclass)

/-- Table 3.1 and the predecessor check of R37: the trap of a blocking wait at a scope, with V[b+1] when it is at scope
code 7. Progress classes do not apply on a steward. A wait of a gang's launch at PANEL or DEV scope passes in every class, since
it may be on another member (R213; DESIGN CHOICE, log entry 130). -/
def State.waitTrap (s : State) (c : Ctx) (pc : DWord) (scope : Nat) (pred : Nat) : Option Trap :=
  let (t, g, b) := s.classes c
  let gang := (s.launchFor c).gang.isSome
  let info : Word := BitVec.ofNat 32 scope
  let ok :=
    if scope = 0 then decide (t = 0)
    else if scope ≤ 3 then decide (t = 0) && decide (g = 0)
    else if scope = 6 then gang
    else if gang && decide (scope ≠ 7) then true
    else if b = 2 then false
    else decide (b = 0) || (decide (b = 1) && decide (scope = 7))
  if isSteward c.core then none
  else if !ok then some ⟨0x200, pc, info⟩
  else if scope = 7 ∧ s.linear c ≤ pred then some ⟨0x202, pc, info⟩
  else none

/-- The automatic scope of a full/empty wait: the smallest that holds the waiter and the scratchpad's core (R37). -/
def autoScope (core owner : Nat) : Nat :=
  if core = owner then 2 else if core / 4 = owner / 4 then 3 else if core / 48 = owner / 48 then 4 else 5

/-- The block whose scratchpad holds an address: one that is resident (R240, R242). -/
def State.scratchOwner (s : State) (core off : Nat) : Option Nat :=
  (s.blocks.keysWhere (fun _ b => b.failed.isNone && b.saved.isNone && decide (b.scratchCore = core) &&
    decide (b.scratchOff ≤ off) && decide (off < b.scratchOff + b.kernel.scratch) &&
    !(s.parts.getD (s.launches.getD b.launch {}).part {}).swapped)).head?

/-- The wait check of LDF, LDFF and STE: a scratchpad of another block is illegal in block class P or W, one of another
launch except between members of a gang, where it is legal in every class (R37, R213). -/
def State.tagWaitTrap (s : State) (c : Ctx) (pc : DWord) (core off : Nat) : Option Trap :=
  let sc := autoScope c.core core
  let me := s.block c.block
  let bad : Option Trap := some ⟨0x200, pc, BitVec.ofNat 32 sc⟩
  if isSteward c.core then none
  else
    match s.scratchOwner core off with
    | some k =>
      let l := (s.block k).launch
      let gang := fun l => (s.launches.getD l {}).gang
      if l ≠ me.launch then if (gang l).isSome ∧ gang l = gang me.launch then none else bad
      else if k ≠ c.block ∧ me.bclass ≠ 0 then bad
      else s.waitTrap c pc sc 0
    | none => s.waitTrap c pc sc 0

/-- A block runs as `.det` (R69). -/
def State.isDet (s : State) (c : Ctx) : Bool := !isSteward c.core && (s.block c.block).det

/-- A block runs a restartable task (R238). -/
def State.isRestart (s : State) (c : Ctx) : Bool := !isSteward c.core && (s.block c.block).restart

/-- The record of the trace that a traced task runs for: the trace's key and the record's number. -/
def State.recordOf (s : State) (c : Ctx) : Option (Nat × Nat) :=
  if isSteward c.core then none else (s.tasks.getD (s.block c.block).task {}).record

/-- The thread belongs to a traced task (R196). -/
def State.isTraced (s : State) (c : Ctx) : Bool := (s.recordOf c).isSome

/-- A region whose stores a block stages: HBM and peer HBM (R69, R238). -/
def stagedRegion (r : Region) : Bool :=
  match r with
  | .hbm => true
  | .peer _ _ => true
  | .store _ _ => true
  | _ => false

/-- Bytes of the trace store a record takes, by the figures of R198; its reverse-index entries take theirs when it
closes (DEDUCED, log entry 58). -/
def recordSize (t : TraceTask) : Nat :=
  192 + 8 * t.children.length + (if t.closed then 24 else 8) * t.reads.length + 72 * t.writes.length

/-- Bytes of the trace store in use. -/
def Trace.used (t : Trace) : Nat := t.recs.foldl (fun n r => n + recordSize r.2) 0

/-- The granules an access touches. -/
def granules (pa n : Nat) : List Nat := (List.range ((pa % 64 + n + 63) / 64)).map (pa / 64 + ·)

/-- TRACE_FULL (R199): at the address or PC given, with the region size in MiB (DEDUCED, log entry 58). -/
def traceFull (t : Trace) (addr : DWord) : Trap := ⟨0x380, addr, BitVec.ofNat 32 (t.size / 2 ^ 20)⟩

/-- Granules an access adds to the read set of a task record. -/
def TraceTask.newReads (t : TraceTask) (pa n : Nat) : List Nat := (granules pa n).filter (fun g => !t.reads.contains g)

/-- Granules an access adds to the write set of a task record. -/
def TraceTask.newWrites (t : TraceTask) (pa n : Nat) : List Nat :=
  (granules pa n).filter (fun g => !(t.writes.map (·.1)).contains g)

/-- The undo copy with which a granule enters a write set: that of the old write set, where it held the granule; else
none until the write is performed (R197, R201). -/
def TraceTask.undoCopy (t : TraceTask) (g : Nat) : List Byte := (t.oldWrites.find? (fun p => p.1 = g)).elim [] (·.2)

/-- A task record of a trace. -/
def State.record (s : State) (k r : Nat) : TraceTask := (s.traces.getD k {}).recs.getD r {}

/-- The state with f applied to a task record. -/
def State.updRecord (s : State) (k r : Nat) (f : TraceTask → TraceTask) : State :=
  s.updTrace k (fun t => { t with recs := t.recs.adjust r f })

/-- A read enters a task record (R197). -/
def State.addRead (s : State) (k r pa n : Nat) : State :=
  s.updRecord k r (fun x => { x with reads := x.reads ++ x.newReads pa n })

/-- A write enters a task record (R197, R201). -/
def State.addWrite (s : State) (k r pa n : Nat) : State :=
  s.updRecord k r (fun x => { x with writes := x.writes ++ (x.newWrites pa n).map (fun g => (g, x.undoCopy g)) })

/-- Lexicographic order of keys: a parent precedes its children, siblings follow spawn order (R34). -/
def keyLess : List Nat → List Nat → Bool
  | [], [] => false
  | [], _ :: _ => true
  | _ :: _, [] => false
  | a :: s, b :: t => decide (a < b) || decide (a = b) && keyLess s t

/-- Marks stale the records of a live trace that read a granule and pass a test; each change counts (R190, R200). -/
def Trace.mark (t : Trace) (g : Nat) (q : TraceTask → Bool) : Trace :=
  if t.dead then t
  else
    let hits := (t.recs.filter (fun r => r.2.reads.contains g && !r.2.stale && q r.2)).length
    { t with
      recs := t.recs.map (fun r =>
        if r.2.reads.contains g && !r.2.stale && q r.2 then (r.1, { r.2 with stale := true }) else r)
      marks := if 0xFFFFFFFF < t.marks.toNat + hits then 0xFFFFFFFF else t.marks + BitVec.ofNat 32 hits }

/-- A PROP is running on a trace. -/
def Trace.propRunning (t : Trace) : Bool := !t.props.isEmpty

/-- The undo copies of granules whose first write is about to be performed (R197). -/
def State.fillUndo (s : State) (k r pa n : Nat) : State :=
  s.updRecord k r (fun x => { x with writes := x.writes.map (fun w =>
    if (granules pa n).contains w.1 && w.2.isEmpty then (w.1, s.mem.readBytes (w.1 * 64) 64) else w) })

/-- A write of a traced task is about to be performed: undo copies are taken, and during propagation it is compared with
what it replaces: readers of a changed granule with a higher key become stale (R197, R201). -/
def State.compareWrite (s : State) (record : Option (Nat × Nat)) (pa : Nat) (l : List Byte) : State :=
  match record with
  | none => s
  | some (k, r) =>
    let s := s.fillUndo k r pa l.length
    let t := s.traces.getD k {}
    let key := (t.recs.getD r {}).key
    if !t.propRunning then s
    else
      let changed := (granules pa l.length).filter (fun g => (List.range l.length).any (fun i =>
        decide ((pa + i) / 64 = g) && decide (s.mem.read (pa + i) ≠ l.getD i 0)))
      s.updTrace k (fun t => changed.foldl (fun t g => t.mark g (fun x => keyLess key x.key)) t)

/-- The value of a reduction (R139). -/
def reduceValue (op old v : Nat) : Nat :=
  let a : Word := BitVec.ofNat 32 old
  let b : Word := BitVec.ofNat 32 v
  match op with
  | 0 => (a + b).toNat
  | 1 => (addF32 a b).toNat
  | 2 => (if a.toInt ≤ b.toInt then a else b).toNat
  | 3 => (if a.toInt ≤ b.toInt then b else a).toNat
  | 4 => (a &&& b).toNat
  | 5 => (a ||| b).toNat
  | 6 => (a ^^^ b).toNat
  | 7 => (fAdd fp64 rne (fp64.unpack old) (fp32.unpack v)).bits
  | 8 => Nat.min old v
  | 9 => Nat.max old v
  | _ => (fAdd fp64 rne (fp64.unpack old) (fp64.unpack v)).bits

/-- The size of a reduction's location. Operation 10 stands for a staged MDRAIN.ADD of FP64. -/
def reduceSize (op : Nat) : Nat := if op = 7 ∨ 10 ≤ op then 8 else 4

/-- The bytes of the location that a staged record changes. -/
def Staged.size (r : Staged) : Nat := if r.kind = 0 then r.data.length else reduceSize (r.kind - 1)

/-- Bytes from a multiple of 8 on, after a staged record: a store puts its bytes over them, a reduction, whose location is
aligned, is applied (R69, R238). -/
def applyStaged (lo : Nat) (l : List Byte) (r : Staged) : List Byte :=
  let new := if r.kind = 0 then r.data
    else toBytes r.size (reduceValue (r.kind - 1) (ofBytes ((l.drop (r.pa - lo)).take r.size)) (ofBytes r.data))
  (List.range l.length).map (fun i =>
    if r.pa ≤ lo + i ∧ lo + i < r.pa + r.size then new.getD (lo + i - r.pa) 0 else l.getD i 0)

/-- n bytes of memory from pa on as a reader finds them that has a staged stream in view; base gives what each byte holds
without it. -/
def overlayStage (stage : List Staged) (base : Nat → Byte) (pa n : Nat) : List Byte :=
  let lo := pa / 8 * 8
  let under := (List.range ((pa + n + 7) / 8 * 8 - lo)).map (fun i => base (lo + i))
  ((stage.foldl (applyStaged lo) under).drop (pa - lo)).take n

/-- A stream holds a byte. -/
def stagesByte (l : List Staged) (pa : Nat) : Bool := l.any (fun r => decide (r.pa ≤ pa ∧ pa < r.pa + r.size))

/-- The two are runs of one sampled block (R254). -/
def Block.twin (b x : Block) : Bool := b.sample.isSome && x.sample.isSome && decide (b.index = x.index)

/-- Another block of the same launch has staged the byte and not committed, so a load of it is undefined (R69, R70). Of the
streams kept for the launch's own blocks, a run of a sampled block leaves out those of that block. -/
def State.stagedElsewhere (s : State) (c : Ctx) (pa : Nat) : Bool :=
  let b := s.block c.block
  let q := s.launches.getD b.launch {}
  let other := fun i => !(b.sample.isSome && decide (i = b.index))
  s.blocks.any (fun x => x.2.det && decide (x.1 ≠ c.block) && decide (x.2.launch = b.launch) && !b.twin x.2 &&
    stagesByte x.2.stage pa) ||
  q.streams.any (fun x => other x.1 && stagesByte x.2 pa) ||
  q.first.any (fun x => other x.1 && stagesByte x.2.2 pa) ||
  q.second.any (fun x => other x.1 && stagesByte x.2.2 pa)

/-- A user thread of a launch that has `.det` blocks: itself in one, or a task beside them (R69). -/
def State.besideDet (s : State) (c : Ctx) : Bool :=
  !isSteward c.core && ((s.block c.block).det || (s.launchFor c).kernel.det)

/-- The stores of a thread that are in flight, oldest first. -/
def State.ownStores (s : State) (id : Nat) : Store Op :=
  s.ops.filter (fun p => decide (p.2.ctx = id) && (match p.2.kind with
    | .store _ _ _ => true
    | .reduce _ _ _ => true
    | _ => false))

/-- The operation's results lie at a physical address. -/
def MatOp.owns (m : MatOp) (pa : Nat) : Bool := m.outs.any (fun r => decide (r.1 ≤ pa) && decide (pa < r.1 + r.2))

/-- The operation's results or its operands lie there. -/
def MatOp.touches (m : MatOp) (pa : Nat) : Bool := m.owns pa || m.ins.any (fun r => decide (r.1 ≤ pa) && decide (pa < r.1 + r.2))

/-- The byte belongs to the results of a matrix operation in flight, or of one that a thread signed and has not observed
by MWAIT, so what the thread reads there is undefined (R64). -/
def State.matrixOwns (s : State) (id pa : Nat) : Bool :=
  s.ops.any (fun p => match p.2.kind with
    | .matrix m => m.owns pa
    | _ => false) ||
  (s.block (s.ctx id).block).unseen.any (fun u => u.waiters.contains id && u.mat.owns pa)

/-- The byte belongs to the results or the operands of such an operation, so what the thread writes there is undefined
(R64). -/
def State.matrixTouches (s : State) (id pa : Nat) : Bool :=
  s.ops.any (fun p => match p.2.kind with
    | .matrix m => m.touches pa
    | _ => false) ||
  (s.block (s.ctx id).block).unseen.any (fun u => u.waiters.contains id && u.mat.touches pa)

/-- n bytes that a thread finds at a physical address: what its own block has staged is in view, what another has staged
is undefined (R57, R64, R69, R238). -/
def State.threadRead (s : State) (id pa n : Nat) : List Byte :=
  let c := s.ctx id
  let raw := fun a => if s.matrixOwns id a then Config.freeByte (s.free + a) else s.physByte c.core a
  if (s.besideDet c || s.isRestart c) && stagedRegion (regionOf pa) then
    overlayStage (s.block c.block).stage
      (fun a => if s.besideDet c && s.stagedElsewhere c a then Config.freeByte (s.free + a) else raw a) pa n
  else (List.range n).map (fun i => raw (pa + i))

/-- The byte the shuttle reads for a thread: what its block has staged is in view, another block's stream is not looked
for (R65, R69, R238). -/
def State.shuttleByte (s : State) (id pa : Nat) : Byte :=
  let c := s.ctx id
  let raw := fun a => if s.matrixOwns id a then Config.freeByte (s.free + a) else s.physByte c.core a
  if (s.isDet c || s.isRestart c) && stagedRegion (regionOf pa) then
    (overlayStage (s.block c.block).stage raw pa 1).headD 0
  else raw pa

/-- The number of n bytes the shuttle reads for a thread. -/
def State.shuttleNat (s : State) (id pa n : Nat) : Nat := ofBytes ((List.range n).map (fun i => s.shuttleByte id (pa + i)))

/-- The number of n bytes a thread finds. -/
def State.threadNat (s : State) (id pa n : Nat) : Nat := ofBytes (s.threadRead id pa n)

/-- What an atomic of a thread finds at its home: undefined over the results of a matrix operation it has not observed
(R64). -/
def State.atomicNat (s : State) (id pa n : Nat) : Nat :=
  if (List.range n).any (fun i => s.matrixOwns id (pa + i)) then
    ofBytes ((List.range n).map (fun i => Config.freeByte (s.free + pa + i)))
  else s.physNat (s.ctx id).core pa n

/-- A staged record of a block (R253). -/
def State.stageRecord (s : State) (c : Ctx) (pa kind : Nat) (l : List Byte) : State :=
  let g := s.groupOf c
  { s.updBlock c.block (fun b => { b with stage := b.stage ++ [⟨g.index, c.lane, s.seq, pa, kind, l⟩] }) with
    seq := s.seq + 1 }

/-- Bytes a staged record takes: address, kind, size and data (R254). -/
def stagedSize (l : List Staged) : Nat := l.foldl (fun n r => n + 10 + r.data.length) 0

/-- Bytes of a launch's staged output that have not committed, those of sampled runs that await their comparison among
them. -/
def State.stageUsed (s : State) (l : Nat) : Nat :=
  let q := s.launches.getD l {}
  let kept := (q.streams.map (·.2) ++ q.first.map (·.2.2) ++ q.second.map (·.2.2)).foldl (fun n x => n + stagedSize x) 0
  s.blocks.foldl (fun n b => if b.2.det && decide (b.2.launch = l) then n + stagedSize b.2.stage else n) kept

/-- Bytes of memory become undefined. -/
def State.undefine (s : State) (pa n : Nat) : State :=
  let l := (List.range n).map (fun i => Config.freeByte (s.free + i))
  { s with mem := s.mem.overwrite pa l, free := s.free + n }

/-- Bytes from a virtual address of a partition on, in a region that the device uses as it likes, become undefined. -/
def State.undefineVirtual (s : State) (part va n : Nat) : State :=
  (List.range n).foldl (fun s i =>
    match s.translate part (va + i) needW with
    | .ok pa _ _ => if pa < 0x8000000000 then s.undefine pa 1 else s
    | _ => s) s

/-- A word of a barrier object is undefined until the next BINIT (R138). -/
def State.damage (s : State) (h n : Nat) : State :=
  { s with bars := s.bars.adjust h (fun b => { b with damaged := n :: b.damaged }) }

/-- A lock word with a holder and waiters (R138). -/
def State.lockGuards (s : State) (w : Nat) : Bool :=
  (s.locks.get? w).isSome && !(s.waiters (fun p => match p with | .qlock a _ => decide (a = w) | _ => false)).isEmpty

/-- A ring header in use: with claims outstanding, or threads parked at it (R191) (DEDUCED, log entry 107). -/
def State.ringGuards (s : State) (h : Nat) : Bool :=
  (s.rings.get? h).isSome || !(s.waiters (fun p => match p with | .ring a _ _ _ _ _ => decide (a = h) | _ => false)).isEmpty

/-- A plain store, atomic or RED over a word of a queue lock or a barrier, or over a ring header in use, leaves that word,
or the header, undefined and changes neither queue nor barrier (R138, R191); old is the state before it. -/
def State.spoilWord (old s : State) (w : Nat) : State :=
  let h := w / 16 * 16
  if old.lockGuards w then s.undefine w 4
  else if (old.bars.getD h {}).armed then
    (s.undefine w 4).damage h ((w - h) / 4)
  else if old.ringGuards h then s.undefine h 16
  else s

/-- What n bytes written from an address on do to the objects there. -/
def State.spoil (old s : State) (pa n : Nat) : State :=
  ((List.range ((pa % 4 + n + 3) / 4)).map (fun i => pa / 4 * 4 + 4 * i)).foldl old.spoilWord s

/-- Bytes stored at a physical address by an agent: the objects there are spoiled, and a slot that waits on a word reads
again (R138, R191, R248). -/
def State.put (s : State) (agent pa : Nat) (l : List Byte) : State :=
  (s.spoil (s.writePhys agent pa l) (memKey agent pa) l.length).wakeSlots

/-- What a thread leaves where it has written over the results or the operands of a matrix operation that it may not touch
yet (R64). -/
def State.blur (s : State) (c : Ctx) (pa n : Nat) : State :=
  match s.memberAt (s.groupOf c) c.lane with
  | some id => if (List.range n).any (fun i => s.matrixTouches id (pa + i)) then s.undefine pa n else s
  | none => s

/-- Bytes stored for a thread at a physical address: modifiable memory is compared first (R201). -/
def State.putFor (s : State) (c : Ctx) (mod : Bool) (pa : Nat) (l : List Byte) : State :=
  (if mod then s.compareWrite (s.recordOf c) pa l else s).put c.core pa l

/-- A thread's store performed at its destination (R64, R201, R248) (DEDUCED, log entry 94). -/
def State.performStore (s : State) (c : Ctx) (mod : Bool) (pa : Nat) (l : List Byte) : State :=
  (s.putFor c mod pa l).blur c pa l.length

/-- A reduction applied at its destination port, once (R66, R67); over the results of a matrix operation that its thread
has not observed it leaves what is undefined (R64). -/
def State.performReduce (s : State) (c : Ctx) (pa op : Nat) (v : Word) : State :=
  let n := reduceSize op
  (s.put c.core pa (toBytes n (reduceValue op (s.physNat c.core pa n) v.toNat))).blur c pa n

/-- An operation's effect on memory when it is performed, if it is a store or a reduction. -/
def State.performOp (s : State) (o : Op) : State :=
  match o.kind with
  | .store pa l _ => s.performStore (s.ctx o.ctx) o.mod pa l
  | .reduce pa op v => s.performReduce (s.ctx o.ctx) pa op v
  | _ => s

/-- The registers that a load's data fills (R132). -/
def loadWords (size : Nat) (signed : Bool) (x : Nat) : List Word :=
  if size < 4 then
    [if signed && decide (2 ^ (8 * size - 1) ≤ x) then BitVec.ofNat 32 (x + 2 ^ 32 - 2 ^ (8 * size)) else BitVec.ofNat 32 x]
  else (List.range (size / 4)).map (fun i => BitVec.ofNat 32 (x / 2 ^ (32 * i)))

/-- Result registers of an operation written, but for rows that have been released since (R155). -/
def State.putRegs (s : State) (id : Nat) (dst : List Nat) (vals : List Word) : State :=
  s.updCtx id (fun c => ((dst.zip vals).filter (fun p => decide (p.1 < 256))).foldl (fun c p => c.setV p.1 p.2) c)

/-- Threads parked for late run-ahead data resume at their reader in a run of their own (R134). -/
def State.wakeLate (s : State) (k : Nat) : State :=
  s.mapCtxs (s.waiters (fun p => p == .late k)) Ctx.reissue

/-- The data of a load or an atomic returns (R132, R137). -/
def State.returnLoad (s : State) (k : Nat) (o : Op) : State :=
  match o.kind with
  | .load pa size signed =>
    ((s.putRegs o.ctx o.dst (loadWords size signed (s.threadNat o.ctx pa size))).dropOp k).wakeLate k
  | .value _ vals => ((s.putRegs o.ctx o.dst vals).dropOp k).wakeLate k
  | _ => s

/-- The error response that the data of a load in flight now gets, and whether its address is logged: a window that is no
longer there, a link that is down, an uncorrectable error (R14, R63, R128). -/
def State.loadError (s : State) (o : Op) : Option (BitVec 10 × Bool) :=
  match o.kind with
  | .load pa n _ => s.responseError o.core pa n
  | _ => none

/-- A load or an atomic of a thread. -/
def Op.isLoad (o : Op) : Bool :=
  match o.kind with
  | .load _ _ _ => true
  | .value _ _ => true
  | _ => false

/-- An error that reaches a thread after the word that made the access (R128, R178): one is held, a later one is logged
and marked in bit [30] of the one held. A thread that has ended holds none (DEDUCED, log entry 79). -/
def State.deferError (s : State) (id : Nat) (t : Trap) : State :=
  let c := s.ctx id
  if !c.live then s
  else if c.deferred = none then s.updCtx id (fun c => { c with deferred := some t })
  else
    let s := s.logError t.cause (if isSteward c.core then 255 else c.core) (s.partOf c) t.info.toNat t.addr.toNat
    s.updCtx id (fun c => { c with deferred := c.deferred.map (fun d => { d with info := d.info ||| 0x40000000 }) })

/-- The target of a store or a reduction, its address and its length. -/
def Op.target (o : Op) : Option (Nat × Nat) :=
  match o.kind with
  | .store pa l _ => some (pa, l.length)
  | .reduce pa op _ => some (pa, reduceSize op)
  | _ => none

/-- A store or reduction that got an error response is not performed: the error is deferred, and its address logged
where R11 to R13 log it (R128); without a response its bytes are undefined (R63). -/
def State.deferStore (s : State) (k : Nat) (o : Op) (cause : BitVec 10) : State :=
  let (pa, n) := o.target.getD (0, 0)
  let s := if cause = 0x101 ∨ (cause = 0x102 ∧ (s.accessError o.core pa n).any (·.2)) then
      s.logError cause (logCore o.core) (s.partOf (s.ctx o.ctx)) o.info.toNat pa
    else if cause = 0x105 then s.undefine pa n
    else s
  (s.dropOp k).deferError o.ctx ⟨cause, o.va, o.info ||| 0x80000000⟩

/-- The bytes a copy moves: virtual source and destination addresses, in ascending destination order (R177). -/
def CopyRec.cells (c : CopyRec) : List (Nat × Nat) :=
  (List.range c.rows).flatMap (fun r => (List.range c.rowBytes).map (fun b =>
    (c.src + r * c.sstride + b, c.dst + r * c.dstride + b)))

/-- A physical address in the window of a device (R12). -/
def inPeer (device pa : Nat) : Bool :=
  match regionOf pa with
  | .peer d _ => decide (d = device)
  | _ => false

/-- The devices of a collective group's rank list (Table 30.3). -/
def State.collDevices (s : State) (g : Nat) : List Nat :=
  let e := mgmtBase + 0x20000 + 64 * g
  (s.mem.readBytes (ofBytes (s.mem.readBytes (e + 8) 8)) (ofBytes (s.mem.readBytes e 2) % 512)).map BitVec.toNat

/-- An operation in flight has a request out to a device (R262). -/
def State.asksPeer (s : State) (device : Nat) (o : Op) : Bool :=
  let va := fun part a => match s.translate part a ⟨false, false, false⟩ with | .ok pa _ _ => inPeer device pa | _ => false
  match o.kind with
  | .load pa _ _ => inPeer device pa
  | .value pa _ => inPeer device pa
  | .store pa _ _ => inPeer device pa
  | .reduce pa _ _ => inPeer device pa
  | .copy c => c.cells.any (fun p => va c.part p.1 || va c.part p.2) || (decide (c.kind = 1) && va c.part c.caddr.toNat)
  | .matrix m => m.outs.any (fun r => inPeer device r.1)
  | .coll g _ _ _ => (s.collDevices g).contains device
  | _ => false

/-- A collective is in flight on the group (R263). -/
def State.collBusy (s : State) (g : Nat) : Bool :=
  s.ops.any (fun p => match p.2.kind with | .coll k _ _ _ => decide (k = g) | _ => false)

/-- The park address of Table 26.2. -/
def Park.address : Park → Nat
  | .tagged pa _ _ _ => pa
  | .waitv pa => pa
  | .qlock pa _ => pa
  | .bar pa => pa
  | .ring pa _ _ _ _ _ => pa
  | .xfault _ va _ => va
  | _ => 0

/-- A request to a device awaits its answer (R262): an operation in flight, a wait there, or the start of a gang. -/
def State.inFlightTo (s : State) (device : Nat) : Bool :=
  s.ops.any (fun p => s.asksPeer device p.2) ||
    s.ctxs.any (fun p => match p.2.parkKind with
      | some (.xfault _ _ _) => false
      | some k => inPeer device k.address
      | none => false) ||
    s.gangs.any (fun p => p.2.awaiting.contains device && !p.2.aborted)

/-- A write in the management space must wait: one that would move a pair of devices to another link, while a request of
the pair is in flight; one to a valid collective group, while a collective is in flight on it (R262, R263). -/
def State.mustWait (s : State) (pa : Nat) (l : List Byte) : Bool :=
  match regionOf pa with
  | .mgmt off =>
    let after : State := { s with mem := s.mem.writeBytes pa l }
    let covers := fun a n => decide (off < a + n) && decide (a < off + l.length)
    (List.range 256).any (fun d => covers (0x30000 + 8 * d) 8 &&
      (s.linkTo d).isSome && (after.linkTo d).isSome && decide (s.linkTo d ≠ after.linkTo d) &&
      s.inFlightTo d) ||
    (List.range 256).any (fun g => covers (0x20000 + 64 * g) 64 && s.collBusy g &&
      decide (128 ≤ (s.mem.read (mgmtBase + 0x20000 + 64 * g + 3)).toNat))
  | _ => false

/-- A store in flight that must wait. -/
def State.storeWaits (s : State) (o : Op) : Bool :=
  match o.kind with
  | .store pa l _ => s.mustWait pa l
  | _ => false

/-- The agent for which a source of held writes acts. -/
def sourceAgent (source : Nat) : Nat := if source < 256 then 255 else 192

/-- The held writes that need wait no more are made, in order; a write waits behind an earlier one of its source
(R257, R262, R263). -/
def State.releaseHeld (s : State) : State :=
  (s.held.foldl (fun (p : State × List Nat) h =>
    if p.2.contains h.source || p.1.mustWait h.pa h.data then
      ({ p.1 with held := p.1.held ++ [h] }, h.source :: p.2)
    else (p.1.put (sourceAgent h.source) h.pa h.data, p.2)) ({ s with held := [] }, [])).1

/-- A write by the host through a function, or by firmware: made at once, or after those of its source that wait
(R257, R262, R263) (DESIGN CHOICE, log entry 109). -/
def State.post (s : State) (source pa : Nat) (l : List Byte) : State :=
  let s := s.releaseHeld
  if s.held.any (fun h => decide (h.source = source)) || s.mustWait pa l then { s with held := s.held ++ [⟨source, pa, l⟩] }
  else s.put (sourceAgent source) pa l

/-- An operation that writes memory when it is performed. -/
def Op.isStore (o : Op) : Bool :=
  match o.kind with
  | .store _ _ _ => true
  | .reduce _ _ _ => true
  | _ => false

/-- A drain that adds to its destination. -/
def Op.isAdd (o : Op) : Bool :=
  match o.kind with
  | .matrix m => m.drain && decide (m.modes % 2 = 1)
  | _ => false

/-- A reduction waits for the MDRAIN.ADD operations that its core issued before it (R66). -/
def State.afterAdd (s : State) (k : Nat) (o : Op) : Bool :=
  (match o.kind with | .reduce _ _ _ => true | _ => false) &&
    s.ops.any (fun p => decide (p.1 < k) && decide (p.2.core = o.core) && p.2.isAdd)

/-- The bytes of a load in flight. -/
def Op.reads (o : Op) : Option (Nat × Nat) :=
  match o.kind with
  | .load pa n _ => some (pa, n)
  | _ => none

/-- The store or reduction writes one of the bytes. -/
def Op.writes (o : Op) (pa n : Nat) : Bool :=
  match o.kind with
  | .store a l _ => decide (a < pa + n ∧ pa < a + l.length)
  | .reduce a op _ => decide (a < pa + n ∧ pa < a + reduceSize op)
  | _ => false

/-- Something holds a store or reduction in flight back: a write that must wait, or a drain that goes before a reduction
(R66, R262, R263). -/
def State.storeStuck (s : State) (k : Nat) (o : Op) : Bool := s.storeWaits o || s.afterAdd k o

/-- It is held back, or one of its core's that goes before it is: none passes another. -/
def State.storeHeld (s : State) (k : Nat) (o : Op) : Bool :=
  s.storeStuck k o || s.ops.any (fun p => decide (p.1 < k) && decide (p.2.core = o.core) && p.2.isStore && s.storeStuck p.1 p.2)

/-- A store or reduction of the thread, still in flight, writes a byte that a later load of it reads (R57). -/
def State.behindOwn (s : State) (k : Nat) (o : Op) : Bool :=
  (s.ownStores o.ctx).any (fun q => decide (q.1 < k) && o.reads.any (fun b => q.2.writes b.1 b.2))

/-- The loads of a thread in flight before operation k whose data can return. -/
def State.ownLoads (s : State) (id k : Nat) : Store Op :=
  s.ops.filter (fun p => decide (p.2.ctx = id) && decide (p.1 < k) && p.2.isLoad && (s.loadError p.2).isNone &&
    !s.behindOwn p.1 p.2)

/-- Their data returns, oldest first. -/
def State.landLoads (s : State) (id k : Nat) : State := (s.ownLoads id k).foldl (fun s p => s.returnLoad p.1 p.2) s

/-- A reduction meets an uncorrectable error in what it reads (R128). -/
def State.reduceEcc (s : State) (o : Op) : Option (BitVec 10) :=
  match o.kind with
  | .reduce pa op _ => if s.hasEcc o.core pa (reduceSize op) then some 0x104 else none
  | _ => none

/-- The error response a store or reduction gets when it reaches its destination (R14, R63, R128). -/
def State.storeError (s : State) (o : Op) : Option (BitVec 10) :=
  (o.err.or (o.target.bind (fun t => ((s.accessError o.core t.1 t.2).map (·.1)).or (if s.cutPeer t.1 then some 0x105 else none)))).or
    (s.reduceEcc o)

/-- A store or reduction of a core reaches its destination: after the thread's earlier loads, performed once, or its
error comes back; a restartable task ends at an error that R238 names (R57, R67, R128) (DESIGN CHOICE, log entry 95). -/
def State.settleStore (s : State) (k : Nat) (o : Op) : State :=
  let s := s.landLoads o.ctx k
  match s.storeError o with
  | some cause =>
    if s.isRestart (s.ctx o.ctx) && (cause == 0x104 || cause == 0x105) then
      (s.dropOp k).updBlock (s.ctx o.ctx).block (fun b => { b with failing := some cause })
    else s.deferStore k o cause
  | none => (s.performOp o).dropOp k

/-- Stores and reductions reach their destinations one after another, up to the first that is held back. -/
def State.settleList (s : State) : List (Nat × Op) → State
  | [] => s
  | (k, o) :: t => if s.storeStuck k o then s else (s.settleStore k o).settleList t

/-- The stores and reductions of a core up to operation k reach their destinations in issue order: a thread's own order,
the order of a core's reductions, and what a release waits for (R57, R60, R66); none passes one that is held back. -/
def State.settleCore (s : State) (core k : Nat) : State :=
  s.settleList (s.ops.filter (fun p => decide (p.2.core = core) && decide (p.1 ≤ k) && p.2.isStore))

/-- The data of every load a thread has in flight before operation k returns, oldest first: the order in which a thread
observes its own accesses, and the order an acquire or a release needs. A store or reduction of the thread that a load
comes after, at one of its bytes, is performed first (R55, R57, R60) (DESIGN CHOICE, log entry 95). -/
def State.returnLoads (s : State) (id k : Nat) : State :=
  let loads := s.ops.filter (fun p => decide (p.2.ctx = id) && decide (p.1 < k) && p.2.isLoad)
  match ((s.ownStores id).filter (fun p => loads.any (fun q => decide (p.1 < q.1) &&
      q.2.reads.any (fun b => p.2.writes b.1 b.2)))).getLast? with
  | some (j, o) => (s.settleCore o.core j).landLoads id k
  | none => s.landLoads id k

/-- Returns the thread's loads, and performs its stores in flight to the given bytes: an access of the thread that acts
where it issues comes after them (R57). -/
def State.drainOwn (s : State) (id pa n : Nat) : State :=
  let s := s.returnLoads id s.nextOp
  match ((s.ownStores id).filter (fun p => p.2.writes pa n)).getLast? with
  | some (k, o) => s.settleCore o.core k
  | none => s

/-- A word that acts where it issues waits for this store or reduction of its thread: one that is held back, so that the
word cannot come after it, or any where a FENCE has made the word a release and rel says that it is one (R57, R60, R140). -/
def State.barred (s : State) (rel : Bool) (o : Op) : Bool :=
  o.isStore && (rel && (s.ctx o.ctx).fenced || s.ops.any (fun p => decide (p.2 = o) && s.storeHeld p.1 o))

/-- The oldest store or reduction of a thread in flight, as the step that a release, a fence or an engine waits for
(R60, R165). -/
def State.oldestStore (s : State) (id : Nat) : Option Instr :=
  match s.ownStores id with
  | (k, o) :: _ => completion k o
  | [] => none

/-- The oldest load or atomic of a thread whose data has not returned. -/
def State.oldestLoad (s : State) (id : Nat) : Option Instr :=
  match s.ops.find? (fun p => decide (p.2.ctx = id) && (match p.2.kind with
    | .load _ _ _ => true
    | .value _ _ => true
    | _ => false)) with
  | some (k, o) => completion k o
  | none => none

/-- The registers of a thread that its access through its own register window reaches, which its later direct accesses to
them await (R57, R58). -/
def State.ownWindow (s : State) (id pa size : Nat) : List Nat :=
  match regionOf pa with
  | .registers core off =>
    (List.range ((size + 3) / 4)).filterMap (fun i =>
      match s.windowReg core (off + 4 * i) with
      | some (j, k) => if j = id then some k else none
      | none => none)
  | _ => []

/-- The words of an operation a thread of an issue starts. -/
def State.threadOp (s : State) (is : Issue) (id : Nat) (dst : List Nat) (ea : DWord) (info : Nat) (mod : Bool)
    (kind : OpKind) : Op :=
  let c := s.ctx id
  { core := c.core, ctx := id, grp := is.key, block := c.block, launch := (s.block c.block).launch
    dst := dst, va := ea, info := BitVec.ofNat 32 info, pc := is.pc, mod := mod, kind := kind }

/-- The outcome of a thread's checks for an access of its own: the address, or the state with the thread trapped or
parked. -/
inductive Reached where
  | ok (s : State) (pa : Nat) (mod : Bool)
  | stop (s : State)

/-- Steps 2 to 5 of R128 for a thread at its word: a trap is taken, a denied address logged, a translation fault parks
the thread (R226, R235). virt says that a steward's address is virtual too (R176). -/
def State.reach (s : State) (is : Issue) (id : Nat) (ea : DWord) (size align : Nat) (need : Need) (w : Bool) (k : Reach)
    (virt : Bool) : Reached :=
  let c := s.ctx id
  match if virt then s.accessVirtual c ea size align need w k else s.access c ea size align need w k with
  | .ok pa _ mod => .ok s pa mod
  | .trap t =>
    let s := if t.cause = 0x101 then s.logDenied c ea size need virt t.info.toNat else s
    .stop (s.trapAt id is.pc t)
  | .fault l b z => .stop (s.parkFault id (s.partOf c) l b z ea.toNat (accessInfo size w false))

/-- An error of a thread's own access where it issues: a precise trap; for a thread of a restartable task an
UNCORRECTABLE_ECC or a REMOTE_TIMEOUT ends the task instead, without a trap (R128, R238). -/
def State.accessFails (s : State) (is : Issue) (id : Nat) (t : Trap) : State :=
  let c := s.ctx id
  if s.isRestart c && (t.cause == 0x104 || t.cause == 0x105) then
    (s.updBlock c.block (fun b => { b with failing := some t.cause })).updCtx id (fun c => { c with status := .stopped })
  else s.trapAt id is.pc t

/-- Step 7 of R128 for an access whose error response is precise: the trap, with the address logged where R11 to R13
log it; the bytes of an access without a response are undefined (R63). -/
def State.respond (s : State) (is : Issue) (id : Nat) (ea : DWord) (pa size : Nat) (w : Bool) : Option State :=
  let c := s.ctx id
  let info := accessInfo size w false
  (s.responseError c.core pa size).map (fun e =>
    let s := if e.2 then s.logError e.1 (logCore c.core) (s.partOf c) info pa else s
    let s := if e.1 = 0x105 then s.undefine pa size else s
    s.accessFails is id ⟨e.1, ea, BitVec.ofNat 32 info⟩)

/-- A deferred error that words of this kind take: copy errors at TWAIT, TWANY and EXIT, store errors at releases,
fences, EXIT and words of classes S1 and S2 (R128, R178). -/
def deferredAt (copy store : Bool) (c : Ctx) : Option Trap :=
  match c.deferred with
  | some t => if t.cause = 0x303 then (if copy then some t else none) else if store then some t else none
  | none => none

/-- Takes a deferred error at a word: TPC holds that word's PC (R128). -/
def State.takeDeferred (s : State) (is : Issue) (id : Nat) (t : Trap) : State :=
  (s.updCtx id (fun c => { c with deferred := none })).trapAt id is.pc t

/-- A word of a thread that takes a pending store error first. -/
def withDeferred (g : State → Issue → Nat → State × Bool) (s : State) (is : Issue) (id : Nat) : State × Bool :=
  match deferredAt false true (s.ctx id) with
  | some t => (s.takeDeferred is id t, false)
  | none => g s is id

/-- Row bytes or rows out of range (R177 check 1). -/
def CopyRec.tooBig (c : CopyRec) : Bool := decide (16777216 < c.rowBytes) || decide (65535 < c.rows)

/-- The record at a physical address (Table 17.3), as the shuttle reads it for a thread (R69). -/
def State.transfer (s : State) (id pa part : Nat) : CopyRec :=
  let w := s.shuttleNat id (pa + 40) 4
  { src := s.shuttleNat id pa 8, dst := s.shuttleNat id (pa + 8) 8, rowBytes := s.shuttleNat id (pa + 16) 4
    rows := s.shuttleNat id (pa + 20) 4, sstride := s.shuttleNat id (pa + 24) 4, dstride := s.shuttleNat id (pa + 28) 4
    kind := w / 16 % 4, tag := w / 64 % 64, caddr := BitVec.ofNat 64 (s.shuttleNat id (pa + 48) 8), part := part
    resolved := [] }

/-- A traced task's copy enters its record when the shuttle performs it, in the room that COPY or CHAINGO found for it
(Table 18.1): what the bytes moved read, and what it writes, the bytes it leaves undefined among it
(DESIGN CHOICE, log entry 118). -/
def State.recordCopy (s : State) (id part : Nat) (cells lost : List (Nat × Nat)) : State :=
  match s.recordOf (s.ctx id) with
  | none => s
  | some (k, r) =>
    let s := cells.foldl (fun s p =>
      match s.translate part p.1 needR with | .ok pa _ true => s.addRead k r pa 1 | _ => s) s
    (cells ++ lost).foldl (fun s p =>
      match s.translate part p.2 needW with | .ok pa _ true => s.addWrite k r pa 1 | _ => s) s

/-- The bytes that the records of a chain move for a thread, from an address on, as they stand in memory (R181); seen holds
the records passed, n bounds their number. -/
def State.chainCells (s : State) (id part : Nat) : Nat → List Nat → Nat → List (Nat × Nat)
  | 0, _, _ => []
  | n + 1, seen, va =>
    if va = 0 ∨ 2 ^ 56 ≤ va ∨ va % 64 ≠ 0 ∨ seen.contains va then []
    else
      match s.translate part va needR with
      | .ok pa _ _ =>
        let c := s.transfer id pa part
        if s.shuttleNat id (pa + 40) 4 % 2 = 0 ∨ c.tooBig then []
        else c.cells ++ s.chainCells id part n (va :: seen) (s.shuttleNat id (pa + 32) 8)
      | _ => []

/-- The whole chain at an address. -/
def State.chainAt (s : State) (id part va : Nat) : List (Nat × Nat) := s.chainCells id part (2 ^ 50) [] va

/-- The records as they will stand once every copy and chain in flight has been performed: the room these entries need is
kept for them (DESIGN CHOICE, log entry 118). -/
def State.withCopies (s : State) : State :=
  let s := s.ops.foldl (fun s p => match p.2.kind with
    | .copy c => s.recordCopy p.2.ctx c.part c.cells []
    | _ => s) s
  s.cores.foldl (fun s c => c.2.channels.foldl (fun s h =>
    if h.2.busy && s.isTraced (s.ctx h.2.ctx) then
      s.recordCopy h.2.ctx h.2.part (s.chainAt h.2.ctx h.2.part h.2.cur.toNat) []
    else s) s) s

/-- Bytes of a trace's store in use, or kept for copies in flight. -/
def State.usedIn (s : State) (k : Nat) : Nat := (s.withCopies.traces.getD k {}).used

/-- Adds a read of modifiable granules to a task record, where the region has room (R197, R199). -/
def State.recordRead (s : State) (k r : Nat) (pa n : Nat) (at' : DWord) : State ⊕ Trap :=
  let t := s.traces.getD k {}
  let fresh := ((s.withCopies.record k r).newReads pa n).length
  if t.dead then .inl s
  else if 0 < fresh ∧ t.size < s.usedIn k + 8 * fresh then .inr (traceFull t at')
  else .inl (s.addRead k r pa n)

/-- Adds a write of modifiable granules, where the region has room (R197, R199). -/
def State.recordWrite (s : State) (k r : Nat) (pa n : Nat) (at' : DWord) : State ⊕ Trap :=
  let t := s.traces.getD k {}
  let fresh := ((s.withCopies.record k r).newWrites pa n).length
  if t.dead then .inl s
  else if 0 < fresh ∧ t.size < s.usedIn k + 72 * fresh then .inr (traceFull t at')
  else .inl (s.addWrite k r pa n)

/-- Records an access of a traced task to modifiable memory (R131, R197). -/
def State.recordAccess (s : State) (c : Ctx) (mod write : Bool) (pa n : Nat) (at' : DWord) : State ⊕ Trap :=
  match s.recordOf c with
  | some (k, r) =>
    if mod then if write then s.recordWrite k r pa n at' else s.recordRead k r pa n at' else .inl s
  | none => .inl s

end Sys2Proof.Machine
end

