-- ==== Sys2Proof/Machine/LoadStore.lean ====
section
/-!
DEFINITION. Plain loads and stores, the run-ahead gather, acquire loads, release stores and prefetch
(R71, R128, R132, R134 to R136).
-/
namespace Sys2Proof.Machine

/-- The effective address [Va+off], the offset scaled by the access size (R71). -/
def effective (c : Ctx) (now : Nat) (a : RegField) (o : BitVec 7) (size : Nat) : DWord :=
  c.rdPair now a + BitVec.ofInt 64 (o.toInt * size)

/-- The registers of n from the destination field d in a thread. -/
def destRegs (c : Ctx) (now : Nat) (d : RegField) (n : Nat) : List Nat := (List.range n).map (c.resolve now d + ·)

/-- A load of one thread: the checks of R128, then an operation whose data returns later. -/
def loadThread (d : RegField) (ea : State → Issue → Ctx → DWord) (size : Nat) (signed late : Bool)
    (s : State) (is : Issue) (id : Nat) : State × Bool :=
  let c := s.ctx id
  let now := s.now is.core
  let e := ea s is c
  match s.reach is id e size size needR false .plain false with
  | .stop t => (t, false)
  | .ok s pa mod =>
    match s.recordAccess c mod false pa size e with
    | .inr t => (s.trapAt id is.pc t, false)
    | .inl s' =>
      match s.respond is id e pa size false with
      | some t => (t, false)
      | none =>
        let o := s'.threadOp is id (destRegs c now d ((size + 3) / 4)) e (accessInfo size false false) mod
          (.load pa size signed)
        (s'.addOp { o with late := late, src := s'.ownWindow id pa size }, true)

/-- A load word [Va+off] (R132). -/
def load (s : State) (i : Instr) (d a : RegField) (o : BitVec 7) (size : Nat) (signed : Bool) :
    Host.Outcome State Fault Refusal :=
  next (foldWord s (wordInfo i) noneBusy
    (loadThread d (fun s is c => effective c (s.now is.core) a o size) size signed false))

/-- LDB (R132): zero-extended. -/
def execLdb (ctl : Ctl) (d a : RegField) (o : BitVec 7) (s : State) : Host.Outcome State Fault Refusal :=
  load s (.ldb ctl d a o) d a o 1 false
/-- LDBS (R132): sign-extended. -/
def execLdbs (ctl : Ctl) (d a : RegField) (o : BitVec 7) (s : State) : Host.Outcome State Fault Refusal :=
  load s (.ldbs ctl d a o) d a o 1 true
/-- LDH (R132): zero-extended. -/
def execLdh (ctl : Ctl) (d a : RegField) (o : BitVec 7) (s : State) : Host.Outcome State Fault Refusal :=
  load s (.ldh ctl d a o) d a o 2 false
/-- LDHS (R132): sign-extended. -/
def execLdhs (ctl : Ctl) (d a : RegField) (o : BitVec 7) (s : State) : Host.Outcome State Fault Refusal :=
  load s (.ldhs ctl d a o) d a o 2 true
/-- LDW (R132). -/
def execLdw (ctl : Ctl) (d a : RegField) (o : BitVec 7) (s : State) : Host.Outcome State Fault Refusal :=
  load s (.ldw ctl d a o) d a o 4 false
/-- LDL (R132). -/
def execLdl (ctl : Ctl) (d a : RegField) (o : BitVec 7) (s : State) : Host.Outcome State Fault Refusal :=
  load s (.ldl ctl d a o) d a o 8 false
/-- LDQ (R132). -/
def execLdq (ctl : Ctl) (d a : RegField) (o : BitVec 7) (s : State) : Host.Outcome State Fault Refusal :=
  load s (.ldq ctl d a o) d a o 16 false

/-- LDACQ (R135): LDW that is an acquire; the scope is in off7 and no offset applies. -/
def execLdacq (ctl : Ctl) (d a : RegField) (p : BitVec 3) (s : State) : Host.Outcome State Fault Refusal :=
  load s (.ldacq ctl d a p) d a 0 4 false

/-- LDWR (R134): a thread outside RJn, as it stood before the chain, traps; the load is a run-ahead one. -/
def execLdwr (ctl : Ctl) (d a : RegField) (r : BitVec 3) (s : State) : Host.Outcome State Fault Refusal :=
  next (foldWord s (wordInfo (.ldwr ctl d a r)) noneBusy (fun s is id =>
    if ((s.chainBase is).rj.getD r.toNat 0).getLsbD (s.ctx id).lane then
      loadThread d (fun s is c => effective c (s.now is.core) a 0 4) 4 false true s is id
    else (s.trapAt id is.pc ⟨0x205, is.pc, 0⟩, false)))

/-- A thread's store or reduction at an address would be staged (R69). -/
def State.stages (s : State) (c : Ctx) (ea : DWord) : Bool :=
  s.isDet c && (match s.translate (s.partOf c) ea.toNat needW with
    | .ok pa _ _ => stagedRegion (regionOf pa)
    | _ => false)

/-- The staged stream of the launch has no room for what this issue stages, so the run holds until a commit frees
some (R253), the region's size being a constant that has no value (DESIGN CHOICE, log entry 15). -/
def stageFull (ea : State → Issue → Ctx → DWord) (bytes : Nat) (s : State) (is : Issue) : Option (Option Instr) :=
  let c := s.ctx (is.cohort.headD 0)
  let l := (s.block c.block).launch
  let need := (10 + bytes) * (is.cohort.filter (fun id => s.stages (s.ctx id) (ea s is (s.ctx id)))).length
  if s.isDet c && decide (Config.stageLimit < s.stageUsed l + need) &&
      decide (stagedSize (s.block c.block).stage + need ≤ Config.stageLimit) then some (some (.detCommit l))
  else none

/-- A global store or reduction of a staging block joins its stream; a stream the region cannot hold ends the launch
with DET_STAGE_FULL (R69, R238, R253). -/
def State.stageOrEnd (s : State) (c : Ctx) (pa kind : Nat) (l : List Byte) : State :=
  if s.isDet c && decide (Config.stageLimit < stagedSize (s.block c.block).stage + 10 + l.length) then
    s.endInTrap (s.block c.block).launch ⟨2, 0x392, 0, 0, 0, 0⟩
  else s.stageRecord c pa kind l

/-- The thread has made the access that a FENCE before it made a release (R140). -/
def State.unfence (s : State) (id : Nat) : State := s.updCtx id (fun c => { c with fenced := false })

/-- A store of one thread: once steps 1 to 6 have passed it leaves the thread, staged or in flight (R128, R131). det says
that `.det` execution stages it (R69, R159). -/
def storeBy (det : Bool) (ea : State → Issue → Ctx → DWord) (data : Nat → Ctx → List Byte) (size : Nat) (release : Bool)
    (s : State) (is : Issue) (id : Nat) : State × Bool :=
  let c := s.ctx id
  let e := ea s is c
  let l := data (s.now is.core) c
  match s.reach is id e size size needW true .plain false with
  | .stop t => (t, false)
  | .ok s pa mod =>
    match s.recordAccess c mod true pa size e with
    | .inr t => (s.trapAt id is.pc t, false)
    | .inl s' =>
      if (det && s'.isDet c || s'.isRestart c) && stagedRegion (regionOf pa) then ((s'.stageOrEnd c pa 0 l).unfence id, true)
      else
        let o := s'.threadOp is id (s'.ownWindow id pa size) e (accessInfo size true false) mod (.store pa l release)
        ((s'.addOp { o with err := (s'.accessError c.core pa size).map (·.1) }).unfence id, true)

/-- A store of one thread that every mode stages as the rules of stores say. -/
def storeThread (ea : State → Issue → Ctx → DWord) (data : Nat → Ctx → List Byte) (size : Nat) (release : Bool)
    (s : State) (is : Issue) (id : Nat) : State × Bool := storeBy true ea data size release s is id

/-- The low n bytes of the registers at d. -/
def storeData (d : RegField) (n : Nat) (now : Nat) (c : Ctx) : List Byte :=
  ((List.range ((n + 3) / 4)).flatMap (fun i => toBytes 4 (c.rd now d i).toNat)).take n

/-- A store word [Va+off], Vd (R132). -/
def store (s : State) (i : Instr) (d a : RegField) (o : BitVec 7) (size : Nat) : Host.Outcome State Fault Refusal :=
  let ea : State → Issue → Ctx → DWord := fun s is c => effective c (s.now is.core) a o size
  next (s.holdFirst (stageFull ea size) (fun s => foldWord s (wordInfo i) noneBusy
    (storeThread ea (storeData d size) size false)))

/-- STB (R132). -/
def execStb (ctl : Ctl) (d a : RegField) (o : BitVec 7) (s : State) : Host.Outcome State Fault Refusal :=
  store s (.stb ctl d a o) d a o 1
/-- STH (R132). -/
def execSth (ctl : Ctl) (d a : RegField) (o : BitVec 7) (s : State) : Host.Outcome State Fault Refusal :=
  store s (.sth ctl d a o) d a o 2
/-- STW (R132). -/
def execStw (ctl : Ctl) (d a : RegField) (o : BitVec 7) (s : State) : Host.Outcome State Fault Refusal :=
  store s (.stw ctl d a o) d a o 4
/-- STL (R132). -/
def execStl (ctl : Ctl) (d a : RegField) (o : BitVec 7) (s : State) : Host.Outcome State Fault Refusal :=
  store s (.stl ctl d a o) d a o 8
/-- STQ (R132). -/
def execStq (ctl : Ctl) (d a : RegField) (o : BitVec 7) (s : State) : Host.Outcome State Fault Refusal :=
  store s (.stq ctl d a o) d a o 16

/-- STREL (R135): STW that is a release; a deferred store error is taken first (R128). -/
def execStrel (ctl : Ctl) (d a : RegField) (p : BitVec 3) (s : State) : Host.Outcome State Fault Refusal :=
  let ea : State → Issue → Ctx → DWord := fun s is c => effective c (s.now is.core) a 0 4
  next (s.holdFirst (stageFull ea 4) (fun s => foldWord s (wordInfo (.strel ctl d a p)) noneBusy
    (withDeferred (storeThread ea (storeData d 4) 4 true))))

/-- PREF (R136): step 2 of R128 applies; no later step traps, and nothing visible is written. -/
def execPref (ctl : Ctl) (a : RegField) (o : BitVec 7) (s : State) : Host.Outcome State Fault Refusal :=
  next (branchWord s (wordInfo (.pref ctl a o)) noneBusy (fun s is c =>
    let e := effective c (s.now is.core) a o 4
    if 2 ^ (if isSteward c.core then 52 else 56) ≤ e.toNat then .trap ⟨0x101, e, BitVec.ofNat 32 (accessInfo 4 false false)⟩
    else .next c))

end Sys2Proof.Machine
end

