-- ==== Sys2Proof/Machine/Tagged.lean ====
section
/-!
DEFINITION. The full/empty words of the scratchpad: LDF, LDFF, STE, STF and SETE (R58, R59, R133, Table 7.2).
-/
namespace Sys2Proof.Machine

/-- The tag of the scratchpad word at a physical address (R58). -/
def State.isFull (s : State) (pa : Nat) : Bool := s.full.getD pa false

/-- The tag set; EMPTY is what an unlisted word has. -/
def State.setTag (s : State) (pa : Nat) (b : Bool) : State :=
  { s with full := if b then s.full.set pa true else s.full.erase pa }

/-- The word written by a thread and its tag set in one step (R57); over the results of a matrix operation that the thread
has not observed it leaves what is undefined (R64). -/
def State.fillWord (s : State) (id pa : Nat) (w : Word) : State :=
  ({ s with mem := s.mem.writeBytes pa (toBytes 4 w.toNat) }.blur (s.ctx id) pa 4).setTag pa true

/-- The oldest waiter on a word that its tag lets in: LDF and LDFF when FULL, STE when EMPTY (R59, R133). -/
def State.eligible (s : State) (pa : Nat) : Option Nat :=
  (s.waiters (fun p => match p with
    | .tagged a k _ _ => decide (a = pa) && (if s.isFull pa then decide (k ≠ 2) else decide (k = 2))
    | _ => false)).head?

/-- One waiter served: its access is made and it resumes. -/
def State.serveOne (s : State) (pa id : Nat) : State :=
  match (s.ctx id).parkKind with
  | some (.tagged _ k dst data) =>
    if k = 2 then (s.fillWord id pa data).updCtx id Ctx.wake
    else
      let s := s.updCtx id (fun c => (c.setV dst (BitVec.ofNat 32 (s.atomicNat id pa 4))).wake)
      if k = 0 then s.setTag pa false else s
  | _ => s

/-- The parked waiters on a word are served in arrival order, one at a time (R59); n bounds how many. -/
def State.serveTagged (s : State) (pa : Nat) : Nat → State
  | 0 => s
  | n + 1 =>
    match s.eligible pa with
    | some id => (s.serveOne pa id).serveTagged pa n
    | none => s

/-- Serves a word until no waiter can be let in. -/
def State.serveWord (s : State) (pa : Nat) : State := s.serveTagged pa s.ctxs.length

/-- A tagged word of one thread at its word's address: k is 0 LDF, 1 LDFF, 2 STE, 3 STF, 4 SETE. -/
def taggedAt (k : Nat) (d : RegField) (s : State) (is : Issue) (id : Nat) (ea : DWord) (pa : Nat) : State × Bool :=
  let c := s.ctx id
  let now := s.now is.core
  match regionOf pa with
  | .scratch core off =>
    match if k ≤ 2 then s.tagWaitTrap c is.pc core off else none with
    | some t => (s.trapAt id is.pc t, false)
    | none =>
    match s.respond is id ea pa 4 true with
    | some t => (t, false)
    | none =>
      let s := s.drainOwn id pa 4
      let scope := autoScope c.core core
      if k = 3 then ((s.fillWord id pa (c.rd now d 0)).serveWord pa, true)
      else if k = 4 then ((s.setTag pa false).serveWord pa, true)
      else if k = 2 then
        if s.isFull pa then (s.parkThread id (.tagged pa 2 0 (c.rd now d 0)) scope, false)
        else ((s.fillWord id pa (c.rd now d 0)).serveWord pa, true)
      else
        let dst := c.resolve now d
        if s.isFull pa then
          let o := s.threadOp is id [dst] ea (accessInfo 4 true false) false
            (.value pa [BitVec.ofNat 32 (s.atomicNat id pa 4)])
          let s := s.addOp o
          ((if k = 0 then s.setTag pa false else s).serveWord pa, true)
        else (s.parkThread id (.tagged pa k dst 0) scope, false)
  | _ => (s.trapAt id is.pc ⟨0x101, ea, BitVec.ofNat 32 (accessInfo 4 true false)⟩, false)

/-- A tagged word of one thread (R133): steps 2 to 5 of R128 first, then the wait check, then the access. -/
def taggedThread (k : Nat) (d a : RegField) (o : BitVec 7) (s : State) (is : Issue) (id : Nat) : State × Bool :=
  let ea := effective (s.ctx id) (s.now is.core) a o 4
  match s.reach is id ea 4 4 needRW true .tagged false with
  | .stop t => (t, false)
  | .ok s pa _ => taggedAt k d s is id ea pa

/-- A release waits until every earlier write of its threads has been performed (R60): the step it waits for. -/
def storesPending (s : State) (is : Issue) : Option (Option Instr) :=
  (is.cohort.findSome? s.oldestStore).map some

/-- LDF (R133): waits for FULL, reads and empties. -/
def execLdf (ctl : Ctl) (d a : RegField) (o : BitVec 7) (s : State) : Host.Outcome State Fault Refusal :=
  next (foldWord s (wordInfo (.ldf ctl d a o)) (s.barred false) (taggedThread 0 d a o))
/-- LDFF (R133): waits for FULL and leaves it. -/
def execLdff (ctl : Ctl) (d a : RegField) (o : BitVec 7) (s : State) : Host.Outcome State Fault Refusal :=
  next (foldWord s (wordInfo (.ldff ctl d a o)) (s.barred false) (taggedThread 1 d a o))
/-- STE (R133): waits for EMPTY, writes and fills; a release (R56). -/
def execSte (ctl : Ctl) (d a : RegField) (o : BitVec 7) (s : State) : Host.Outcome State Fault Refusal :=
  next (s.holdFirst storesPending (fun s =>
    foldWord s (wordInfo (.ste ctl d a o)) noneBusy (withDeferred (taggedThread 2 d a o))))
/-- STF (R133): writes and fills without waiting; a release (R56). -/
def execStf (ctl : Ctl) (d a : RegField) (o : BitVec 7) (s : State) : Host.Outcome State Fault Refusal :=
  next (s.holdFirst storesPending (fun s =>
    foldWord s (wordInfo (.stf ctl d a o)) noneBusy (withDeferred (taggedThread 3 d a o))))
/-- SETE (R133): empties the word. -/
def execSete (ctl : Ctl) (a : RegField) (o : BitVec 7) (s : State) : Host.Outcome State Fault Refusal :=
  next (foldWord s (wordInfo (.sete ctl a o)) (s.barred false) (taggedThread 4 0 a o))

end Sys2Proof.Machine
end

