-- ==== Sys2Proof/Machine/Atomic.lean ====
section
/-!
DEFINITION. The value-returning atomics of class S1 (R137) and the reductions of RED (R139), with the checks of
deterministic, traced and restartable execution (R131, R238).
-/
namespace Sys2Proof.Machine

/-- Step 6 of R128 for words that atomically change memory: det says whether the word's scope and place break `.det`,
and the trap of a traced or a restartable task follows (R131, R238). -/
def State.atomicTrap (s : State) (c : Ctx) (pa : Nat) (mod det : Bool) (ea : DWord) (info : Nat) : Option Trap :=
  let i : Word := BitVec.ofNat 32 info
  if s.isDet c && det then some ⟨0x384, ea, i⟩
  else if s.isTraced c && mod then some ⟨0x382, ea, i⟩
  else if s.isRestart c && stagedRegion (regionOf pa) then some ⟨0x390, ea, i⟩
  else none

/-- Whether an atomic breaks `.det`: it may only address a scratchpad at GRP or BLK scope (R69, R131). -/
def atomicDet (pa : Nat) (p : BitVec 3) : Bool :=
  match regionOf pa with
  | .scratch _ _ => decide (1 < p.toNat)
  | _ => true

/-- An atomic of one thread (R137): f gives the new value, none for no write, from the old one. -/
def atomicThread (p : BitVec 3) (d a : RegField) (f : Nat → Ctx → Word → Option Word) (s : State) (is : Issue)
    (id : Nat) : State × Bool :=
  let c := s.ctx id
  let now := s.now is.core
  let ea := effective c now a 0 4
  let info := accessInfo 4 true false
  match s.reach is id ea 4 4 needRW true .atomic false with
  | .stop t => (t, false)
  | .ok s pa mod =>
    match s.atomicTrap c pa mod (atomicDet pa p) ea info with
    | some t => (s.trapAt id is.pc t, false)
    | none =>
      match s.respond is id ea pa 4 true with
      | some t => (t, false)
      | none =>
        let s := s.drainOwn id pa 4
        let old : Word := BitVec.ofNat 32 (s.atomicNat id pa 4)
        let s := match f now c old with
          | some w => (s.put c.core pa (toBytes 4 w.toNat)).blur c pa 4
          | none => s
        ((s.addOp (s.threadOp is id [c.resolve now d] ea info mod (.value pa [old]))).unfence id, true)

/-- An atomic word, a release where a FENCE says so (R140); a deferred store error is taken first (R128). -/
def atomic (s : State) (i : Instr) (p : BitVec 3) (d a : RegField) (f : Nat → Ctx → Word → Option Word) :
    Host.Outcome State Fault Refusal :=
  next (foldWord s (wordInfo i) (s.barred true) (withDeferred (atomicThread p d a f)))

/-- An atomic that always writes f of the old value and V[b]. -/
def atomicOp (s : State) (i : Instr) (p : BitVec 3) (d a b : RegField) (f : Word → Word → Word) :
    Host.Outcome State Fault Refusal :=
  atomic s i p d a (fun now c old => some (f old (c.rd now b 0)))

/-- AADD (R137). -/
def execAadd (ctl : Ctl) (p : BitVec 3) (d a b : RegField) (s : State) : Host.Outcome State Fault Refusal :=
  atomicOp s (.aadd ctl p d a b) p d a b (· + ·)
/-- AXCHG (R137). -/
def execAxchg (ctl : Ctl) (p : BitVec 3) (d a b : RegField) (s : State) : Host.Outcome State Fault Refusal :=
  atomicOp s (.axchg ctl p d a b) p d a b (fun _ v => v)
/-- ACAS (R137): bitwise compare with V[d]; a failing comparison performs no write. -/
def execAcas (ctl : Ctl) (p : BitVec 3) (d a b : RegField) (s : State) : Host.Outcome State Fault Refusal :=
  atomic s (.acas ctl p d a b) p d a (fun now c old => if old = c.rd now d 0 then some (c.rd now b 0) else none)
/-- AMIN (R137): int32. -/
def execAmin (ctl : Ctl) (p : BitVec 3) (d a b : RegField) (s : State) : Host.Outcome State Fault Refusal :=
  atomicOp s (.amin ctl p d a b) p d a b (fun x y => if x.toInt ≤ y.toInt then x else y)
/-- AMAX (R137): int32. -/
def execAmax (ctl : Ctl) (p : BitVec 3) (d a b : RegField) (s : State) : Host.Outcome State Fault Refusal :=
  atomicOp s (.amax ctl p d a b) p d a b (fun x y => if x.toInt ≤ y.toInt then y else x)
/-- AAND (R137). -/
def execAand (ctl : Ctl) (p : BitVec 3) (d a b : RegField) (s : State) : Host.Outcome State Fault Refusal :=
  atomicOp s (.aand ctl p d a b) p d a b (· &&& ·)
/-- AOR (R137). -/
def execAor (ctl : Ctl) (p : BitVec 3) (d a b : RegField) (s : State) : Host.Outcome State Fault Refusal :=
  atomicOp s (.aor ctl p d a b) p d a b (· ||| ·)
/-- AFADD (R137): RNE, subnormals honoured, no flag. -/
def execAfadd (ctl : Ctl) (p : BitVec 3) (d a b : RegField) (s : State) : Host.Outcome State Fault Refusal :=
  atomicOp s (.afadd ctl p d a b) p d a b addF32

/-- A reduction of one thread (R139): it leaves the thread, staged under `.det`, or in flight on the drain path. -/
def redThread (k : BitVec 6) (a b : RegField) (s : State) (is : Issue) (id : Nat) : State × Bool :=
  let c := s.ctx id
  let now := s.now is.core
  let n := reduceSize k.toNat
  let ea := effective c now a 0 4
  let info := accessInfo n true false
  let v := c.rd now b 0
  match s.reach is id ea n n needRW true .atomic false with
  | .stop t => (t, false)
  | .ok s pa mod =>
    match s.atomicTrap c pa mod false ea info with
    | some t => (s.trapAt id is.pc t, false)
    | none =>
      if s.isDet c && stagedRegion (regionOf pa) then (s.stageOrEnd c pa (1 + k.toNat) (toBytes 4 v.toNat), true)
      else
        let o := s.threadOp is id [] ea info mod (.reduce pa k.toNat v)
        (s.addOp { o with err := (s.accessError c.core pa n).map (·.1) }, true)

/-- RED (R139): applies V[b] on the drain path and returns nothing. -/
def execRed (ctl : Ctl) (p : BitVec 3) (k a b : RegField) (s : State) : Host.Outcome State Fault Refusal :=
  next (s.holdFirst (stageFull (fun s is c => effective c (s.now is.core) a 0 4) 4) (fun s =>
    foldWord s (wordInfo (.red ctl p k a b)) noneBusy (withDeferred (redThread k a b))))

end Sys2Proof.Machine
end

