-- ==== Sys2Proof/Machine/Dot.lean ====
section
/-!
DEFINITION. Dot products and integer accumulation of the matrix array, TWALK and the assay (R49 to R52), and the
conversions of MDRAIN (Table 16.5).
-/
namespace Sys2Proof.Machine

/-- Bits below the leading one that a truncated term keeps: 27 for FP32, 56 for FP64 (R49, R50). -/
def dotKeep (F : Fmt) : Int := if F.fbits = 52 then 56 else 27

/-- The leading exponent of a nonzero finite value. -/
def FVal.lead? : FVal → Option Int
  | .fin _ m e => if m = 0 then none else some (leadExp m e)
  | _ => none

/-- The greatest leading exponent of a list of terms. -/
def dotMax : List FVal → Option Int
  | [] => none
  | v :: t =>
    match v.lead?, dotMax t with
    | some e, some f => some (max e f)
    | some e, none => some e
    | none, r => r

/-- A term truncated toward zero to a multiple of 2^q, as that multiple. -/
def dotTerm (q : Int) : FVal → Int
  | .fin n m e => signed n (roundAt 1 n m e q).1
  | _ => 0

/-- The value is −0. -/
def FVal.isNegZero : FVal → Bool
  | .fin n m _ => n && decide (m = 0)
  | _ => false

/-- Is this infinity of the sign. -/
def FVal.isInf (neg : Bool) : FVal → Bool
  | .inf n => n == neg
  | _ => false

/-- One group of terms, the incoming term among them (R49 steps 4 to 7): the result's pattern. A product 0 × ∞ stands
as NaN. -/
def dotGroup (F : Fmt) (terms : List FVal) : Nat :=
  let pos := terms.any (FVal.isInf false)
  let neg := terms.any (FVal.isInf true)
  if terms.any FVal.isNan || (pos && neg) then F.nan
  else if pos then F.inf false
  else if neg then F.inf true
  else
    let q := (dotMax terms).getD 0 - dotKeep F
    let t := terms.foldl (fun a v => a + dotTerm q v) 0
    if t = 0 then F.zero (terms.all FVal.isNegZero)
    else (roundTo F rne (decide (t < 0)) t.natAbs q).bits

/-- A list cut into groups of 16 by index. -/
def groups16 {α : Type} (l : List α) : List (List α) :=
  (List.range ((l.length + 15) / 16)).map (fun i => (l.drop (16 * i)).take 16)

/-- A dot product in index order (R49): a term that is none is skipped (R52). z is the incoming pattern. -/
def dotProduct (F : Fmt) (z : Nat) (terms : List (Option FVal)) : Nat :=
  (groups16 terms).foldl (fun z g => dotGroup F (F.unpack z :: g.filterMap id)) z

/-- An exact product as a term. -/
def dotMul (x y : FVal) : FVal := (fProd x y).1

/-- The integer result at a group boundary, and whether it was clamped (R51): mode 1 is .SAT. -/
def intBoundary (mode : Nat) (t : Int) : Int × Bool :=
  if mode = 1 then
    if t < -2 ^ 31 then (-2 ^ 31, true) else if 2 ^ 31 - 1 < t then (2 ^ 31 - 1, true) else (t, false)
  else ((BitVec.ofInt 32 t).toInt, false)

/-- Integer accumulation (R51): the INT32 pattern and whether any boundary clamped. -/
def intDot (mode : Nat) (z : Nat) (terms : List (Option Int)) : Nat × Bool :=
  let r := (groups16 terms).foldl (fun (p : Int × Bool) g =>
    let q := intBoundary mode ((g.filterMap id).foldl (· + ·) p.1)
    (q.1, p.2 || q.2)) ((BitVec.ofNat 32 z).toInt, false)
  ((BitVec.ofInt 32 r.1).toNat, r.2)

/-- Bits of an element of a format (Table 16.2). -/
def fmtBits (fmt : Nat) : Nat :=
  match fmt with
  | 0 => 32 | 1 => 16 | 2 => 16 | 3 => 8 | 4 => 8 | 5 => 8 | 6 => 8 | 7 => 4 | 8 => 1 | 9 => 4 | 10 => 64 | 11 => 32
  | _ => 4

/-- Bytes of an element, or 1 for a sub-byte format. -/
def fmtBytes (fmt : Nat) : Nat := (fmtBits fmt + 7) / 8

/-- The floating-point format of a code. -/
def fmtOf (fmt : Nat) : Fmt :=
  match fmt with
  | 1 => bf16 | 2 => fp16 | 3 => e4m3 | 4 => e5m2 | 10 => fp64
  | _ => fp32

/-- The code names a floating-point format. -/
def fmtFloat (fmt : Nat) : Bool := decide (fmt ≤ 4) || decide (fmt = 10)

/-- A floating-point format with non-finite flags: BF16, FP16, E4M3, E5M2 (R52). -/
def fmtFlagged (fmt : Nat) : Bool := decide (1 ≤ fmt ∧ fmt ≤ 4)

/-- An element of an integer format as an exact integer (R41, R51). -/
def intOf (fmt x : Nat) : Int :=
  match fmt with
  | 5 => (BitVec.ofNat 8 x).toInt
  | 7 => (BitVec.ofNat 4 x).toInt
  | 11 => (BitVec.ofNat 32 x).toInt
  | _ => (x : Int)

/-- A decoded NQ4 element converted to A's format (R46, R48). -/
def nqOperand (fmt value : Nat) : Nat :=
  let v := fp32.unpack value
  match fmt with
  | 3 => (fToE4m3 0 (decide (value / 2 ^ 31 % 2 = 1)) v).bits
  | 4 => (fToE5m2 0 v).bits
  | f => (fConvert (fmtOf f) rne v).bits

/-- A drained element in the output format of Table 16.5. -/
def drainConvert (code acc : Nat) (x : Nat) : Nat :=
  match code with
  | 1 => (fConvert bf16 rne (fp32.unpack x)).bits
  | 2 => (fConvert fp16 rne (fp32.unpack x)).bits
  | 3 => (fToE4m3 0 (decide (x / 2 ^ 31 % 2 = 1)) (fp32.unpack x)).bits
  | 5 =>
    let t := (BitVec.ofNat 32 x).toInt
    (BitVec.ofInt 8 (if t < -128 then -128 else if 127 < t then 127 else t)).toNat
  | _ => x % 2 ^ fmtBits acc

/-- The sum of .ADD for an output format code: FP32, FP64 or INT32. -/
def drainAdd (code acc x y : Nat) : Nat :=
  if code = 4 then (x + y) % 2 ^ 32
  else if acc = 10 then (fAdd fp64 rne (fp64.unpack x) (fp64.unpack y)).bits
  else (fAdd fp32 rne (fp32.unpack x) (fp32.unpack y)).bits

end Sys2Proof.Machine
end

