-- ==== Sys2Proof/Machine/Sync.lean ====
section
/-!
DEFINITION. Fences, waiting on a value, queue locks and barrier objects (R59 to R62, R140 to R145).
-/
namespace Sys2Proof.Machine

/-- What a FENCE waits for (R60, R140): releases for the thread's earlier writes, acquires for its earlier loads. -/
def fenceWaits (k : BitVec 6) (s : State) (is : Issue) : Option (Option Instr) :=
  let rel := decide (k.toNat = 2 ∨ k.toNat = 3 ∨ k.toNat = 4)
  let acq := decide (k.toNat ≠ 2)
  ((if rel then is.cohort.findSome? s.oldestStore else none).or
    (if acq then is.cohort.findSome? s.oldestLoad else none)).map some

/-- FENCE (R140): holds its run until its ordering is satisfied; one with a release makes the thread's next store or atomic
a release. Every write the machine has performed is visible at
every scope, so that ACQ.RMT has nothing further to force out (R62, DESIGN CHOICE, log entry 9). -/
def execFence (ctl : Ctl) (p : BitVec 3) (k : RegField) (s : State) : Host.Outcome State Fault Refusal :=
  next (s.holdFirst (fenceWaits k) (fun s =>
    foldWord s (wordInfo (.fence ctl p k)) noneBusy (withDeferred (fun s _ id =>
      (if k.toNat = 2 ∨ k.toNat = 3 ∨ k.toNat = 4 then s.updCtx id (fun c => { c with fenced := true }) else s, true)))))

/-- The linear index a wait at scope code 7 names (R129). -/
def predecessor (c : Ctx) (now : Nat) (b : RegField) : Nat := (c.rd now b 1).toNat

/-- WAITV of one thread (R61, R141): compares and enqueues in one step. -/
def waitvThread (p : BitVec 3) (a b : RegField) (s : State) (is : Issue) (id : Nat) : State × Bool :=
  let c := s.ctx id
  let now := s.now is.core
  let ea := effective c now a 0 4
  let info := accessInfo 4 false false
  match s.waitTrap c is.pc p.toNat (predecessor c now b) with
  | some t => (s.trapAt id is.pc t, false)
  | none =>
    match s.reach is id ea 4 4 needR false .atomic false with
    | .stop t => (t, false)
    | .ok s pa mod =>
      match s.atomicTrap c pa false (decide (1 < p.toNat)) ea info with
      | some t => (s.trapAt id is.pc t, false)
      | none =>
        match s.recordAccess c mod false pa 4 ea with
        | .inr t => (s.trapAt id is.pc t, false)
        | .inl s' =>
          match s.respond is id ea pa 4 false with
          | some t => (t, false)
          | none =>
            let s' := s'.drainOwn id pa 4
            if BitVec.ofNat 32 (s'.threadNat id pa 4) = c.rd now b 0 then
              (s'.parkThread id (.waitv (memKey c.core pa)) p.toNat, false)
            else (s', true)

/-- WAITV (R141). -/
def execWaitv (ctl : Ctl) (p : BitVec 3) (a b : RegField) (s : State) : Host.Outcome State Fault Refusal :=
  next (foldWord s (wordInfo (.waitv ctl p a b)) (s.barred false) (withDeferred (waitvThread p a b)))

/-- Wakes sleepers on a word: the oldest, or all (R61, R141). -/
def State.notifyWord (s : State) (pa : Nat) (all : Bool) : State :=
  let l := s.waiters (fun p => p == .waitv pa)
  s.mapCtxs (if all then l else l.take 1) Ctx.wake

/-- The common path of NOTIFY, QLOCK and QUNLOCK (R130, R131): f acts at the word's place in memory. -/
def syncThread (p : BitVec 3) (a : RegField) (f : State → Issue → Nat → DWord → Nat → State × Bool) (s : State)
    (is : Issue) (id : Nat) : State × Bool :=
  let c := s.ctx id
  let ea := effective c (s.now is.core) a 0 4
  let info := accessInfo 4 true false
  match s.reach is id ea 4 4 needRW true .atomic false with
  | .stop t => (t, false)
  | .ok s pa mod =>
    match s.atomicTrap c pa mod (decide (1 < p.toNat)) ea info with
    | some t => (s.trapAt id is.pc t, false)
    | none =>
      match s.respond is id ea pa 4 true with
      | some t => (t, false)
      | none => f (s.drainOwn id pa 4) is id ea (memKey c.core pa)

/-- NOTIFY (R141): a release; ONE wakes the oldest sleeper, ALL every sleeper. -/
def execNotify (ctl : Ctl) (p : BitVec 3) (k a : RegField) (s : State) : Host.Outcome State Fault Refusal :=
  next (s.holdFirst storesPending (fun s =>
    foldWord s (wordInfo (.notify ctl p k a)) noneBusy (withDeferred (syncThread p a (fun s _ _ _ pa =>
      (s.notifyWord pa (decide (k.toNat = 1)), true))))))

/-- CORE as the special register shows it: 255 on a steward (R101). -/
def coreNumber (c : Ctx) : Nat := if isSteward c.core then 255 else c.core

/-- What a held lock word reads (R142). -/
def lockValue (c : Ctx) : Nat := 1 + (coreNumber c * 4096 + c.slot * 32 + c.lane)

/-- The lock word written. -/
def State.writeLock (s : State) (pa v : Nat) : State :=
  (({ s with mem := s.mem.writeBytes pa (toBytes 4 v) }).markStore pa).wakeSlots

/-- QLOCK of one thread at its lock word (R142). -/
def qlockAt (p : BitVec 3) (s : State) (is : Issue) (id : Nat) (ea : DWord) (pa : Nat) : State × Bool :=
  let v := lockValue (s.ctx id)
  match s.locks.get? pa with
  | none => ({ s with locks := s.locks.set pa id }.writeLock pa v, true)
  | some h =>
    if h = id then (s.trapAt id is.pc ⟨0x208, ea, 0⟩, false)
    else (s.parkThread id (.qlock pa v) p.toNat, false)

/-- A wait word at a scope field whose predecessor index, at code 7, is V1 (R129). -/
def withWait (p : BitVec 3) (g : State → Issue → Nat → State × Bool) (s : State) (is : Issue) (id : Nat) :
    State × Bool :=
  let c := s.ctx id
  match s.waitTrap c is.pc p.toNat (c.readV (s.now is.core) 1).toNat with
  | some t => (s.trapAt id is.pc t, false)
  | none => g s is id

/-- QLOCK (R142). -/
def execQlock (ctl : Ctl) (p : BitVec 3) (a : RegField) (s : State) : Host.Outcome State Fault Refusal :=
  next (foldWord s (wordInfo (.qlock ctl p a)) (s.barred false)
    (withDeferred (withWait p (syncThread p a (qlockAt p)))))

/-- The lock passes to the head of its queue in the same step, or is freed (R142). -/
def State.handOver (s : State) (pa : Nat) : State :=
  match s.waiters (fun q => match q with | .qlock a _ => decide (a = pa) | _ => false) with
  | [] => { s with locks := s.locks.erase pa }.writeLock pa 0
  | w :: _ =>
    let v := match (s.ctx w).parkKind with | some (.qlock _ v) => v | _ => 0
    ({ s with locks := s.locks.set pa w }.writeLock pa v).updCtx w Ctx.wake

/-- QUNLOCK (R142): a release; only the holder may. -/
def execQunlock (ctl : Ctl) (p : BitVec 3) (a : RegField) (s : State) : Host.Outcome State Fault Refusal :=
  next (s.holdFirst storesPending (fun s =>
    foldWord s (wordInfo (.qunlock ctl p a)) noneBusy (withDeferred (syncThread p a (fun s is id ea pa =>
      if s.locks.get? pa = some id then (s.handOver pa, true)
      else (s.trapAt id is.pc ⟨0x204, ea, 0⟩, false))))))

/-- Word n of a barrier object as a load reads it (Table 14.1). -/
def Barrier.word (b : Barrier) (n : Nat) : Nat :=
  match n with
  | 0 => b.remain
  | 1 => b.init
  | 2 => b.armed.toNat + 2 * b.bytes.toNat + 4 * b.scope + 256 * b.phase
  | _ => 0

/-- The barrier object at a physical address; one that no BINIT has armed is all zero (R143) (DEDUCED, log entry 70). -/
def State.barrier (s : State) (pa : Nat) : Barrier := s.bars.getD pa {}

/-- The object takes new fields, which loads then read, but for a word that a store has left undefined (R138); a slot
that waits on a word of it reads again (R248). -/
def State.setBarrier (s : State) (pa : Nat) (b : Barrier) : State :=
  (({ s with
    bars := s.bars.set pa b
    mem := ([0, 1, 2, 3].filter (fun n => !b.damaged.contains n)).foldl
      (fun m n => m.writeBytes (pa + 4 * n) (toBytes 4 (b.word n))) s.mem }).markStore pa).wakeSlots

/-- A pending copy of completion kind 1, or the record a channel performs, names the object (R59). -/
def State.copyNames (s : State) (pa : Nat) : Bool :=
  let at' := fun part (va : Nat) => match s.translate part va needRW with
    | .ok p _ _ => decide (p = pa)
    | _ => false
  s.ops.any (fun o => match o.2.kind with
    | .copy c => decide (c.kind = 1) && at' c.part c.caddr.toNat
    | _ => false) ||
  s.cores.any (fun k => k.2.channels.any (fun ch => ch.2.busy &&
    (match s.translate ch.2.part ch.2.cur.toNat needR with
     | .ok r _ _ => decide (s.shuttleNat ch.2.ctx (r + 40) 4 / 16 % 4 = 1) && at' ch.2.part (s.shuttleNat ch.2.ctx (r + 48) 8)
     | _ => false)))

/-- The parked threads of a barrier object. -/
def State.barWaiters (s : State) (pa : Nat) : List Nat := s.waiters (fun q => q == .bar pa)

/-- The end of a round (R145): every parked thread leaves, or traps COPY_FAULT where the round is marked faulted
(R178); the object rearms. -/
def State.endRound (s : State) (pa : Nat) : State :=
  let b := s.barrier pa
  let l := s.barWaiters pa
  let s := s.setBarrier pa { b with remain := b.init, phase := (b.phase + 1) % 256 }
  match s.barFaults.get? pa with
  | some t =>
    l.foldl (fun s id => s.trapAt id (s.ctx id).pc t) { s with barFaults := s.barFaults.erase pa }
  | none => s.mapCtxs l Ctx.wake

/-- The common path of BINIT and BAR: the 16-byte object (R143). -/
def barrierThread (a : RegField) (f : State → Issue → Nat → DWord → Nat → State × Bool) (s : State) (is : Issue)
    (id : Nat) : State × Bool :=
  let c := s.ctx id
  let ea := effective c (s.now is.core) a 0 4
  let info := accessInfo 16 true false
  match s.reach is id ea 16 16 needRW true .atomic false with
  | .stop t => (t, false)
  | .ok s pa mod =>
    match s.atomicTrap c pa mod false ea info with
    | some t => (s.trapAt id is.pc t, false)
    | none =>
      match s.respond is id ea pa 16 true with
      | some t => (t, false)
      | none => f (s.drainOwn id pa 16) is id ea (memKey c.core pa)

/-- BINIT of one thread at its object (R144); the object's first round is not marked faulted (R178). -/
def binitAt (p : BitVec 3) (k b : RegField) (s : State) (is : Issue) (id : Nat) (ea : DWord) (pa : Nat) :
    State × Bool :=
  let c := ((s.ctx id).rd (s.now is.core) b 0).toNat
  if c = 0 ∨ 2 ^ 31 ≤ c then (s.trapAt id is.pc ⟨0x20A, ea, 0⟩, false)
  else if !(s.barWaiters pa).isEmpty || s.copyNames pa then (s.trapAt id is.pc ⟨0x203, ea, 0⟩, false)
  else ({ s with barFaults := s.barFaults.erase pa }.setBarrier pa ⟨c, c, true, decide (k.toNat = 1), p.toNat, 0, []⟩, true)

/-- BINIT (R144). -/
def execBinit (ctl : Ctl) (p : BitVec 3) (k a b : RegField) (s : State) : Host.Outcome State Fault Refusal :=
  next (foldWord s (wordInfo (.binit ctl p k a b)) (s.barred false) (withDeferred (barrierThread a (binitAt p k b))))

/-- BAR of one thread at its object (R145). -/
def barAt (p : BitVec 3) (s : State) (is : Issue) (id : Nat) (ea : DWord) (pa : Nat) : State × Bool :=
  let b := s.barrier pa
  if !b.armed then (s.trapAt id is.pc ⟨0x20B, ea, 0⟩, false)
  else if b.scope ≠ p.toNat then (s.trapAt id is.pc ⟨0x209, ea, 0⟩, false)
  else if b.bytes then (s.parkThread id (.bar pa) p.toNat, false)
  else if b.remain ≤ 1 then (s.endRound pa, true)
  else ((s.setBarrier pa { b with remain := b.remain - 1 }).parkThread id (.bar pa) p.toNat, false)

/-- BAR (R145): arrival is a release. -/
def execBar (ctl : Ctl) (p : BitVec 3) (a : RegField) (s : State) : Host.Outcome State Fault Refusal :=
  next (s.holdFirst storesPending (fun s => foldWord s (wordInfo (.bar ctl p a)) noneBusy
    (withDeferred (withWait p (barrierThread a (barAt p))))))

end Sys2Proof.Machine
end

