-- ==== Sys2Proof/Machine/Respond.lean ====
section
/-!
DEFINITION. The answer to a fault buffer entry (R227, R236).
-/
namespace Sys2Proof.Machine

/-- A parked thread's fault waits on an entry. -/
def Ctx.onEntry (c : Ctx) (k : Nat) : Ctx :=
  match c.status with
  | .parked (.xfault _ va info) a sc n => { c with status := .parked (.xfault (some k) va info) a sc n }
  | _ => c

/-- A thread that parked while the buffer was full walks again: it takes the entry that is free, or, if the walk now
succeeds, issues its word again (R227; DESIGN CHOICE, log entries 9 and 18). -/
def State.retake (s : State) (id : Nat) : State :=
  let c := s.ctx id
  match c.parkKind with
  | some (.xfault none va info) =>
    match s.translate (s.partOf c) va ⟨false, false, false⟩ with
    | .fault l b z =>
      let r := s.takeFault c.core (s.partOf c) l b z va info 0
      match r.2 with
      | some k => r.1.updCtx id (fun c => c.onEntry k)
      | none => s
    | _ => s.updCtx id Ctx.reissue
  | _ => s

/-- What waits on mark or entry k waits on entry n instead. -/
def State.remark (s : State) (k n : Nat) : State :=
  { s with
    ops := s.ops.map (fun (p : Nat × Op) => if p.2.fault = some k then (p.1, { p.2 with fault := some n }) else p)
    cores := s.cores.map (fun (p : Nat × Core) => (p.1, { p.2 with
      channels := p.2.channels.map (fun (q : Nat × Channel) =>
        if q.2.wait = some k then (q.1, { q.2 with wait := some n }) else q) })) }

/-- An access of an engine or a shuttle that found the buffer full takes an entry, if one is free. -/
def State.retakeWait (s : State) (w : FaultWait) : State :=
  match s.takeFault w.core w.part w.level w.base w.size w.va w.info w.agent with
  | (t, some k) => { t with faultQ := t.faultQ.filter (· ≠ w) }.remark (faultMark w.seq) k
  | (_, none) => s

/-- What waits for an entry of a core, in fault order: threads by their arrival, accesses of engines and shuttles by their
places; n bounds how many. -/
def State.faultOrder (s : State) : Nat → List Nat → List FaultWait → List (Nat ⊕ FaultWait)
  | 0, _, _ => []
  | _ + 1, [], l => l.map .inr
  | _ + 1, l, [] => l.map .inl
  | n + 1, id :: a, w :: b =>
    if (s.ctx id).arrival < w.seq then .inl id :: s.faultOrder n a (w :: b) else .inr w :: s.faultOrder n (id :: a) b

/-- What waits for an entry of a core takes those that have become free, in fault order (R227). -/
def State.retakeAll (s : State) (core : Nat) : State :=
  let ids := (s.waiters (fun p => match p with | .xfault none _ _ => true | _ => false)).filter
    (fun id => (s.ctx id).core = core)
  let ws := s.faultQ.filter (fun w => w.core = core)
  (s.faultOrder (ids.length + ws.length) ids ws).foldl (fun s x =>
    match x with
    | .inl id => s.retake id
    | .inr w => s.retakeWait w) s

/-- The threads that wait on a fault buffer entry. -/
def State.faultWaiters (s : State) (k : Nat) : List Nat :=
  s.waiters (fun p => match p with | .xfault (some e) _ _ => decide (e = k) | _ => false)

/-- PAGE_NOT_PRESENT at the word of a parked thread (R236). -/
def State.notPresent (s : State) (id : Nat) : State :=
  match (s.ctx id).parkKind with
  | some (.xfault _ va info) =>
    s.trapAt id (s.ctx id).pc ⟨0x100, BitVec.ofNat 64 va, BitVec.ofNat 32 info⟩
  | _ => s

/-- An operation of an engine or the shuttle that waited on the entry goes on; fail makes its access a protection
violation. -/
def Op.answered (o : Op) (k : Nat) (fail : Bool) : Op :=
  if o.fault = some k then
    { o with
      fault := none
      err := if fail && !o.atObject then some 0x101 else o.err
      noObject := o.noObject || (fail && o.atObject)
      atObject := false }
  else o

/-- The same for the record of a shuttle channel. -/
def Channel.answered (c : Channel) (k : Nat) (fail : Bool) : Channel :=
  if c.wait = some k then
    { c with
      wait := none
      denied := if c.atObject then c.denied else fail
      noObject := c.noObject || (fail && c.atObject)
      atObject := false }
  else c

/-- An entry is answered: it is free, and each of its waiters walks again, or fails (R236). -/
def State.answerFault (s : State) (core entry : Nat) (fail : Bool) : State :=
  let k := core * 256 + entry
  let ids := s.faultWaiters k
  let s : State := { s with faults := s.faults.erase k }
  let s : State := if fail then ids.foldl State.notPresent s else s.mapCtxs ids Ctx.reissue
  let s := { s with
    ops := s.ops.map (fun (p : Nat × Op) => (p.1, p.2.answered k fail))
    cores := s.cores.map (fun (p : Nat × Core) => (p.1,
      { p.2 with channels := p.2.channels.map (fun (q : Nat × Channel) => (q.1, q.2.answered k fail)) })) }
  s.retakeAll core

/-- Something waits on an entry or on a mark. -/
def State.awaitsFault (s : State) (k : Nat) : Bool :=
  !(s.faultWaiters k).isEmpty || s.ops.any (fun p => p.2.fault == some k) ||
    s.cores.any (fun c => c.2.channels.any (fun q => q.2.wait == some k))

/-- Entries that nothing waits on any more are free (R236, R243). -/
def State.sweepFaults (s : State) : State :=
  let s := { s with faultQ := s.faultQ.filter (fun w => s.awaitsFault (faultMark w.seq)) }
  let used := s.awaitsFault
  let gone := s.faults.keysWhere (fun k _ => !used k)
  gone.foldl (fun s k => s.retakeAll (k / 256)) { s with faults := s.faults.filter (fun p => used p.1) }

end Sys2Proof.Machine
end

