-- ==== Sys2Proof/Machine/Special.lean ====
section
/-!
DEFINITION. Index registers, launch constants and special registers: XSET, XOFF, XINC, LDK, MFS and MTS
(R72, R90, R101, R109 to R113).
-/
namespace Sys2Proof.Machine

/-- An index register value (Table 12.2). -/
def xWord (base len off : Nat) : Word := BitVec.ofNat 32 (base % 256 + len % 256 * 256 + off % 65536 * 65536)

/-- OFF after an addition: held at 65,535 when it falls out of range (R110). -/
def clampOff (x : Int) : Nat := if x < 0 ∨ 65535 < x then 65535 else x.toNat

/-- XSET (R110): ALLOC is what it was before the chain (R25). -/
def execXset (ctl : Ctl) (x : BitVec 2) (l : RegField) (i : BitVec 8) (s : State) : Host.Outcome State Fault Refusal :=
  next (branchWord s (wordInfo (.xset ctl x l i)) noneBusy (fun s is c =>
    let w := xWord i.toNat (4 * l.toNat) 0
    if (s.chainBase is).alloc < i.toNat + 4 * l.toNat then .trap ⟨0x007, is.pc, w⟩
    else .next (c.putX (s.now is.core) x.toNat w)))

/-- XOFF (R110). -/
def execXoff (ctl : Ctl) (x : BitVec 2) (a : RegField) (i : BitVec 8) (s : State) : Host.Outcome State Fault Refusal :=
  next (threadWord s (wordInfo (.xoff ctl x a i)) noneBusy (fun s is c =>
    let now := s.now is.core
    let w := c.readX now x.toNat
    c.putX now x.toNat (xWord (xBase w) (xLen w) (clampOff ((c.rd now a 0).toInt + i.toInt)))))

/-- XINC (R110). -/
def execXinc (ctl : Ctl) (x : BitVec 2) (i : BitVec 8) (s : State) : Host.Outcome State Fault Refusal :=
  next (threadWord s (wordInfo (.xinc ctl x i)) noneBusy (fun s is c =>
    let now := s.now is.core
    let w := c.readX now x.toNat
    c.putX now x.toNat (xWord (xBase w) (xLen w) (clampOff ((xOff w : Int) + i.toInt)))))

/-- Word n of a launch's constant block, which admission fixed (R72): 0 beyond the declared length, but for the words
that carry the header addresses of its named rings (R211). -/
def State.constWord (s : State) (c : Ctx) (n : Nat) : Word :=
  let l := s.launchFor c
  if 1008 ≤ n ∧ n < 1024 ∧ (n - 1008) / 2 < l.rings.length then
    let h := l.rings.getD ((n - 1008) / 2) 0
    if n % 2 = 0 then h.setWidth 32 else (h >>> 32).setWidth 32
  else l.constants.getD n 0

/-- LDK (R72, R111). -/
def execLdk (ctl : Ctl) (d : RegField) (i : BitVec 16) (s : State) : Host.Outcome State Fault Refusal :=
  next (threadWord s (wordInfo (.ldk ctl d i)) noneBusy (fun s is c =>
    c.wr (s.now is.core) 2 d 0 (s.constWord c i.toNat)))

/-- A half of a 64-bit register. -/
def lowHalf (x : DWord) : Word := x.setWidth 32
/-- The other half. -/
def highHalf (x : DWord) : Word := (x >>> 32).setWidth 32
/-- The register with its low half written. -/
def withLow (x : DWord) (w : Word) : DWord := highHalf x ++ w
/-- The register with its high half written. -/
def withHigh (x : DWord) (w : Word) : DWord := w ++ lowHalf x

/-- The handle of a task (R185): its entry and the entry's generation. -/
def State.handle (s : State) (entry : Nat) : Word :=
  BitVec.ofNat 32 (entry % 2 ^ 14 + s.gens.getD entry 0 % 2 ^ 16 * 2 ^ 14)

/-- Bits [2:0] of a convergence register (Table 12.3): cv is the register's own state, and operations numbered from
first on do not count. -/
def State.cvBits (s : State) (block n first : Nat) (cv : Conv) : Word :=
  let pending := s.ops.any (fun p => decide (p.1 < first) && decide (p.2.block = block) && (match p.2.kind with
    | .matrix m => decide (m.cv = n)
    | _ => false))
  BitVec.ofNat 32 (cv.declared.toNat + 2 * (!cv.signed.isEmpty).toNat + 4 * pending.toNat)

/-- Virtual address of a block's scratchpad (R260). -/
def scratchVirtual (b : Block) : DWord :=
  BitVec.ofNat 64 (0x00F0000000000000 + b.scratchCore * 0x4000000 + 0x400000 + b.scratchOff)

/-- The registers of Table 12.3 that MTS writes, and those of R90 on a steward, as they stand. -/
def State.writable (s : State) (c : Ctx) (n : Nat) : Word :=
  let w := s.steward (c.core - 192)
  if n = 0x16 then c.fmode
  else if n = 0x17 then c.fstat
  else if n = 0x40 then lowHalf c.tpc
  else if n = 0x41 then highHalf c.tpc
  else if n = 0x43 then lowHalf c.faddr
  else if n = 0x44 then highHalf c.faddr
  else if n = 0x45 then c.finfo
  else if n = 0x100 then w.spart.setWidth 32
  else if n = 0x102 then lowHalf w.svec
  else if n = 0x103 then highHalf w.svec
  else if 0x38 ≤ n ∧ n < 0x3C then (if isSteward c.core then 0 else c.path.getD (n - 0x38) 0)
  else 0

/-- The launch number that LAUNCH reads: of a task that a PROP runs, that of the trace's launch
(DESIGN CHOICE, log entry 69). -/
def State.launchNumberOf (s : State) (c : Ctx) : Nat :=
  match (s.launchFor c).prop with
  | some k => (s.traces.getD k {}).launch
  | none => (s.block c.block).launch

/-- CLASS as the launch's kernel declares it, in a spawned block of another kernel too (Table 12.3; DEDUCED, log entry 62). -/
def Launch.classWord (l : Launch) : Word :=
  BitVec.ofNat 32 (l.kernel.tclass + 4 * l.kernel.gclass + 16 * l.kernel.bclass)

/-- The registers of Table 12.3 that no MTS writes. ch holds what the group's and the launch's registers held before the
chain (R25). -/
def State.readOnly (s : State) (c : Ctx) (ch : Chain) (n : Nat) : Word :=
  let b := s.block c.block
  let l := s.launchFor c
  let st := isSteward c.core
  let num := fun k : Nat => (BitVec.ofNat 32 k : Word)
  if n = 0x00 then num c.tid
  else if n = 0x01 then num c.lane
  else if n = 0x02 then num c.slot
  else if n = 0x03 then num ((b.nthr + 31) / 32)
  else if n = 0x04 then num b.nthr
  else if n = 0x05 then num b.bx
  else if n = 0x06 then num b.by'
  else if n = 0x07 then num b.bz
  else if n = 0x08 then num l.nbx
  else if n = 0x09 then num l.nby
  else if n = 0x0A then num l.nbz
  else if n = 0x0B then num (if st then 255 else c.core)
  else if n = 0x0C then num (if st then 255 else c.core / 4)
  else if n = 0x0D then num (if st then c.core - 192 else c.core / 48)
  else if n = 0x0E then num s.dev
  else if n = 0x0F then num (s.launchNumberOf c)
  else if n = 0x10 then (if st then 0 else s.handle b.task)
  else if n = 0x11 then l.classWord
  else if n = 0x12 then num ch.alloc
  else if n = 0x13 then num (if st then 0 else ch.budget)
  else if n = 0x14 then lowHalf ch.tags
  else if n = 0x15 then highHalf ch.tags
  else if n = 0x18 then lowHalf (BitVec.ofNat 64 (s.now c.core))
  else if n = 0x19 then c.cycHi
  else if n = 0x1A then num l.step
  else if n = 0x1B then lowHalf c.tls
  else if n = 0x1C then highHalf c.tls
  else if n = 0x1D then (if st then 0 else lowHalf (scratchVirtual b))
  else if n = 0x1E then (if st then 0 else highHalf (scratchVirtual b))
  else if 0x20 ≤ n ∧ n < 0x28 then ch.rj.getD (n - 0x20) 0
  else if 0x28 ≤ n ∧ n < 0x38 then s.cvBits c.block (n - 0x28) ch.firstOp (ch.cv.getD (n - 0x28) {})
  else if n = 0x42 then c.fcause
  else if 0x50 ≤ n ∧ n < 0x53 then ch.sac.getD (n - 0x50) 0
  else 0

/-- The value a special register shows to a word issued at cycle now: what an MTS wrote less than two cycles ago is
not seen (R113). -/
def State.special (s : State) (is : Issue) (c : Ctx) (n : Nat) : Word :=
  let now := s.now is.core
  if 0x3C ≤ n ∧ n < 0x40 then c.readX now (n - 0x3C)
  else if n = 0x17 then c.readFstat now
  else if isWritable n then lookEarly c.early (.sp n) now (s.writable c n)
  else s.readOnly c (s.chainBase is) n
where
  /-- The number is one that MTS writes (R90). -/
  isWritable (n : Nat) : Bool :=
    [0x16, 0x40, 0x41, 0x43, 0x44, 0x45, 0x100, 0x102, 0x103, 0x38, 0x39, 0x3A, 0x3B].contains n

/-- The variable-latency results that a special register's reader or writer waits for (R113): FSTAT those of class F
words, PATHn those of TWALK. -/
def specialBusy (n : Nat) (o : Op) : Bool :=
  match o.kind with
  | .result _ path flags => (decide (n = 0x17) && flags != 0) ||
      (match path with | some (p, _) => decide (n = 0x38 + p) | none => false)
  | .walk _ path => decide (n = 0x38 + path.1)
  | _ => false

/-- The results in flight that a word's implicit operands are: those of the special register it names (R21). -/
def busyOf : Instr → Op → Bool
  | .mfs _ _ h l => specialBusy (specialNumber h l)
  | .mts _ h l _ => specialBusy (specialNumber h l)
  | .twalk _ _ _ p => specialBusy (0x38 + p.toNat)
  | _ => noneBusy

/-- MFS (R112, R113): CYCLO latches the high half of the counter. -/
def execMfs (ctl : Ctl) (d h l : RegField) (s : State) : Host.Outcome State Fault Refusal :=
  next (threadWord s (wordInfo (.mfs ctl d h l)) (specialBusy (specialNumber h l)) (fun s is c =>
    let n := specialNumber h l
    let now := s.now is.core
    let v := s.special is c n
    let c := if n = 0x18 then { c with cycHi := highHalf (BitVec.ofNat 64 now) } else c
    c.wr now 2 d 0 v))

/-- A register of the thread as MTS writes it, reserved fields left out (R42, R112, R113). -/
def Ctx.setSpecial (c : Ctx) (n : Nat) (w : Word) : Ctx :=
  if n = 0x16 then { c with fmode := w &&& 7 }
  else if n = 0x17 then { c with fstat := w &&& 63, pend := [] }
  else if 0x38 ≤ n ∧ n < 0x3C then { c with path := c.path.set (n - 0x38) (w &&& 0x800FFFFF) }
  else if n = 0x40 then { c with tpc := withLow c.tpc w }
  else if n = 0x41 then { c with tpc := withHigh c.tpc w }
  else if n = 0x43 then { c with faddr := withLow c.faddr w }
  else if n = 0x44 then { c with faddr := withHigh c.faddr w }
  else if n = 0x45 then { c with finfo := w }
  else c

/-- The result of an MTS as readers see it: old until two cycles have passed (R113). -/
def Ctx.lateSpecial (c : Ctx) (n : Nat) (old : Word) (now : Nat) : Ctx :=
  { c with early := ⟨.sp n, old, now, now + 2⟩ :: c.early.filter (fun e => e.tgt != .sp n) }

/-- MTS of one thread (R90, R113, R236). -/
def mtsThread (n : Nat) (b : RegField) (s : State) (is : Issue) (id : Nat) : State × Bool :=
  let c := s.ctx id
  let now := s.now is.core
  let w := c.rd now b 0
  let illegal := (s.trapAt id is.pc ⟨0x001, is.pc, is.word⟩, false)
  if 0x3C ≤ n ∧ n < 0x40 then
    if (s.chainBase is).alloc < xBase w + xLen w then (s.trapAt id is.pc ⟨0x007, is.pc, w⟩, false)
    else (s.updCtx id (fun c => c.putX now (n - 0x3C) w), true)
  else
    let late := s.updCtx id (fun c => (c.setSpecial n w).lateSpecial n (s.special is c n) now)
    let p := c.core - 192
    if n = 0x100 then
      if (s.parts.get? (w.toNat % 16)).isSome then (late.updSteward p (fun x => { x with spart := w.setWidth 4 }), true)
      else illegal
    else if n = 0x101 then
      let core := w.toNat / 2 ^ 8 % 256
      let entry := w.toNat % 256
      if (s.faults.get? (core * 256 + entry)).isSome && (s.parts.getD (s.partOf c) {}).quads.contains (core / 4) then
        (s.answerFault core entry w.msb, true)
      else illegal
    else if n = 0x102 then (late.updSteward p (fun x => { x with svec := withLow x.svec w }), true)
    else if n = 0x103 then (late.updSteward p (fun x => { x with svec := withHigh x.svec w }), true)
    else (late, true)

/-- The word that comes to FSTAT, with the cycles its chain has waited, before a flag update that has not landed. -/
def State.flagsPending (s : State) (is : Issue) : Bool :=
  let now := s.now is.core + (s.chainOf is).elim 0 (·.waited)
  is.cohort.any (fun id => (s.ctx id).pend.any (fun p => decide (now < p.ready)))

/-- What an MTS waits for, words of its own chain included (R23, R113): the variable-latency results that update its
register, and for FSTAT the updates of every earlier class F word of the thread. -/
def mtsWaits (n : Nat) (s : State) (is : Issue) : Option (Option Instr) :=
  match s.ops.find? (fun p => is.cohort.contains p.2.ctx && specialBusy n p.2) with
  | some (k, o) => some (completion k o)
  | none => if n = 0x17 ∧ s.flagsPending is then some none else none

/-- MTS (R112, R113). -/
def execMts (ctl : Ctl) (h l b : RegField) (s : State) : Host.Outcome State Fault Refusal :=
  next (s.holdFirst (mtsWaits (specialNumber h l)) (fun s =>
    foldWord s (wordInfo (.mts ctl h l b)) (specialBusy (specialNumber h l)) (mtsThread (specialNumber h l) b)))

end Sys2Proof.Machine
end

