-- ==== Sys2Proof/Machine/Tile.lean ====
section
/-!
DEFINITION. Tile descriptors and reservation records, the checks on them (R160 to R163, R167, R168, R171, R219), and the
elements of a tile.
-/
namespace Sys2Proof.Machine

/-- A tile descriptor (Table 16.2). -/
structure Tile where
  base : Nat
  space : Nat
  fmt : Nat
  rows : Nat
  cols : Nat
  stride : Nat
  record : Nat
  deriving DecidableEq, Repr

/-- Word i of a block of words. -/
def wordAt (l : List Word) (i : Nat) : Nat := (l.getD i 0).toNat

/-- The fields of a descriptor. -/
def tileOf (l : List Word) : Tile :=
  { base := wordAt l 0 + wordAt l 1 % 2 ^ 16 * 2 ^ 32
    space := wordAt l 1 / 2 ^ 16 % 16
    fmt := wordAt l 1 / 2 ^ 20 % 16
    rows := wordAt l 2 % 2 ^ 16
    cols := wordAt l 2 / 2 ^ 16
    stride := wordAt l 3 % 2 ^ 20
    record := wordAt l 3 / 2 ^ 20 % 2 ^ 6 }

/-- TDSET finds a reserved bit set or a code out of range (R162). -/
def tileIllegal (l : List Word) : Bool :=
  let t := tileOf l
  decide (wordAt l 1 / 2 ^ 24 ≠ 0) || decide (wordAt l 3 / 2 ^ 26 % 32 ≠ 0) || decide (5 < t.space) ||
    decide (12 < t.fmt) || decide (15 < t.record)

/-- A reservation record (Table 16.3). -/
structure Record where
  base : Nat
  weight : Bool
  len : Nat
  fmt : Nat
  blen : Nat
  scoff : Nat
  ssoff : Nat
  flagoff : Nat
  deriving DecidableEq, Repr

/-- The fields of a record. -/
def recordFields (l : List Word) : Record :=
  { base := wordAt l 0 % 2 ^ 24
    weight := decide (2 ^ 31 ≤ wordAt l 0)
    len := wordAt l 1 % 2 ^ 24
    fmt := wordAt l 2 % 16
    blen := wordAt l 2 / 2 ^ 8 % 2 ^ 8
    scoff := wordAt l 2 / 2 ^ 16
    ssoff := wordAt l 3 % 2 ^ 16
    flagoff := wordAt l 3 / 2 ^ 16 }

/-- Bytes of the element or code area of a record (R163). -/
def Record.area (r : Record) : Nat :=
  if r.fmt = 9 then r.scoff * 16
  else if fmtFlagged r.fmt ∧ r.blen = 64 then r.flagoff * 16
  else r.len

/-- The areas a record's format uses, as offsets and lengths from the range base. -/
def Record.areas (r : Record) : List (Nat × Nat) :=
  if r.fmt = 9 then
    let e := 2 * r.area
    [(0, r.area), (r.scoff * 16, e / 64), (r.ssoff * 16, 4 * ((e + 16383) / 16384))]
  else if fmtFlagged r.fmt ∧ r.blen = 64 then
    let e := r.area / fmtBytes r.fmt
    [(0, r.area), (r.flagoff * 16, (e + 511) / 512)]
  else [(0, r.len)]

/-- Two ranges share a byte. -/
def overlaps (a b : Nat × Nat) : Bool := decide (a.1 < b.1 + b.2) && decide (b.1 < a.1 + a.2)

/-- No two of a list of ranges share a byte. -/
def disjoint : List (Nat × Nat) → Bool
  | [] => true
  | a :: t => t.all (fun b => !overlaps a b) && disjoint t

/-- OBRES's own checks that need nothing but the words (R163): the code, DESCRIPTOR_INVALID or OB_RANGE. -/
def recordIllegal (l : List Word) : Bool :=
  let r := recordFields l
  decide (wordAt l 0 / 2 ^ 24 % 2 ^ 7 ≠ 0) || decide (wordAt l 1 / 2 ^ 24 ≠ 0) || decide (wordAt l 2 / 2 ^ 4 % 16 ≠ 0) ||
    decide (12 < r.fmt) || decide (r.blen ≠ 0 ∧ r.blen ≠ 64)

/-- The range or its areas break R163 (OB_RANGE, code 6). -/
def recordRange (r : Record) : Bool :=
  decide (r.base % 64 ≠ 0 ∨ r.len % 64 ≠ 0 ∨ r.len = 0) ||
    decide ((if r.weight then 512 else 256) * 1024 < r.base + r.len) ||
    !(r.areas.all (fun a => decide (a.1 + a.2 ≤ r.len))) || !disjoint r.areas || decide (r.area = 0)

/-- Bytes of a row of a tile. -/
def Tile.rowBytes (t : Tile) : Nat := (t.cols * fmtBits t.fmt + 7) / 8

/-- The byte offset, from a row's start, just past the tile's last row. -/
def Tile.extent (t : Tile) : Nat := (t.rows - 1) * t.stride + t.rowBytes

/-- A cause with its detail code and descriptor or record number (R160). -/
structure Detail where
  cause : BitVec 10
  code : Nat
  num : Nat
  deriving DecidableEq, Repr

/-- DESCRIPTOR_INVALID. -/
def invalid (code num : Nat) : Detail := ⟨0x300, code, num⟩
/-- OB_RANGE. -/
def obRange (code num : Nat) : Detail := ⟨0x302, code, num⟩

/-- The trap of a detail at a word. -/
def Detail.trap (d : Detail) (pc : DWord) : Trap := ⟨d.cause, pc, BitVec.ofNat 32 (d.code + d.num % 32 * 256)⟩

/-- The first check that fails. -/
def firstOf (l : List (Bool × Detail)) : Option Detail := (l.find? (·.1)).map (·.2)

/-- Descriptor n of a block. -/
def Block.tile (b : Block) (n : Nat) : Tile := tileOf (b.td.getD n [])

/-- Registers of a signer hold a row in REG space. -/
def regRow (s : State) (t : Tile) (id : Nat) : Bool :=
  decide (t.base + (t.rowBytes + 3) / 4 ≤ (s.groupOf (s.ctx id)).alloc)

/-- The tile breaks its region or its alignment (code 6), spaces 2 and 3 apart. Bases of spaces 4 and 5 count rows and
registers (DEDUCED, log entry 20). -/
def tileRegion (s : State) (b : Block) (set : List Nat) (t : Tile) : Bool :=
  let z := fmtBytes t.fmt
  let at' := decide (t.base % z ≠ 0)
  decide (t.stride % z ≠ 0) ||
    (match t.space with
     | 0 => at'
     | 1 => at' || decide (b.kernel.scratch < t.base + t.extent)
     | 4 => decide (t.stride ≠ 0) || decide (1024 < t.base + t.rows) || decide (512 < t.rowBytes)
     | 5 => !set.all (regRow s t)
     | _ => at')

/-- The tile's record check (R163): none for tiles outside the buffers. num is the descriptor's number. -/
def tileRecord (b : Block) (t : Tile) : Option Detail :=
  if t.space ≠ 2 ∧ t.space ≠ 3 then none
  else
    match b.recs.get? t.record with
    | none => some (obRange 2 t.record)
    | some l =>
      let r := recordFields l
      firstOf [
        (decide (r.weight ≠ decide (t.space = 3)) || decide (r.fmt ≠ t.fmt), obRange 2 t.record),
        (decide (t.base < r.base) || decide (r.base + r.area < t.base + t.extent), obRange 1 t.record)]

/-- The record a buffer tile names; an empty one where it names none. -/
def Block.recordOf (b : Block) (t : Tile) : Record := recordFields (b.recs.getD t.record [])

/-- The NQ4 conditions of R47, and the block length of a flagged B record (code 7). -/
def nqBroken (b : Block) (t : Tile) : Bool :=
  let r := b.recordOf t
  if t.fmt = 9 then
    decide ((t.base + 2 ^ 24 * 32 - r.base) % 32 ≠ 0) || decide (t.stride % 32 ≠ 0) || decide (t.cols % 64 ≠ 0)
  else fmtFlagged t.fmt && decide (r.blen = 0)

/-- The limits on N and K of a format as B (Table 16.4): code 5. That K of NQ4 is a multiple of 64 is code 7 (R47). -/
def shapeB (t : Tile) : Bool :=
  let n := if t.fmt = 10 then 64 else 128
  let k := if t.fmt = 10 then 4 else if t.fmt = 9 then 1 else 16
  decide (t.rows = 0 ∨ n < t.rows ∨ t.cols = 0 ∨ 65520 < t.cols ∨ t.cols % k ≠ 0)

/-- The stride of a flagged B keeps its blocks in a row (R164): code 6. -/
def strideB (t : Tile) : Bool := fmtFlagged t.fmt && decide (t.stride % (64 * fmtBytes t.fmt) ≠ 0)

/-- The checks on B alone, as WBLOAD makes them (R164). -/
def checkB (s : State) (b : Block) (n : Nat) : Option Detail :=
  let t := b.tile n
  (firstOf [
    (decide (t.space ≠ 3), invalid 3 n),
    (decide (10 < t.fmt), invalid 4 n),
    (shapeB t, invalid 5 n),
    (tileRegion s b [] t || strideB t, invalid 6 n)]).or
  ((tileRecord b t).or (firstOf [(nqBroken b t, invalid 7 n)]))

/-- Formats that may meet (Table 16.4). -/
def combination (a b c : Nat) : Bool :=
  match a with
  | 3 => (b = 3 || b = 4 || b = 9) && c = 0
  | 4 => (b = 3 || b = 4 || b = 9) && c = 0
  | 1 => (b = 1 || b = 9) && c = 0
  | 2 => (b = 2 || b = 9) && c = 0
  | 0 => b = 0 && c = 0
  | 10 => b = 10 && c = 10
  | 5 => (b = 5 || b = 6) && c = 11
  | 6 => (b = 5 || b = 6) && c = 11
  | 7 => b = 7 && c = 11
  | 8 => b = 8 && c = 11
  | _ => false

/-- The integer mode fits A's format; floating-point formats ignore it. -/
def modeFits (a mode : Nat) : Bool :=
  if a = 8 then decide (2 ≤ mode) else if fmtFloat a then true else decide (mode ≤ 1)

/-- .SPARSE is allowed with A's format. -/
def sparseFits (a : Nat) : Bool := decide (1 ≤ a ∧ a ≤ 7)

/-- The packed value of MMA (R167). -/
structure Packed where
  m : Nat
  meta' : Nat
  c : Nat
  b : Nat
  a : Nat
  deriving DecidableEq, Repr

/-- Its fields. -/
def packedOf (w : Word) : Packed :=
  ⟨w.toNat / 2 ^ 20 % 2 ^ 10, w.toNat / 2 ^ 15 % 32, w.toNat / 2 ^ 10 % 32, w.toNat / 2 ^ 5 % 32, w.toNat % 32⟩

/-- The checks of MMA (R167, R168) over the signer set, in the order of their codes (DEDUCED, log entry 20). -/
def checkMma (s : State) (b : Block) (set : List Nat) (w : Word) (modes : Nat) : Option Detail :=
  let p := packedOf w
  let sparse := decide (modes / 2 % 2 = 1)
  let mode := modes / 4 % 4
  let A := b.tile p.a
  let B := b.tile p.b
  let C := b.tile p.c
  let M := b.tile p.meta'
  let k := B.cols
  let beyond := fun n => decide (b.kernel.tiles ≤ n)
  (firstOf [
    (decide (2 ^ 30 ≤ w.toNat), invalid 2 31),
    (beyond p.a, invalid 1 p.a), (beyond p.b, invalid 1 p.b), (beyond p.c, invalid 1 p.c),
    (sparse && beyond p.meta', invalid 1 p.meta'),
    (decide (A.space ≠ 1 ∧ A.space ≠ 2 ∧ A.space ≠ 5), invalid 3 p.a), (decide (B.space ≠ 3), invalid 3 p.b),
    (decide (C.space ≠ 4), invalid 3 p.c),
    (sparse && decide (M.space ≠ 1 ∧ M.space ≠ 2), invalid 3 p.meta'),
    (!combination A.fmt B.fmt C.fmt || !modeFits A.fmt mode || (sparse && !sparseFits A.fmt), invalid 4 31),
    (sparse && decide (M.fmt ≠ 12), invalid 4 p.meta'),
    (decide (p.m = 0 ∨ 512 < p.m ∨ A.rows ≠ p.m ∨ A.cols ≠ (if sparse then k / 2 else k)) ||
      (decide (A.space = 5) && decide (p.m ≠ set.length)), invalid 5 p.a),
    (shapeB B, invalid 5 p.b),
    (decide (C.rows ≠ p.m ∨ C.cols ≠ B.rows), invalid 5 p.c),
    (sparse && decide (M.rows ≠ p.m ∨ M.cols ≠ k / 4), invalid 5 p.meta'),
    (tileRegion s b set A, invalid 6 p.a), (tileRegion s b set B || strideB B, invalid 6 p.b),
    (tileRegion s b set C, invalid 6 p.c),
    (sparse && (tileRegion s b set M || decide (M.base % 64 ≠ 0 ∨ M.stride % 16 ≠ 0 ∨ M.stride < k / 8)),
      invalid 6 p.meta')]).or
  ((tileRecord b A).or ((tileRecord b B).or
    ((firstOf [(nqBroken b B, invalid 7 p.b)]).or (if sparse then tileRecord b M else none))))

/-- The source and destination descriptors of MDRAIN's packed value (R171). -/
def drainTiles (w : Word) : Nat × Nat := (w.toNat % 32, w.toNat / 32 % 32)

/-- The accumulator and destination formats that fit an output format code (Table 16.5). -/
def drainFits (code acc dst : Nat) : Bool :=
  match code with
  | 0 => (acc = 0 && dst = 0) || (acc = 10 && dst = 10)
  | 1 => acc = 0 && dst = 1
  | 2 => acc = 0 && dst = 2
  | 3 => acc = 0 && dst = 3
  | 4 => acc = 11 && dst = 11
  | _ => acc = 11 && dst = 5

/-- The checks of MDRAIN (R66, R171). -/
def checkDrain (s : State) (b : Block) (set : List Nat) (w : Word) (modes : Nat) : Option Detail :=
  let (n, e) := drainTiles w
  let add := decide (modes % 2 = 1)
  let code := modes / 2 % 8
  let A := b.tile n
  let D := b.tile e
  let first := D.base + (if D.space = 1 then (scratchVirtual b).toNat else 0)
  (firstOf [
    (decide (w.toNat / 2 ^ 10 ≠ 0), invalid 2 31),
    (decide (b.kernel.tiles ≤ n), invalid 1 n), (decide (b.kernel.tiles ≤ e), invalid 1 e),
    (decide (A.space ≠ 4), invalid 3 n),
    (decide (D.space = 3 ∨ D.space = 4) || (add && decide (1 < D.space)), invalid 3 e),
    (!drainFits code A.fmt D.fmt || (add && decide (code ≠ 0 ∧ code ≠ 4)), invalid 4 e),
    (decide (A.rows = 0 ∨ A.cols = 0), invalid 5 n),
    (decide (D.rows ≠ A.rows ∨ D.cols ≠ A.cols) || (decide (D.space = 5) && decide (D.rows ≠ set.length)), invalid 5 e),
    (tileRegion s b set A, invalid 6 n), (tileRegion s b set D, invalid 6 e)]).or
  ((tileRecord b D).or
    (firstOf [(add && (decide (16384 < D.rows * D.rowBytes) ||
      decide (first / 65536 ≠ (first + D.extent - 1) / 65536)), invalid 8 e)]))

/-- The byte of row i and byte offset o of a tile in a space other than virtual: its physical address. Register tiles
have none. -/
def tileAddr (b : Block) (core : Nat) (t : Tile) (i o : Nat) : Nat :=
  match t.space with
  | 1 => scratchBase b.scratchCore + b.scratchOff + t.base + i * t.stride + o
  | 2 => obBase core + t.base + i * t.stride + o
  | 3 => wbBase core + t.base + i * t.stride + o
  | _ => accBase core + (t.base + i) * 512 + o

/-- A byte of a tile: register tiles take row i from the i-th signer (R161). -/
def tileByte (s : State) (b : Block) (core : Nat) (set : List Nat) (t : Tile) (i o : Nat) : Byte :=
  if t.space = 5 then
    byteOf ((s.ctx (set.getD i 0)).v.getD (t.base + o / 4) 0).toNat (o % 4)
  else s.mem.read (tileAddr b core t i o)

/-- The bytes of a tile, row by row. -/
def tileBytes (s : State) (b : Block) (core : Nat) (set : List Nat) (t : Tile) : List Byte :=
  (List.range t.rows).flatMap (fun i => (List.range t.rowBytes).map (tileByte s b core set t i))

/-- Element (i, j) of a tile, as a pattern (R41, R161). -/
def tileElem (s : State) (b : Block) (core : Nat) (set : List Nat) (t : Tile) (i j : Nat) : Nat :=
  let n := fmtBits t.fmt
  if n < 8 then (tileByte s b core set t i (j * n / 8)).toNat / 2 ^ (j * n % 8) % 2 ^ n
  else ofBytes ((List.range (n / 8)).map (fun k => tileByte s b core set t i (j * (n / 8) + k)))

/-- Where the rows of a tile lie: physical address and length. -/
def tileRows (b : Block) (core : Nat) (t : Tile) : List (Nat × Nat) :=
  if t.space = 5 ∨ t.space = 0 then []
  else (List.range t.rows).map (fun i => (tileAddr b core t i 0, t.rowBytes))

/-- The key of an accumulator row's saturation bit. -/
def satKey (core row : Nat) : Nat := core * 1024 + row

/-- The saturation bits of an accumulator tile's rows, set or cleared. -/
def State.clearSat (s : State) (core : Nat) (t : Tile) : State :=
  { s with sat := s.sat.filter (fun p => !(decide (satKey core t.base ≤ p.1) && decide (p.1 < satKey core t.base + t.rows))) }

/-- SAT of TDGET (Table 16.2), over the tile's rows that the core has. -/
def State.tileSat (s : State) (core : Nat) (t : Tile) : Bool :=
  decide (t.space = 4) && (List.range t.rows).any (fun i => decide (t.base + i < 1024) && s.sat.getD (satKey core (t.base + i)) false)

end Sys2Proof.Machine
end

