-- ==== Sys2Proof/Machine/Matrix.lean ====
section
/-!
DEFINITION. Descriptors, records, convergence registers, signing and waiting for matrix operations (R159 to R171), and
what the operations do when they complete.
-/
namespace Sys2Proof.Machine

/-- The source words of a word that acts once per issue: those of the lowest-lane thread (R159, R176). -/
def State.source (s : State) (is : Issue) (ids : List Nat) (a : RegField) (n : Nat) : List Word :=
  let c := s.ctx (ids.headD 0)
  (List.range n).map (fun i => c.rd (s.now is.core) a i)

/-- The block of the issuing threads, with its number. -/
def State.blockOf (s : State) (ids : List Nat) : Nat × Block :=
  let n := (s.ctx (ids.headD 0)).block
  (n, s.block n)

/-- Result registers written in every thread of an issue (R159). -/
def State.writeAll (s : State) (is : Issue) (ids : List Nat) (d : RegField) (l : List Word) : State :=
  let now := s.now is.core
  s.mapCtxs ids (fun c =>
    let r := c.resolve now d
    (l.zip (List.range l.length)).foldl (fun c p => c.setV (r + p.2) p.1) c)

/-- TDSET (R162). -/
def execTdset (ctl : Ctl) (t : BitVec 5) (a : RegField) (s : State) : Host.Outcome State Fault Refusal :=
  next (onceWord s (wordInfo (.tdset ctl t a)) noneBusy (fun s is ids =>
    let (k, b) := s.blockOf ids
    let l := s.source is ids a 4
    if b.kernel.tiles ≤ t.toNat then .trap ((invalid 1 t.toNat).trap is.pc)
    else if tileIllegal l then .trap ((invalid 2 t.toNat).trap is.pc)
    else .next (s.updBlock k (fun b => { b with td := b.td.set t.toNat (l.set 3 ((l.getD 3 0) &&& 0x7FFFFFFF)) })) ids))

/-- TDGET (R162). -/
def execTdget (ctl : Ctl) (d : RegField) (t : BitVec 5) (s : State) : Host.Outcome State Fault Refusal :=
  next (onceWord s (wordInfo (.tdget ctl d t)) noneBusy (fun s is ids =>
    let (_, b) := s.blockOf ids
    if b.kernel.tiles ≤ t.toNat then .trap ((invalid 1 t.toNat).trap is.pc)
    else
      let l := b.td.getD t.toNat [0, 0, 0, 0]
      let sat : Word := if s.tileSat is.core (tileOf l) then 0x80000000 else 0
      .next (s.writeAll is ids d (l.set 3 ((l.getD 3 0) ||| sat))) ids))

/-- The trap of a word that names a convergence register in vain: its number in FINFO. -/
def cvTrap (cause : BitVec 10) (pc : DWord) (n : Nat) : Trap := ⟨cause, pc, BitVec.ofNat 32 n⟩

/-- A context is in the signer set of a convergence register (R165). -/
def Conv.has (cv : Conv) (c : Ctx) : Bool :=
  cv.declared && decide (cv.core = c.core) && cv.groups.getLsbD c.slot && cv.lanes.getLsbD c.lane

/-- The signer set in signer order: ascending group slot, then lane (R161). -/
def State.signerSet (s : State) (block : Nat) (cv : Conv) : List Nat :=
  (List.range 128).flatMap (fun g =>
    if cv.groups.getLsbD g then
      s.laneOrder ((s.group (groupKey cv.core g)).members.filter (fun id =>
        (s.ctx id).block = block && cv.lanes.getLsbD (s.ctx id).lane))
    else [])

/-- Convergence register n of a block. -/
def Block.conv (b : Block) (n : Nat) : Conv := b.cv.getD n {}

/-- An operation issued under a convergence register of a block has not completed (CV bit 2). -/
def State.convBusy (s : State) (block n : Nat) : Bool :=
  s.ops.any (fun p => decide (p.2.block = block) && (match p.2.kind with
    | .matrix m => decide (m.cv = n)
    | _ => false))

/-- CVSET (R165): a busy register is reported before a mask that is wrong too (DESIGN CHOICE, log entry 133). -/
def execCvset (ctl : Ctl) (a : RegField) (v : BitVec 4) (s : State) : Host.Outcome State Fault Refusal :=
  next (onceWord s (wordInfo (.cvset ctl a v)) noneBusy (fun s is ids =>
    let (k, b) := s.blockOf ids
    let l := s.source is ids a 5
    let mask : BitVec 128 := BitVec.ofNat 128
      (wordAt l 0 + wordAt l 1 * 2 ^ 32 + wordAt l 2 * 2 ^ 64 + wordAt l 3 * 2 ^ 96)
    let lanes := l.getD 4 0
    let bad := (List.range 128).any (fun g => mask.getLsbD g &&
      (match s.groups.get? (groupKey is.core g) with | some g => decide (g.block ≠ k) | none => true))
    if b.kernel.cvs ≤ v.toNat ∨ ((b.conv v.toNat).declared ∧ (b.conv v.toNat).core ≠ is.core) then
      .trap (cvTrap 0x301 is.pc v.toNat)
    else if !(b.conv v.toNat).signed.isEmpty || s.convBusy k v.toNat then .trap (cvTrap 0x307 is.pc v.toNat)
    else if mask = 0 ∨ lanes = 0 ∨ bad then .trap ((invalid 11 31).trap is.pc)
    else .next (s.updBlock k (fun b =>
      { b with cv := b.cv.set v.toNat { declared := true, core := is.core, groups := mask, lanes := lanes } })) ids))

/-- The oldest operation in flight that will write a thread's registers or memory for it. -/
def State.oldestWrite (s : State) (id : Nat) : Option Instr :=
  (s.ops.find? (fun p => decide (p.2.ctx = id) && (p.2.isStore || !p.2.dst.isEmpty))).bind (fun p => completion p.1 p.2)

/-- OFENCE (R165): holds the run until the threads' earlier writes, those to registers included, have been performed
(DESIGN CHOICE, log entry 13). -/
def execOfence (ctl : Ctl) (s : State) : Host.Outcome State Fault Refusal :=
  next (s.holdFirst (fun s is => (is.cohort.findSome? s.oldestWrite).map some) (fun s =>
    threadWord s (wordInfo (.ofence ctl)) noneBusy (fun _ _ c => c)))

/-- What an operation reads and where it writes: the bytes it holds at issue (R64) (DESIGN CHOICE, log entry 91). -/
def State.opBytes (s : State) (core : Nat) (b : Block) (m : MatOp) : List Byte :=
  let t := fun l => tileBytes s b core m.signers (tileOf l)
  let d := fun l => if (tileOf l).space = 0 then [] else t l
  if m.drain then t m.a ++ d m.c
  else t m.a ++ t m.b ++ t m.c ++ (if m.meta' = [] then [] else t m.meta')

/-- The parts of n bytes from an address on that lie in one 64 KiB page each: address and length. -/
def pageParts (a n : Nat) : List (Nat × Nat) :=
  (List.range ((a % 2 ^ 16 + n + 2 ^ 16 - 1) / 2 ^ 16)).map (fun i =>
    let lo := Nat.max a ((a / 2 ^ 16 + i) * 2 ^ 16)
    (lo, Nat.min (a + n) ((a / 2 ^ 16 + i + 1) * 2 ^ 16) - lo))

/-- Where the rows of a virtual tile that translate for a write lie, page by page. -/
def State.virtualRows (s : State) (part : Nat) (t : Tile) : List (Nat × Nat) :=
  ((List.range t.rows).flatMap (fun i => pageParts (t.base + i * t.stride) t.rowBytes)).filterMap (fun p =>
    match s.translate part p.1 needW with
    | .ok pa _ _ => some (pa, p.2)
    | _ => none)

/-- The registers that the rows of a register tile lie in, with what they hold: row i is the i-th signer's (R161). -/
def State.tileRegs (s : State) (set : List Nat) (t : Tile) : List (Nat × Nat × Word) :=
  if t.space ≠ 5 then []
  else set.flatMap (fun id => (List.range ((t.rowBytes + 3) / 4)).map (fun i =>
    (id, t.base + i, (s.ctx id).v.getD (t.base + i) 0)))

/-- A register element of a signer written: row i goes to the i-th signer (R161). -/
def State.putReg (s : State) (m : MatOp) (t : Tile) (i j x : Nat) : State :=
  let n := fmtBytes t.fmt
  let o := j * n
  s.updCtx (m.signers.getD i 0) (fun c =>
    (toBytes n x).zip (List.range n) |>.foldl (fun c p =>
      let k := t.base + (o + p.2) / 4
      c.setV k (BitVec.ofNat 32 (ofBytes ((toBytes 4 (c.v.getD k 0).toNat).set ((o + p.2) % 4) p.1)))) c)

/-- Every element of a tile, by row and column. -/
def Tile.cells (t : Tile) : List (Nat × Nat) :=
  (List.range t.rows).flatMap (fun i => (List.range t.cols).map (fun j => (i, j)))

/-- A free pattern for an element (R64, R169, R171). -/
def State.freshElem (s : State) (n : Nat) : Nat × State :=
  (ofBytes ((List.range n).map (fun i => Config.freeByte (s.free + i))), { s with free := s.free + n })

/-- Destination registers of a drain are undefined from its issue until the MWAIT that delivers its results (R64). -/
def State.freeRegs (s : State) (m : MatOp) : State :=
  let D := tileOf m.c
  if m.drain && decide (D.space = 5) then
    D.cells.foldl (fun s p =>
      let r := s.freshElem (fmtBytes D.fmt)
      r.2.putReg m D p.1 p.2 r.1) s
  else s

/-- The operation that the last signature under CVn of a block issues (R166): descriptors as they stand. -/
def State.newMatOp (s : State) (block n core part : Nat) (drain : Bool) (w : Word) (modes : Nat) : MatOp :=
  let b := s.block block
  let td := fun k => b.td.getD k [0, 0, 0, 0]
  let set := s.signerSet block (b.conv n)
  let p := packedOf w
  let (x, y) := drainTiles w
  let a := td (if drain then x else p.a)
  let c := td (if drain then y else p.c)
  let m : MatOp :=
    { drain := drain, cv := n, signers := set, modes := modes
      a := a, b := if drain then [] else td p.b, c := c
      meta' := if !drain && decide (modes / 2 % 2 = 1) then td p.meta' else []
      metaTd := p.meta'
      m := if drain then (tileOf a).rows else p.m
      seen := []
      outs := (if (tileOf c).space = 0 then s.virtualRows part (tileOf c) else tileRows b core (tileOf c)) ++
        (if drain then tileRows b core (tileOf a) else [])
      ins := [], held := [] }
  { m with ins := if drain then [] else [m.a, m.b, m.meta'].flatMap (fun l => tileRows b core (tileOf l)) }

/-- A signed operation is issued: it enters the core's matrix queue (R166, R216). -/
def State.issueMatOp (s : State) (is : Issue) (id n : Nat) (drain : Bool) (w : Word) (modes : Nat) : State :=
  let c := s.ctx id
  let m := s.newMatOp c.block n is.core (s.partOf c) drain w modes
  let s := s.freeRegs m
  let m := { m with
    seen := s.opBytes is.core (s.block c.block) m
    held := [m.a, m.b, m.c].flatMap (fun l => s.tileRegs m.signers (tileOf l)) }
  let o : Op :=
    { core := is.core, ctx := id, grp := is.key, block := c.block, launch := (s.block c.block).launch
      pc := is.pc, kind := .matrix m }
  let k := s.nextOp
  ((s.addOp o).updCore is.core (fun x => { x with matQ := x.matQ ++ [k] })).updBlock c.block (fun b =>
    { b with cv := b.cv.adjust n (fun v => { v with signed := [], packed := 0, modes := 0 }) })

/-- The granules of a tile's rows in memory: address and length of each row's part. -/
def Tile.pieces (t : Tile) : List (Nat × Nat) :=
  (List.range t.rows).flatMap (fun i =>
    let a := t.base + i * t.stride
    (granules a t.rowBytes).map (fun g =>
      (Nat.max a (g * 64), Nat.min (a + t.rowBytes) (g * 64 + 64) - Nat.max a (g * 64))))

/-- A PUT of a traced task to modifiable memory is recorded; an .ADD there is refused (R159, R197). The outcome is the
state with the writes recorded, or the trap. What does not translate yet is recorded when it is written. -/
def State.traceDrain (s : State) (c : Ctx) (pc : DWord) (D : Tile) (add : Bool) : State ⊕ Trap :=
  if D.space ≠ 0 ∨ !s.isTraced c then .inl s
  else
    D.pieces.foldl (fun (r : State ⊕ Trap) q =>
      match r with
      | .inr t => .inr t
      | .inl s =>
        match s.translate (s.partOf c) q.1 needW with
        | .ok pa _ mod =>
          if mod && add then .inr ⟨0x382, pc, 0⟩ else s.recordAccess c mod true pa q.2 (BitVec.ofNat 64 q.1)
        | _ => .inl s) (.inl s)

/-- A write of modifiable memory that an engine makes for a traced task enters its record where it is not in it yet
(R197) (DESIGN CHOICE, log entry 118). -/
def State.traceLate (s : State) (c : Ctx) (mod : Bool) (pa n : Nat) : State :=
  match s.recordOf c with
  | some (k, r) => if mod then s.addWrite k r pa n else s
  | none => s

/-- A signature of one thread (R166) (DEDUCED, log entry 12). -/
def signThread (drain : Bool) (modes n : Nat) (a : RegField) (s : State) (is : Issue) (id : Nat) : State × Bool :=
  let c := s.ctx id
  let b := s.block c.block
  let cv := b.conv n
  let w := c.rd (s.now is.core) a 0
  let set := s.signerSet c.block cv
  let trap := fun t => (s.trapAt id is.pc t, false)
  if b.kernel.cvs ≤ n ∨ !cv.has c then trap (cvTrap 0x301 is.pc n)
  else if cv.signed.contains id then trap (cvTrap 0x307 is.pc n)
  else if cv.signed ≠ [] ∧ (cv.packed ≠ w ∨ cv.modes ≠ modes ∨ cv.drain ≠ drain) then trap ((invalid 10 31).trap is.pc)
  else
    match if drain then checkDrain s b set w modes else checkMma s b set w modes with
    | some d => trap (d.trap is.pc)
    | none =>
      match if drain then s.traceDrain c is.pc (b.tile (drainTiles w).2) (decide (modes % 2 = 1)) else .inl s with
      | .inr t => trap t
      | .inl s =>
        let s := s.updBlock c.block (fun b =>
          { b with cv := b.cv.adjust n (fun v =>
              { v with signed := v.signed ++ [id], packed := w, modes := modes, drain := drain }) })
        let signed := ((s.block c.block).conv n).signed
        if set.all (fun k => signed.contains k || !(s.ctx k).live) then
          (s.issueMatOp is id n drain w modes, true)
        else (s, true)

/-- The last signature finds the matrix queue full, so the run holds (R216): every live member that has yet to sign is
in the cohort. -/
def queueFull (n : Nat) (s : State) (is : Issue) : Option (Option Instr) :=
  let k := (s.ctx (is.cohort.headD 0)).block
  let cv := (s.block k).conv n
  let last := (s.signerSet k cv).all (fun id =>
    is.cohort.contains id || cv.signed.contains id || !(s.ctx id).live)
  match (s.core is.core).matQ with
  | [] => none
  | q :: _ => if 16 ≤ (s.core is.core).matQ.length ∧ cv.declared ∧ last then some (completion q (s.ops.getD q {})) else none

/-- MMA (R166 to R169). -/
def execMma (ctl : Ctl) (m : BitVec 4) (a : RegField) (v : BitVec 4) (s : State) : Host.Outcome State Fault Refusal :=
  next (s.holdFirst (queueFull v.toNat) (fun s =>
    foldWord s (wordInfo (.mma ctl m a v)) noneBusy (signThread false m.toNat v.toNat a)))

/-- MDRAIN (R171). -/
def execMdrain (ctl : Ctl) (m : BitVec 5) (a : RegField) (v : BitVec 4) (s : State) : Host.Outcome State Fault Refusal :=
  next (s.holdFirst (queueFull v.toNat) (fun s =>
    foldWord s (wordInfo (.mdrain ctl m a v)) noneBusy (signThread true m.toNat v.toNat a)))

/-- A thread waits for an issued operation that it signed under CVn. -/
def State.waitsOp (s : State) (id block n : Nat) : Bool :=
  s.ops.any (fun p => decide (p.2.block = block) && (match p.2.kind with
    | .matrix m => decide (m.cv = n) && m.signers.contains id
    | _ => false))

/-- The error that MWAIT reports to a thread: that of the operation issued first (R170). -/
def Block.errorFor (b : Block) (id n : Nat) : Option Trap :=
  ((b.errors.filter (fun e => decide (e.2.1 = n) && e.2.2.2.contains id)).foldl
    (fun (r : Option (Nat × Trap)) e => match r with
      | some x => if e.1 < x.1 then some (e.1, e.2.2.1) else r
      | none => some (e.1, e.2.2.1)) none).map (·.2)

/-- The thread has seen the errors of its operations under CVn. -/
def Block.seenErrors (b : Block) (id n : Nat) : Block :=
  { b with errors := (b.errors.map (fun e =>
      if e.2.1 = n then (e.1, e.2.1, e.2.2.1, e.2.2.2.filter (· ≠ id)) else e)).filter (fun e => !e.2.2.2.isEmpty) }

/-- A bad metadata nibble, and an .ADD that a trace forbids, are reported at the PC of the MWAIT (R159, R160, R169). -/
def errorAt (pc : DWord) (t : Trap) : Trap := if t.cause = 0x300 ∨ t.cause = 0x382 then { t with addr := pc } else t

/-- The scope of a wait for signatures (R170): GRP when the set lies in one group. -/
def Conv.scope (cv : Conv) : Nat :=
  if ((List.range 128).filter cv.groups.getLsbD).length ≤ 1 then 0 else 1

/-- The bytes of an MMA's operands that a program writes, other than B, whose loads wait for it (R64, R164). -/
def State.operandBytes (s : State) (core : Nat) (b : Block) (m : MatOp) : List Byte :=
  if m.drain then []
  else tileBytes s b core m.signers (tileOf m.a) ++
    (if m.meta' = [] then [] else tileBytes s b core m.signers (tileOf m.meta'))

/-- The first MWAIT that observes an operation finds its operands rewritten since it completed: its results are undefined
(R64). -/
def State.observeFirst (s : State) (core block : Nat) (u : Unseen) : State :=
  if u.fresh && decide (u.mat.seen ≠ s.operandBytes core (s.block block) u.mat) then
    u.mat.outs.foldl (fun s r => s.undefine r.1 r.2) s
  else s

/-- The registers of an operation that a thread has written before its MWAIT (R64) (DESIGN CHOICE, log entry 91). -/
def State.touched (s : State) (id : Nat) (m : MatOp) : List Nat :=
  (m.held.filter (fun r => decide (r.1 = id) && decide ((s.ctx id).v.getD r.2.1 0 ≠ r.2.2))).map (·.2.1)

/-- A register becomes undefined. -/
def State.freeReg (s : State) (id k : Nat) : State :=
  let r := s.freshWord
  r.2.updCtx id (fun c => c.setV k r.1)

/-- A thread observes, by MWAIT, the operations it signed under CVn (R64, R170): register results reach it, and a register
of the operation that it has written meanwhile is undefined. -/
def State.observe (s : State) (id block n : Nat) : State :=
  let mine := (s.block block).unseen.filter (fun u => decide (u.mat.cv = n) && u.waiters.contains id)
  let s := mine.foldl (fun s u =>
    (s.touched id u.mat).foldl (fun s k => s.freeReg id k)
      ((u.regs.filter (fun r => r.1 = id)).foldl (fun s r => s.updCtx id (fun c => c.setV r.2.1 r.2.2))
        (s.observeFirst (s.ctx id).core block u))) s
  s.updBlock block (fun b =>
    let l := b.unseen.map (fun u =>
      if u.mat.cv = n ∧ u.waiters.contains id then { u with waiters := u.waiters.filter (· ≠ id), fresh := false } else u)
    { b with unseen := l.filter (fun u => !u.waiters.isEmpty) })

/-- MWAIT of one thread (R170). -/
def mwaitThread (n : Nat) (s : State) (is : Issue) (id : Nat) : State × Bool :=
  let c := s.ctx id
  let b := s.block c.block
  let cv := b.conv n
  let trap := fun (s : State) t => (s.trapAt id is.pc t, false)
  if b.kernel.cvs ≤ n ∨ !cv.has c then trap s (cvTrap 0x301 is.pc n)
  else
    let unsigned := cv.signed.contains id
    match if unsigned then s.waitTrap c is.pc cv.scope 0 else none with
    | some t => trap s t
    | none =>
      if unsigned || s.waitsOp id c.block n then
        (s.parkThread id (.mwait n) (if unsigned then cv.scope else 0), false)
      else
        let s := s.observe id c.block n
        match b.errorFor id n with
        | some t => trap (s.updBlock c.block (fun b => b.seenErrors id n)) (errorAt is.pc t)
        | none => (s, true)

/-- MWAIT (R170). -/
def execMwait (ctl : Ctl) (v : BitVec 4) (s : State) : Host.Outcome State Fault Refusal :=
  next (foldWord s (wordInfo (.mwait ctl v)) noneBusy (mwaitThread v.toNat))

/-- The threads in MWAIT under CVn of a block whose operations have all completed leave, or trap. -/
def State.wakeMwait (s : State) (block n : Nat) : State :=
  (s.waiters (fun p => p == .mwait n)).foldl (fun s id =>
    let c := s.ctx id
    let b := s.block block
    if c.block = block ∧ !(b.conv n).signed.contains id ∧ !s.waitsOp id block n then
      let s := s.observe id block n
      match b.errorFor id n with
      | some t => (s.updBlock block (fun b => b.seenErrors id n)).trapAt id c.pc (errorAt c.pc t)
      | none => s.updCtx id Ctx.wake
    else s) s

/-- OBRES (R163). -/
def execObres (ctl : Ctl) (n a : RegField) (s : State) : Host.Outcome State Fault Refusal :=
  next (onceWord s (wordInfo (.obres ctl n a)) noneBusy (fun s is ids =>
    let (k, b) := s.blockOf ids
    let l := s.source is ids a 4
    let r := recordFields l
    let num := n.toNat
    let clash := s.blocks.any (fun x => x.2.cores.contains is.core && x.2.failed.isNone && x.2.saved.isNone &&
      x.2.recs.any (fun e =>
        let q := recordFields e.2
        decide (q.weight = r.weight) && overlaps (q.base, q.len) (r.base, r.len)))
    match firstOf [
      (recordIllegal l, invalid 2 num),
      (decide (r.fmt = 9 ∧ r.blen ≠ 64), invalid 7 num),
      ((b.recs.get? num).isSome, obRange 4 num),
      (decide (b.kernel.recs ≤ num), obRange 5 num),
      (recordRange r, obRange 6 num),
      (clash, obRange 3 num)] with
    | some d => .trap (d.trap is.pc)
    | none => .next (s.updBlock k (fun b => { b with recs := b.recs.set num l })) ids))

/-- The operation in flight that names record n of a block. -/
def State.recordBusy (s : State) (block n : Nat) : Option Instr :=
  (s.ops.find? (fun p => decide (p.2.block = block) && (match p.2.kind with
    | .matrix m => [m.a, m.b, m.c, m.meta'].any (fun l => decide (2 ≤ (tileOf l).space ∧ (tileOf l).space ≤ 3) &&
        decide ((tileOf l).record = n))
    | _ => false))).bind (fun p => completion p.1 p.2)

/-- OBREL (R163): holds its run while an operation names the record. -/
def execObrel (ctl : Ctl) (n : RegField) (s : State) : Host.Outcome State Fault Refusal :=
  next (onceWord s (wordInfo (.obrel ctl n)) noneBusy (fun s is ids =>
    let (k, b) := s.blockOf ids
    if b.kernel.recs ≤ n.toNat then .trap ((obRange 5 n.toNat).trap is.pc)
    else
      match s.recordBusy k n.toNat with
      | some ev => .hold (some ev)
      | none => .next (s.updBlock k (fun b => { b with recs := b.recs.erase n.toNat })) ids))

/-- The decoded pattern of B's element (n, k) in A's format (R46, R48). -/
def matB (s : State) (b : Block) (core : Nat) (m : MatOp) (n k : Nat) : Nat :=
  let B := tileOf m.b
  let x := tileElem s b core m.signers B n k
  if B.fmt ≠ 9 then x
  else
    let r := b.recordOf B
    let e := 2 * (B.base + n * B.stride + k / 2 - r.base) + k % 2
    let at' := fun o => s.mem.read (wbBase core + r.base + o)
    let scale := (at' (r.scoff * 16 + e / 64)).toNat
    let sup := ofBytes ((List.range 4).map (fun i => at' (r.ssoff * 16 + 4 * (e / 16384) + i)))
    nqOperand (tileOf m.a).fmt (nqValue x scale (fp32.unpack sup))

/-- The non-finite flag of the block of B's element (n, k) (R52). -/
def matFlag (s : State) (b : Block) (core : Nat) (m : MatOp) (n k : Nat) : Bool :=
  let B := tileOf m.b
  let r := b.recordOf B
  let at' := fun o => s.mem.read (wbBase core + r.base + o)
  if B.fmt = 9 then
    let e := 2 * (B.base + n * B.stride + k / 2 - r.base)
    match fp32.unpack (ofBytes ((List.range 4).map (fun i => at' (r.ssoff * 16 + 4 * (e / 16384) + i)))) with
    | .fin _ _ _ => false
    | _ => true
  else if fmtFlagged B.fmt then
    let blk := (B.base + n * B.stride + k * fmtBytes B.fmt - r.base) / (64 * fmtBytes B.fmt)
    (at' (r.flagoff * 16 + blk / 8)).getLsbD (blk % 8)
  else false

/-- Under .SPARSE, the column of A's stored row that holds element k, or none when it is pruned (R167, R219). -/
def sparseCol (s : State) (b : Block) (core : Nat) (m : MatOp) (i k : Nat) : Option Nat :=
  let nib := tileElem s b core m.signers (tileOf m.meta') i (k / 4)
  if nib / 2 ^ (k % 4) % 2 = 1 then
    some (k / 4 * 2 + ((List.range (k % 4)).filter (fun j => nib / 2 ^ j % 2 = 1)).length)
  else none

/-- Every metadata nibble has exactly two bits set (R169). -/
def metaGood (s : State) (b : Block) (core : Nat) (m : MatOp) : Bool :=
  let M := tileOf m.meta'
  m.meta' = [] || (List.range M.rows).all (fun i => (List.range M.cols).all (fun g =>
    let nib := tileElem s b core m.signers M i g
    decide (nib % 2 + nib / 2 % 2 + nib / 4 % 2 + nib / 8 % 2 = 2)))

/-- C[i][n] of an MMA and whether a boundary clamped (R169). -/
def mmaElem (s : State) (b : Block) (core : Nat) (m : MatOp) (i n : Nat) : Nat × Bool :=
  let A := tileOf m.a
  let B := tileOf m.b
  let C := tileOf m.c
  let z := if m.modes % 2 = 1 then 0 else tileElem s b core m.signers C i n
  let col := fun k => if m.meta' = [] then some k else sparseCol s b core m i k
  if fmtFloat A.fmt then
    let FB := if B.fmt = 9 then fmtOf A.fmt else fmtOf B.fmt
    let terms := (List.range B.cols).map (fun k =>
      let y := FB.unpack (matB s b core m n k)
      match col k with
      | some j => some (dotMul ((fmtOf A.fmt).unpack (tileElem s b core m.signers A i j)) y)
      | none => if matFlag s b core m n k then some (dotMul (.fin false 0 0) y) else none)
    (dotProduct (fmtOf C.fmt) z terms, false)
  else
    let mode := m.modes / 4 % 4
    let terms := (List.range B.cols).map (fun k =>
      let y := tileElem s b core m.signers B n k
      (col k).map (fun j =>
        let x := tileElem s b core m.signers A i j
        if A.fmt = 8 then ((if mode = 2 then (x + y) % 2 else x * y : Nat) : Int)
        else intOf A.fmt x * intOf B.fmt y))
    intDot mode z terms

/-- Element (i, j) of a tile outside the registers written with a pattern of whole bytes. -/
def State.putElem (s : State) (b : Block) (core : Nat) (t : Tile) (i j x : Nat) : State :=
  let n := fmtBytes t.fmt
  { s with mem := s.mem.writeBytes (tileAddr b core t i (j * n)) (toBytes n x) }

/-- C's tile is undefined (R64, R169). -/
def State.freeTile (s : State) (b : Block) (core : Nat) (t : Tile) : State :=
  t.cells.foldl (fun s p =>
    let r := s.freshElem (fmtBytes t.fmt)
    r.2.putElem b core t p.1 p.2 r.1) s

/-- What an MMA does when it completes (R169): raced says that its operands or its tile were touched meanwhile. -/
def State.finishMma (s : State) (b : Block) (core : Nat) (m : MatOp) (raced : Bool) : State :=
  let C := tileOf m.c
  let s' := if m.modes % 2 = 1 then s.clearSat core C else s
  if raced then s'.freeTile b core C
  else
    C.cells.foldl (fun t p =>
      let r := mmaElem s b core m p.1 p.2
      let t := t.putElem b core C p.1 p.2 r.1
      if r.2 then { t with sat := t.sat.set (satKey core (C.base + p.1)) true } else t) s'

/-- The value that a drain gives element (i, j): converted, and added to what the destination holds under .ADD. -/
def drainElem (s : State) (b : Block) (core : Nat) (m : MatOp) (old : Nat → Nat) (i j : Nat) : Nat :=
  let A := tileOf m.a
  let code := m.modes / 2 % 8
  let v := drainConvert code A.fmt (tileElem s b core m.signers A i j)
  if m.modes % 2 = 1 then drainAdd code A.fmt (old (fmtBytes (tileOf m.c).fmt)) v else v

/-- .CLEAR (R171): the tile's columns of the accumulator rows, and their saturation bits. -/
def State.drainClear (s : State) (b : Block) (core : Nat) (m : MatOp) : State :=
  let A := tileOf m.a
  if m.modes / 16 % 2 = 1 then
    (A.cells.foldl (fun s p => s.putElem b core A p.1 p.2 0) s).clearSat core A
  else s

/-- The first element of a destination within the core at which memory holds an uncorrectable error (R171). -/
def localStop (b : Block) (core : Nat) (t : Tile) (ecc : Option Nat) : Option (Nat × Nat) :=
  let n := fmtBytes t.fmt
  if t.space = 5 then none
  else t.cells.find? (fun p =>
    let pa := tileAddr b core t p.1 (p.2 * n)
    ecc.any (fun a => decide (pa ≤ a ∧ a < pa + n)))

/-- A drain to a destination within the core (R171): undefined from the element at which an error stops it. -/
def State.drainLocal (s : State) (b : Block) (core : Nat) (m : MatOp) (raced : Bool) (ecc : Option Nat) : State :=
  let D := tileOf m.c
  let stop := (localStop b core D ecc).map D.cells.idxOf
  (D.cells.zip (List.range D.cells.length)).foldl (fun t q =>
    let p := q.1
    let old := fun _ => tileElem s b core m.signers D p.1 p.2
    let lost := raced || (ecc.isSome && decide (stop.getD 0 ≤ q.2))
    let r := if lost then t.freshElem (fmtBytes D.fmt) else (drainElem s b core m old p.1 p.2, t)
    if D.space = 5 then r.2.putReg m D p.1 p.2 r.1 else r.2.putElem b core D p.1 p.2 r.1) s

/-- The registers that a drain's results fill, as a state holds them: context, register, value. -/
def State.regResults (s : State) (m : MatOp) : List (Nat × Nat × Word) :=
  let D := tileOf m.c
  if D.space ≠ 5 then []
  else m.signers.flatMap (fun id => (List.range ((D.rowBytes + 3) / 4)).map (fun i =>
    (id, D.base + i, (s.ctx id).v.getD (D.base + i) 0)))

/-- Address of element (i, j) of a virtual tile. -/
def elemVa (t : Tile) (p : Nat × Nat) : Nat := t.base + p.1 * t.stride + p.2 * fmtBytes t.fmt

/-- The first element of a virtual destination whose walk meets an invalid entry. -/
def State.drainFault (s : State) (part : Nat) (t : Tile) (need : Need) : Option (Nat × Nat × Nat × Nat) :=
  t.cells.findSome? (fun p => match s.translate part (elemVa t p) need with
    | .fault l b z => some (elemVa t p, l, b, z)
    | _ => none)

/-- One element of a drain to memory, staged or performed: o is the operation, c its first signer. -/
def State.drainOne (s : State) (b : Block) (core : Nat) (m : MatOp) (c : Ctx) (p : Nat × Nat) (pa : Nat) (mod raced : Bool) :
    State :=
  let n := fmtBytes (tileOf m.c).fmt
  let s := s.traceLate c mod pa n
  let r := if raced then s.freshElem n else (drainElem s b core m (fun n => s.physNat core pa n) p.1 p.2, s)
  let s := r.2
  if (s.isDet c || s.isRestart c) && stagedRegion (regionOf pa) then
    if m.modes % 2 = 1 then
      let v := drainConvert (m.modes / 2 % 8) (tileOf m.a).fmt (tileElem s b core m.signers (tileOf m.a) p.1 p.2)
      s.stageOrEnd c pa (1 + (if m.modes / 2 % 8 = 4 then 0 else if n = 8 then 10 else 1)) (toBytes n v)
    else s.stageOrEnd c pa 0 (toBytes n r.1)
  else s.putFor c mod pa (toBytes n r.1)

/-- The physical address lies in the window of another device. -/
def isPeer (pa : Nat) : Bool :=
  match regionOf pa with
  | .peer _ _ => true
  | _ => false

/-- What stops a drain at an element of a virtual destination, if anything does: ecc is the address of an uncorrectable
error, late says that a remote access got no response, denied that a translation fault was answered with FAIL; an .ADD of a
traced task stops at modifiable memory (R159, R171). -/
def State.elemStop (s : State) (core part n : Nat) (need : Need) (va : Nat) (ecc : Option Nat) (late denied traced : Bool) :
    Option (BitVec 10) :=
  match s.translate part va need with
  | .ok pa _ mod =>
    ((s.responseError core pa n).map (·.1)).or
      (if traced && mod && need.r then some 0x382
       else if late && isPeer pa then some 0x105
       else if ecc.any (fun a => decide (pa ≤ a ∧ a < pa + n)) then some 0x104 else none)
  | .denied => some 0x101
  | .fault _ _ _ => if denied then some 0x101 else none

/-- The address that the log takes of an element at which a drain is refused: the physical one where R11 to R13 and R101 log
it, the virtual one where no page lets the drain write (R171, R235) (DEDUCED, log entry 124). -/
def State.drainLogged (s : State) (core part n : Nat) (need : Need) (va : Nat) : Option Nat :=
  match s.translate part va need with
  | .ok pa _ _ => if (s.accessError core pa n).any (·.2) then some pa else none
  | _ => some va

/-- A drain to virtual memory, element by element (R171). It stops at the first element that the page, the address, an
uncorrectable error or a missing response refuses: the rest of a PUT's tile is undefined; a protection failure leaves an
.ADD undone, an uncorrectable error or a timeout its whole tile undefined. The trap to report, if any. -/
def State.drainVirtual (s : State) (b : Block) (core part : Nat) (m : MatOp) (c : Ctx) (raced denied : Bool)
    (ecc : Option Nat) (late : Bool) : State × Option Trap :=
  let D := tileOf m.c
  let n := fmtBytes D.fmt
  let add := decide (m.modes % 2 = 1)
  let need := if add then needRW else needW
  let info : Word := BitVec.ofNat 32 (accessInfo n true false)
  let bad := D.cells.findSome? (fun p => (s.elemStop core part n need (elemVa D p) ecc late denied (s.isTraced c)).map (fun e => (p, e)))
  let run := fun (t : State) (l : List (Nat × Nat)) (raced : Bool) => l.foldl (fun t p =>
    match s.translate part (elemVa D p) need with
    | .ok pa _ mod => if (s.accessError core pa n).isNone then t.drainOne b core m c p pa mod raced else t
    | _ => t) t
  match bad with
  | none => (run s D.cells raced, none)
  | some (p, cause) =>
    let i := D.cells.idxOf p
    let va := elemVa D p
    let soft := cause == 0x104 || cause == 0x105
    let s := if add then if soft then run s D.cells true else s
      else run (run s (D.cells.take i) raced) (D.cells.drop i) true
    if cause = 0x382 then (s, some ⟨cause, 0, 0⟩)
    else
      (match if soft then none else s.drainLogged core part n need va with
        | some a => s.logError cause (logCore core) part info.toNat a
        | none => s, some ⟨cause, BitVec.ofNat 64 va, info⟩)

/-- The other operations of the core see their operands anew when the engine itself changes them (R64, R166). -/
def State.resee (after before : State) (k core : Nat) : State :=
  { after with ops := after.ops.map (fun p =>
      if p.1 = k ∨ p.2.core ≠ core then p
      else match p.2.kind with
        | .matrix m =>
          let b := before.block p.2.block
          if m.seen = before.opBytes core b m then
            (p.1, { p.2 with kind := .matrix { m with seen := after.opBytes core (after.block p.2.block) m } })
          else p
        | _ => p) }

/-- A completed operation waits to be observed by its signers, with its results for registers it still holds (R64, R155). -/
def State.keepUnseen (s : State) (o : Op) (m : MatOp) (regs : List (Nat × Nat × Word)) : State :=
  let l := m.signers.filter (fun id => (s.ctx id).live)
  s.updBlock o.block (fun b => { b with unseen := b.unseen ++
    [⟨{ m with seen := s.operandBytes o.core b m }, l,
      regs.filter (fun r => m.held.any (fun h => decide (h.1 = r.1 ∧ h.2.1 = r.2.1))), true⟩] })

/-- An operation has completed, with its error if it has one: its waiters leave (R170). A restartable task ends at an error
that R238 names. -/
def State.retireMatOp (s : State) (k : Nat) (o : Op) (m : MatOp) (err : Option Trap) (regs : List (Nat × Nat × Word)) :
    State :=
  let s := ((s.dropOp k).updCore o.core (fun c => { c with matQ := c.matQ.filter (· ≠ k) })).keepUnseen o m regs
  match err with
  | none => s.wakeMwait o.block m.cv
  | some t =>
    if (s.block o.block).restart && (t.cause == 0x104 || t.cause == 0x105) then
      s.updBlock o.block (fun b => { b with failing := some t.cause })
    else (s.updBlock o.block (fun b =>
      { b with errors := b.errors ++ [(k, m.cv, t, m.signers.filter (fun id => (s.ctx id).live))] })).wakeMwait o.block m.cv

/-- A drain of a `.det` block finds the staging region full, so it waits until a commit frees some of it (R253). -/
def State.drainFull (s : State) (o : Op) (m : MatOp) : Bool :=
  let c := s.ctx o.ctx
  let D := tileOf m.c
  let need := D.cells.length * (10 + fmtBytes D.fmt)
  m.drain && decide (D.space = 0) && s.isDet c &&
    D.cells.any (fun p => match s.translate (s.partOf c) (elemVa D p) needW with
      | .ok pa _ _ => stagedRegion (regionOf pa)
      | _ => false) &&
    decide (Config.stageLimit < s.stageUsed o.launch + need) &&
    decide (stagedSize (s.block o.block).stage + need ≤ Config.stageLimit)

/-- An earlier operation of the core must complete first: one that touches an accumulator row of this one, an MMA before
an MMA, an MDRAIN.ADD before an MDRAIN.ADD (R66, R166, R216); or what a drain stages has no room yet (R253). -/
def State.matBlocked (s : State) (k : Nat) (o : Op) (m : MatOp) : Bool :=
  let acc := fun (m : MatOp) => if m.drain then tileOf m.a else tileOf m.c
  s.ops.any (fun p => decide (p.1 < k) && decide (p.2.core = o.core) && (match p.2.kind with
    | .matrix q => overlaps ((acc q).base, (acc q).rows) ((acc m).base, (acc m).rows) ||
        (!q.drain && !m.drain) || (p.2.isAdd && o.isAdd)
    | _ => false)) || s.drainFull o m

end Sys2Proof.Machine
end

