-- ==== Sys2Proof/Machine/Engine.lean ====
section
/-!
DEFINITION. WBLOAD, the Step Activation Cache and the Tree Descent Unit (R164, R172 to R174, R221 to R224).
-/
namespace Sys2Proof.Machine

/-- The outcome of a list of accesses of one thread. -/
inductive Many where
  /-- Each access's physical address and MOD attribute. -/
  | ok (l : List (Nat × Bool))
  /-- The first that fails: its address, its failure, and for an error response the physical address and whether it is
  logged. -/
  | bad (ea : DWord) (r : ARes) (resp : Option (Nat × Bool))
  deriving DecidableEq, Repr

/-- Steps 2 to 7 of R128 for accesses of a thread, one after another. -/
def State.accessList (s : State) (c : Ctx) (size align : Nat) (need : Need) (w : Bool) : List DWord → Many
  | [] => .ok []
  | e :: t =>
    match s.access c e size align need w .plain with
    | .ok pa _ mod =>
      match s.responseError c.core pa size with
      | some (cause, logged) =>
        .bad e (.trap ⟨cause, e, BitVec.ofNat 32 (accessInfo size w false)⟩) (some (pa, logged))
      | none =>
        match State.accessList s c size align need w t with
        | .ok l => .ok ((pa, mod) :: l)
        | r => r
    | r => .bad e r none

/-- One thread stops at its word for a failed access: it traps, or parks for the fault. virt says that a steward's address
is virtual too (R176). -/
def State.stopThread (s : State) (is : Issue) (id : Nat) (ea : DWord) (size : Nat) (need : Need) (w : Bool) (r : ARes)
    (resp : Option (Nat × Bool)) (virt : Bool := false) : State :=
  let c := s.ctx id
  match r, resp with
  | .trap t, some (pa, logged) =>
    let s := if logged then s.logError t.cause (logCore c.core) (s.partOf c) t.info.toNat pa else s
    let s := if t.cause = 0x105 then s.undefine pa size else s
    s.accessFails is id t
  | .trap t, none =>
    let s := if t.cause = 0x101 then s.logDenied c ea size need virt t.info.toNat else s
    s.trapAt id is.pc t
  | .fault l b z, _ => s.parkFault id (s.partOf c) l b z ea.toNat (accessInfo size w false)
  | .ok _ _ _, _ => s

/-- A word that acts once per issue meets a failed access: every thread of the issue stops there (DEDUCED, log entry 21). -/
def State.stopIssue (s : State) (is : Issue) (ids : List Nat) (ea : DWord) (size : Nat) (need : Need) (w : Bool)
    (r : ARes) (resp : Option (Nat × Bool)) (virt : Bool := false) : Once :=
  .next (ids.foldl (fun s id => s.stopThread is id ea size need w r resp virt) s) []

/-- The bytes a thread's loads find at a list of physical addresses. -/
def State.threadBytes (s : State) (id : Nat) (l : List Nat) : List Byte := l.flatMap (fun pa => s.threadRead id pa 1)

/-- A thread's own stores in flight to elements of z bytes are performed, so that its accesses there see them (R57). -/
def State.drainList (s : State) (id z : Nat) (l : List (Nat × Bool)) : State :=
  l.foldl (fun s p => s.drainOwn id p.1 z) s

/-- Records a list of accesses of a traced task: their addresses, and where they land (R197). -/
def State.recordList (s : State) (c : Ctx) (write : Bool) (n : Nat) : List DWord → List (Nat × Bool) → State ⊕ Trap
  | e :: es, (pa, mod) :: t =>
    match s.recordAccess c mod write pa n e with
    | .inl s => s.recordList c write n es t
    | .inr x => .inr x
  | _, _ => .inl s

/-- Source addresses of the bytes of a tile's rows read from a base with a stride. -/
def rowSources (base stride rows bytes : Nat) : List (List Nat) :=
  (List.range rows).map (fun i => (List.range bytes).map (fun o => base + i * stride + o))

/-- The value of a floating-point pattern is NaN or infinite. -/
def nonFinite (F : Fmt) (x : Nat) : Bool :=
  match F.unpack x with
  | .fin _ _ _ => false
  | _ => true

/-- The flag of a 64-element block of a record set or cleared from what the block now holds (R52, R164). -/
def State.setBlockFlag (s : State) (core : Nat) (r : Record) (blk : Nat) : State :=
  let z := fmtBytes r.fmt
  let base := wbBase core + r.base
  let any := (List.range 64).any (fun i =>
    decide (blk * 64 * z + i * z + z ≤ r.area) &&
      nonFinite (fmtOf r.fmt) (ofBytes (s.mem.readBytes (base + (blk * 64 + i) * z) z)))
  let a := base + r.flagoff * 16 + blk / 8
  let old := (s.mem.read a).toNat
  let bit := 2 ^ (blk % 8)
  let cleared := old - old / bit % 2 * bit
  { s with mem := s.mem.write a (BitVec.ofNat 8 (cleared + if any then bit else 0)) }

/-- The blocks that a flagged tile covers. -/
def tileBlocks (t : Tile) (r : Record) : List Nat :=
  let z := 64 * fmtBytes t.fmt
  (List.range t.rows).flatMap (fun i =>
    let lo := (t.base + i * t.stride - r.base) / z
    let hi := (t.base + i * t.stride + t.rowBytes - 1 - r.base) / z
    (List.range (hi + 1 - lo)).map (lo + ·))

/-- The data of a WBLOAD placed in the weight buffer, with the flags of a flagged format (R164). -/
def State.fillWeights (s : State) (core : Nat) (b : Block) (t : Tile) (rows : List (List Byte)) : State :=
  let r := b.recordOf t
  if t.fmt = 9 then { s with mem := s.mem.writeBytes (wbBase core + r.base) rows.flatten }
  else
    let s := (rows.zip (List.range rows.length)).foldl (fun (s : State) p =>
      { s with mem := s.mem.writeBytes (tileAddr b core t p.2 0) p.1 }) s
    if fmtFlagged t.fmt then (tileBlocks t r).foldl (fun s k => s.setBlockFlag core r k) s else s

/-- The tile of a WBLOAD that a failed access leaves undefined, with the flags of its blocks (R164)
(DESIGN CHOICE, log entry 102). -/
def State.undefineWeights (s : State) (core : Nat) (b : Block) (t : Tile) : State :=
  let r := b.recordOf t
  let rows := (List.range (if t.fmt = 9 then 1 else t.rows)).map (fun i =>
    (List.range (if t.fmt = 9 then r.len else t.rowBytes)).map (fun o => Config.freeByte (s.free + i * 2 ^ 20 + o)))
  let s : State := { s.fillWeights core b t rows with free := s.free + 2 ^ 31 }
  if fmtFlagged t.fmt then
    (tileBlocks t r).foldl (fun (s : State) k =>
      let a := wbBase core + r.base + r.flagoff * 16 + k / 8
      let bit := 2 ^ (k % 8)
      let old := (s.mem.read a).toNat
      let set := Config.freeNat (s.free + k) % 2
      { s with mem := s.mem.write a (BitVec.ofNat 8 (old - old / bit % 2 * bit + set * bit)) }) s
  else s

/-- An earlier operation of the core that reads the range of a record, which a WBLOAD waits for (R164). -/
def State.rangeBusy (s : State) (core : Nat) (r : Record) : Option Instr :=
  (s.ops.find? (fun p => decide (p.2.core = core) && (match p.2.kind with
    | .matrix m =>
      let B := tileOf m.b
      let q := (s.block p.2.block).recordOf B
      !m.drain && decide (B.space = 3) && overlaps (q.base, q.len) (r.base, r.len)
    | _ => false))).bind (fun p => completion p.1 p.2)

/-- WBLOAD (R164) (DEDUCED, log entry 17): a source beyond the block's scratchpad traps as a destination beyond its range would
(DESIGN CHOICE, log entry 134). -/
def execWbload (ctl : Ctl) (t : BitVec 5) (a : RegField) (s : State) : Host.Outcome State Fault Refusal :=
  next (onceWord s (wordInfo (.wbload ctl t a)) (s.barred false) (fun s is ids =>
    let id := ids.headD 0
    let c := s.ctx id
    let (_, b) := s.blockOf ids
    let l := s.source is ids a 4
    let T := b.tile t.toNat
    let r := b.recordOf T
    if b.kernel.tiles ≤ t.toNat then .trap ((invalid 1 t.toNat).trap is.pc)
    else if 2 ≤ wordAt l 3 then .trap ((invalid 2 t.toNat).trap is.pc)
    else
      match checkB s b t.toNat with
      | some d => .trap (d.trap is.pc)
      | none =>
        match s.rangeBusy is.core r with
        | some ev => .hold (some ev)
        | none =>
          let base := wordAt l 0 + wordAt l 1 * 2 ^ 32
          let rows := if T.fmt = 9 then [(List.range r.len).map (base + ·)]
            else rowSources base (wordAt l 2) T.rows T.rowBytes
          if wordAt l 3 = 1 then
            if rows.any (fun q => q.any (fun x => decide (b.kernel.scratch ≤ x))) then
              .trap ((invalid 6 t.toNat).trap is.pc)
            else
              let at' := fun x => scratchBase b.scratchCore + b.scratchOff + x
              let z := fmtBytes T.fmt
              let bad := (rows.map (fun q => q.headD 0)).find? (fun x => x % z ≠ 0)
              let ecc := rows.flatten.find? (fun x => s.hasEcc is.core (at' x) 1)
              match (bad.map (fun x => (x, (0x103 : BitVec 10)))).or (ecc.map (fun x => (x, 0x104))) with
              | some (x, cause) =>
                let ea := scratchVirtual b + BitVec.ofNat 64 x
                (s.undefineWeights is.core b T).stopIssue is ids ea z needR false
                  (.trap ⟨cause, ea, BitVec.ofNat 32 (accessInfo z false false)⟩) (some (at' x, false))
              | none =>
                let s := s.drainList id 1 (rows.flatten.map (fun x => (at' x, false)))
                .next (s.fillWeights is.core b T (rows.map (fun q => s.threadBytes id (q.map at')))) ids
          else
            let z := fmtBytes T.fmt
            let eas := rows.flatMap (fun q =>
              (List.range (q.length / z)).map (fun i => BitVec.ofNat 64 (q.headD 0 + i * z)))
            match s.accessList c z z needR false eas with
            | .bad ea e logged => (s.undefineWeights is.core b T).stopIssue is ids ea z needR false e logged
            | .ok pas =>
              match s.recordList c false z eas pas with
              | .inr tr => .trap tr
              | .inl s' =>
                let s' := s'.drainList id z pas
                let flat := pas.flatMap (fun p => s'.threadRead id p.1 z)
                let n := (rows.headD []).length
                .next (s'.fillWeights is.core b T
                  ((List.range rows.length).map (fun i => (flat.drop (i * n)).take n))) ids))

/-- Bytes of a tile (R172). -/
def Tile.size (t : Tile) : Nat := t.rows * t.rowBytes

/-- A tile of SACL or SACS holds at most 32 KiB in space 0, 1 or 2 (R172). -/
def sacShape (t : Tile) (input : Bool) : Bool :=
  decide (t.space ≤ 2) && decide (0 < t.rows) && decide (0 < t.cols) && decide (t.size ≤ 32768) &&
    (!input || decide (t.fmt ≤ 2))

/-- Where each byte of a tile is for a thread: byte addresses row by row, virtual in space 0. -/
def tileByteAddrs (b : Block) (core : Nat) (t : Tile) : List Nat :=
  (List.range t.rows).flatMap (fun i => (List.range t.rowBytes).map (fun o =>
    if t.space = 0 then t.base + i * t.stride + o else tileAddr b core t i o))

/-- Translated addresses of a tile's elements, as thread accesses; the other spaces need none. -/
def State.tileAccess (s : State) (c : Ctx) (b : Block) (core : Nat) (t : Tile) (need : Need) (w : Bool) : Many :=
  let z := fmtBytes t.fmt
  if t.space = 0 then
    s.accessList c z z need w ((List.range t.rows).flatMap (fun i =>
      (List.range (t.rowBytes / z)).map (fun j => BitVec.ofNat 64 (t.base + i * t.stride + j * z))))
  else .ok ((List.range t.rows).flatMap (fun i =>
      (List.range (t.rowBytes / z)).map (fun j => (tileAddr b core t i (j * z), false))))

/-- The bytes of elements at physical addresses. -/
def State.elemBytes (s : State) (id z : Nat) (l : List (Nat × Bool)) : List Byte :=
  l.flatMap (fun p => s.threadRead id p.1 z)

/-- A thread's own store of a SACL performed at once; a restartable task stages it, `.det` does not (R159, R238). -/
def State.storeNow (s : State) (c : Ctx) (pa : Nat) (mod : Bool) (l : List Byte) : State :=
  if s.isRestart c && stagedRegion (regionOf pa) then s.stageRecord c pa 0 l
  else s.performStore c mod pa l

/-- Bytes stored to elements at physical addresses, z bytes each. -/
def State.storeElems (s : State) (c : Ctx) (z : Nat) : List (Nat × Bool) → List Byte → State
  | [], _ => s
  | (pa, mod) :: t, l => (s.storeNow c pa mod (l.take z)).storeElems c z t (l.drop z)

/-- The elements of a tile's bytes as FP32-wide values of its format (R173). -/
def sacValues (t : Tile) (l : List Byte) : List FVal :=
  let z := fmtBytes t.fmt
  (List.range (t.rows * t.cols)).map (fun e => (fmtOf t.fmt).unpack (ofBytes ((l.drop (e * z)).take z)))

/-- |v| as an exact term. -/
def FVal.abs : FVal → FVal
  | .nan => .nan
  | .inf _ => .inf false
  | .fin _ m e => .fin false m e

/-- |x − y| as an exact term; a difference of equal infinities is NaN. -/
def absDiff (x y : FVal) : FVal :=
  match x, y with
  | .fin a m e, .fin b k g =>
    let q := min e g
    .fin false (scaleTo a m e q - scaleTo b k g q).natAbs q
  | .inf a, .inf b => if a = b then .nan else .inf false
  | .nan, _ => .nan
  | _, .nan => .nan
  | _, _ => .inf false

/-- The assay (R173): s1 ≤ θ × s2 exactly, with no NaN and no 0 × ∞. -/
def assay (theta : Word) (x y : List FVal) : Bool :=
  let s1 := fp32.unpack (dotProduct fp32 0 ((x.zip y).map (fun p => some (absDiff p.1 p.2))))
  let s2 := fp32.unpack (dotProduct fp32 0 (y.map (fun v => some v.abs)))
  let (p, bad) := fProd (fp32.unpack theta.toNat) s2
  !bad && !s1.isNan && !p.isNan && (fLess s1 p || fEqual s1 p)

/-- A counter that holds at 0xFFFF_FFFF. -/
def addSat (w : Word) (n : Nat) : Word := if 0xFFFFFFFF < w.toNat + n then 0xFFFFFFFF else w + BitVec.ofNat 32 n

/-- The entry of a partition, key and tile index (R172). -/
def State.sacFind (s : State) (part : Nat) (key : Word) (tile : Nat) : Option (Nat × SacEntry) :=
  s.sac.find? (fun p => decide (p.2.part = part) && decide (p.2.key = key) && decide (p.2.tile = tile))

/-- Where an entry's 64 KiB of its partition's data region start, if the partition has a region (R221). -/
def State.sacBase (s : State) (e : SacEntry) : Option Nat :=
  let p := s.parts.getD e.part {}
  if p.sacRegion = 0 then none else some (p.sacRegion + 65536 * e.place)

/-- An entry's bytes of the region still hold what it left there. -/
def State.sacKept (s : State) (e : SacEntry) : Bool :=
  match s.sacBase e with
  | none => true
  | some a => s.mem.readBytes a e.leftIn.length == e.leftIn && s.mem.readBytes (a + 32768) e.leftOut.length == e.leftOut

/-- The entry as SACL finds it: its tiles are undefined where something has written over its bytes of the region (R221)
(DESIGN CHOICE, log entry 63). -/
def State.sacFound (s : State) (e : SacEntry) : SacEntry :=
  if s.sacKept e then e
  else
    { e with
      inData := (List.range e.inData.length).map (fun i => Config.freeByte (s.free + i))
      outData := (List.range e.outData.length).map (fun i => Config.freeByte (s.free + 32768 + i)) }

/-- Two descriptors agree in shape and format. -/
def sameShape (a b : List Word) : Bool :=
  decide ((tileOf a).rows = (tileOf b).rows) && decide ((tileOf a).cols = (tileOf b).cols) &&
    decide ((tileOf a).fmt = (tileOf b).fmt)

/-- The checks common to SACL and SACS (R159, R172). -/
def sacCheck (s : State) (b : Block) (c : Ctx) (l : List Word) (pc : DWord) : Option Trap :=
  let i := wordAt l 2 % 32
  let o := wordAt l 2 / 32 % 32
  if s.isTraced c then some ⟨0x382, pc, 0⟩
  else if wordAt l 2 / 2 ^ 10 ≠ 0 then some ⟨0x304, pc, 0⟩
  else
    match firstOf [(decide (b.kernel.tiles ≤ i), invalid 1 i), (decide (b.kernel.tiles ≤ o), invalid 1 o)] with
    | some d => some (d.trap pc)
    | none =>
      if !sacShape (b.tile i) true || !sacShape (b.tile o) false then some ⟨0x304, pc, 0⟩
      else
        ((firstOf [(tileRegion s b [] (b.tile i), invalid 6 i), (tileRegion s b [] (b.tile o), invalid 6 o)]).or
          ((tileRecord b (b.tile i)).or (tileRecord b (b.tile o)))).map (fun d => d.trap pc)

/-- SACL (R173): the stored entry is judged first, then the input tile is read and assayed, and only a hit touches the
output tile. -/
def execSacl (ctl : Ctl) (d a : RegField) (s : State) : Host.Outcome State Fault Refusal :=
  next (onceWord s (wordInfo (.sacl ctl d a)) (s.barred false) (fun s is ids =>
    let id := ids.headD 0
    let c := s.ctx id
    let (_, b) := s.blockOf ids
    let l := s.source is ids a 4
    let inTd := b.td.getD (wordAt l 2 % 32) []
    let outTd := b.td.getD (wordAt l 2 / 32 % 32) []
    let I := tileOf inTd
    let O := tileOf outTd
    let step := wordAt l 1 % 2 ^ 16
    let miss := fun (s : State) =>
      Once.next ((s.updLaunch b.launch (fun q => { q with sacMiss := addSat q.sacMiss 1 })).writeAll is ids d [0]) ids
    match sacCheck s b c l is.pc with
    | some t => .trap t
    | none =>
      match (s.sacFind (s.partOf c) (l.getD 0 0) (wordAt l 1 / 2 ^ 16)).filter (fun p =>
          decide (p.2.step = (step + 65535) % 2 ^ 16) && decide (p.2.replays < (s.launchFor c).replay) &&
            sameShape p.2.inTd inTd && sameShape p.2.outTd outTd) with
      | none => miss s
      | some (k, old) =>
        let e := s.sacFound old
        let s := { s with free := if s.sacKept old then s.free else s.free + 65536 }
        match s.tileAccess c b is.core I needR false with
        | .bad ea f resp => s.stopIssue is ids ea (fmtBytes I.fmt) needR false f resp
        | .ok ipas =>
          let s := s.drainList id (fmtBytes I.fmt) ipas
          let x := sacValues I (s.elemBytes id (fmtBytes I.fmt) ipas)
          if !assay (l.getD 3 0) x (sacValues I e.inData) then miss s
          else
          match s.tileAccess c b is.core O needW true with
          | .bad ea f resp => s.stopIssue is ids ea (fmtBytes O.fmt) needW true f resp
          | .ok opas =>
            let launch := b.launch
            let s := s.drainList id (fmtBytes O.fmt) opas
            let s := (s.storeElems c (fmtBytes O.fmt) opas e.outData).updLaunch launch (fun q =>
              { q with sacHit := addSat q.sacHit 1, sacSkip := addSat q.sacSkip (O.rows * O.cols) })
            let s := { s with
              sac := s.sac.set k { old with step := step, replays := e.replays + 1, used := s.seq }
              seq := s.seq + 1 }
            .next (s.writeAll is ids d [1]) ids))

/-- The entries of a partition. -/
def State.sacOf (s : State) (part : Nat) : Store SacEntry := s.sac.filter (fun p => p.2.part = part)

/-- The least recently used of some entries. -/
def leastUsed (l : Store SacEntry) : Option Nat :=
  (l.foldl (fun (r : Option (Nat × Nat)) p =>
    match r with
    | some (_, u) => if p.2.used < u then some (p.1, p.2.used) else r
    | none => some (p.1, p.2.used)) none).map (·.1)

/-- The first 64 KiB of a partition's data region that no entry other than k has (R221). -/
def State.sacPlace (s : State) (part k : Nat) : Nat :=
  let l := ((s.sacOf part).filter (fun p => p.1 ≠ k)).map (·.2.place)
  ((List.range (l.length + 1)).find? (fun i => !l.contains i)).getD 0

/-- An entry is stored, and with it its 64 KiB of the partition's data region (R221): the data is kept with the entry, and how
the region holds it has no layout of the spec's, so that as many bytes of the half for input, and of the half for output, are
undefined (DESIGN CHOICE, log entry 63). -/
def State.storeEntry (s : State) (k : Nat) (e : SacEntry) : State :=
  let e := { e with place := match s.sac.get? k with
    | some old => if old.part = e.part then old.place else s.sacPlace e.part k
    | none => s.sacPlace e.part k }
  match s.sacBase e with
  | none => { s with sac := s.sac.set k e }
  | some a =>
    let s := (s.undefine a e.inData.length).undefine (a + 32768) e.outData.length
    { s with sac := s.sac.set k { e with
      leftIn := s.mem.readBytes a e.inData.length
      leftOut := s.mem.readBytes (a + 32768) e.outData.length } }

/-- SACS (R173): a partition with an empty share stores nothing (R221) (DESIGN CHOICE, log entry 63). -/
def execSacs (ctl : Ctl) (a : RegField) (s : State) : Host.Outcome State Fault Refusal :=
  next (onceWord s (wordInfo (.sacs ctl a)) (s.barred false) (fun s is ids =>
    let id := ids.headD 0
    let c := s.ctx id
    let (_, b) := s.blockOf ids
    let l := s.source is ids a 4
    let inTd := b.td.getD (wordAt l 2 % 32) []
    let outTd := b.td.getD (wordAt l 2 / 32 % 32) []
    let I := tileOf inTd
    let O := tileOf outTd
    match sacCheck s b c l is.pc with
    | some t => .trap t
    | none =>
      match s.tileAccess c b is.core I needR false with
      | .bad ea e logged => s.stopIssue is ids ea (fmtBytes I.fmt) needR false e logged
      | .ok ipas =>
        match s.tileAccess c b is.core O needR false with
        | .bad ea e logged => s.stopIssue is ids ea (fmtBytes O.fmt) needR false e logged
        | .ok opas =>
          let s := (s.drainList id (fmtBytes I.fmt) ipas).drainList id (fmtBytes O.fmt) opas
          let part := s.partOf c
          let share := (s.parts.getD part {}).sacShare
          let entry : SacEntry :=
            { part := part, key := l.getD 0 0, tile := wordAt l 1 / 2 ^ 16, step := wordAt l 1 % 2 ^ 16, replays := 0
              inTd := inTd, outTd := outTd, inData := s.elemBytes id (fmtBytes I.fmt) ipas
              outData := s.elemBytes id (fmtBytes O.fmt) opas, used := s.seq }
          if share = 0 then .next s ids
          else
            let k := match s.sacFind part (l.getD 0 0) (wordAt l 1 / 2 ^ 16) with
              | some (k, _) => k
              | none =>
                if (s.sacOf part).length < share then s.sac.nextKey else (leastUsed (s.sacOf part)).getD s.sac.nextKey
            .next ({ s with seq := s.seq + 1 }.storeEntry k entry) ids))

/-- The block of TWALK breaks a limit: the code (R174). -/
def walkCode (l : List Word) : Option Nat :=
  let d := wordAt l 4 % 2 ^ 16
  if wordAt l 4 / 2 ^ 24 % 16 = 0 then some 1
  else if d = 0 ∨ d % 16 ≠ 0 ∨ 8192 < d then some 2
  else if wordAt l 5 % 4 ≠ 0 ∨ wordAt l 5 < 2 * d + 4 then some 3
  else if wordAt l 4 / 2 ^ 16 % 2 ^ 8 ≠ 0 ∨ wordAt l 4 / 2 ^ 28 ≠ 0 then some 4
  else none

/-- A walk between levels: the state with its effects so far, and where it has stopped, the state in which it has none. -/
structure Walk where
  s : State
  node : Nat
  bits : Nat
  nan : Bool
  stop : Option State

/-- BF16 elements read by a thread from a list of addresses. -/
def State.readBf16 (s : State) (id : Nat) (l : List (Nat × Bool)) : List FVal :=
  l.map (fun p => bf16.unpack (s.threadNat id p.1 2))

/-- Addresses of n elements of a size from a base. -/
def elemEas (base : DWord) (n z : Nat) : List DWord := (List.range n).map (fun i => base + BitVec.ofNat 64 (i * z))

/-- One logit written as a store of the thread, which `.det` does not stage (R159, R174). -/
def State.storeLogit (s : State) (is : Issue) (id : Nat) (ea : DWord) (x : Nat) : State ⊕ State :=
  match storeBy false (fun _ _ _ => ea) (fun _ _ => toBytes 4 x) 4 false s is id with
  | (t, true) => .inl t
  | (t, false) => .inr t

/-- The logit of a level written, if its address is given: base is the state before the word (R174). -/
def walkLogit (base : State) (is : Issue) (id : Nat) (ea : DWord) (x : Nat) (w : Walk) : Walk :=
  let c := w.s.ctx id
  match w.s.access c ea 4 4 needW true .plain with
  | .ok pa _ mod =>
    match w.s.recordAccess c mod true pa 4 ea with
    | .inr t => { w with stop := some (base.trapAt id is.pc t) }
    | .inl _ =>
      match w.s.storeLogit is id ea x with
      | .inl t => { w with s := t }
      | .inr t => { w with stop := some t }
  | r => { w with stop := some (base.stopThread is id ea 4 needW true r none) }

/-- One level of a walk of a thread (R174). A level that fails leaves the word without effect in the thread (R128). -/
def walkLevel (base : State) (is : Issue) (id d : Nat) (x : List FVal) (tree stride logit : DWord) (w : Walk)
    (level : Nat) : Walk :=
  if w.stop.isSome then w
  else
    let s := w.s
    let c := s.ctx id
    let node := tree + BitVec.ofNat 64 (w.node * stride.toNat)
    let bias := node + BitVec.ofNat 64 (2 * d)
    match s.accessList c 2 2 needR false (elemEas node d 2) with
    | .bad ea e resp => { w with stop := some (base.stopThread is id ea 2 needR false e resp) }
    | .ok pas =>
      match s.accessList c 4 4 needR false [bias] with
      | .bad ea e resp => { w with stop := some (base.stopThread is id ea 4 needR false e resp) }
      | .ok bpas =>
        match s.recordList c false 2 (elemEas node d 2) pas with
        | .inr t => { w with stop := some (base.trapAt id is.pc t) }
        | .inl s1 =>
          match s1.recordList c false 4 [bias] bpas with
          | .inr t => { w with stop := some (base.trapAt id is.pc t) }
          | .inl s2 =>
            let s2 := (s2.drainList id 2 pas).drainList id 4 bpas
            let z := s2.threadNat id ((bpas.headD (0, false)).1) 4
            let r := dotProduct fp32 z ((x.zip (s2.readBf16 id pas)).map (fun p => some (dotMul p.1 p.2)))
            let v := fp32.unpack r
            let left := v.isNan || fLess v (.fin false 0 0)
            let w' := { w with
              s := s2
              nan := w.nan || v.isNan
              node := if left then 2 * w.node + 1 else 2 * w.node + 2
              bits := if left then w.bits else w.bits + 2 ^ level }
            if logit = 0 then w' else walkLogit base is id (logit + BitVec.ofNat 64 (4 * level)) r w'

/-- TWALK of one thread (R174). -/
def twalkThread (d a : RegField) (p : BitVec 2) (s : State) (is : Issue) (id : Nat) : State × Bool :=
  let c := s.ctx id
  let now := s.now is.core
  let l := (List.range 8).map (c.rd now a)
  match walkCode l with
  | some k => (s.trapAt id is.pc ⟨0x305, is.pc, BitVec.ofNat 32 k⟩, false)
  | none =>
    let n := wordAt l 4 % 2 ^ 16
    let depth := wordAt l 4 / 2 ^ 24 % 16
    let token := l.getD 1 0 ++ l.getD 0 0
    match s.accessList c 2 2 needR false (elemEas token n 2) with
    | .bad ea e logged => (s.stopThread is id ea 2 needR false e logged, false)
    | .ok pas =>
      match s.recordList c false 2 (elemEas token n 2) pas with
      | .inr t => (s.trapAt id is.pc t, false)
      | .inl s1 =>
        let s1 := s1.drainList id 2 pas
        let x := s1.readBf16 id pas
        let w := (List.range depth).foldl
          (walkLevel s is id n x (l.getD 3 0 ++ l.getD 2 0) (BitVec.ofNat 64 (wordAt l 5)) (l.getD 7 0 ++ l.getD 6 0))
          ⟨s1, 0, 0, false, none⟩
        match w.stop with
        | some t => (t, false)
        | none =>
          let old := lookEarly c.early (.sp (0x38 + p.toNat)) now (c.path.getD p.toNat 0)
          let nan := w.nan || old.msb
          let path : Word := BitVec.ofNat 32 ((if nan then 2 ^ 31 else 0) + depth * 2 ^ 16 + w.bits)
          let o := w.s.threadOp is id [c.resolve now d] 0 0 false
            (.walk [BitVec.ofNat 32 (w.node - (2 ^ depth - 1))] (p.toNat, path))
          (w.s.addOp o, true)

/-- The Tree Descent Unit of the core has no room for the cohort's walks, so the run holds (R223). -/
def walksFull (s : State) (is : Issue) : Option (Option Instr) :=
  let l := s.ops.filter (fun p => decide (p.2.core = is.core) && (match p.2.kind with | .walk _ _ => true | _ => false))
  match l with
  | [] => none
  | (k, o) :: _ => if 64 < l.length + is.cohort.length then some (completion k o) else none

/-- TWALK (R174). -/
def execTwalk (ctl : Ctl) (d a : RegField) (p : BitVec 2) (s : State) : Host.Outcome State Fault Refusal :=
  next (s.holdFirst walksFull (fun s =>
    foldWord s (wordInfo (.twalk ctl d a p)) (fun o => specialBusy (0x38 + p.toNat) o || s.barred false o) (twalkThread d a p)))

end Sys2Proof.Machine
end

