-- ==== Sys2Proof/Machine/Pool.lean ====
section
/-!
DEFINITION. The register pool: GROW, GROWT and SHRINK, the grant queue and the return of rows (R29 to R31, R155, R156,
R210).
-/
namespace Sys2Proof.Machine

/-- The launch of a group's block. -/
def State.groupLaunch (s : State) (g : Nat) : Nat := (s.block (s.group g).block).launch

/-- The target is a V register of a range of rows. -/
def Target.inRows (t : Target) (lo n : Nat) : Bool :=
  match t with
  | .v k => decide (lo ≤ k) && decide (k < lo + n)
  | _ => false

/-- A context with rows from lo on, n of them, zeroed: what was on its way to them is gone (R155). -/
def Ctx.zeroRows (c : Ctx) (lo n : Nat) : Ctx :=
  { c with
    v := c.v.filter (fun p => decide (p.1 < lo) || decide (lo + n ≤ p.1))
    early := c.early.filter (fun e => !e.tgt.inRows lo n) }

/-- A grant (R155): n rows at the top of a group, which read as zero. -/
def State.grantRows (s : State) (g n : Nat) : State :=
  let lo := (s.group g).alloc
  let core := g / 128
  ((s.updCore core (fun c => { c with freeRows := c.freeRows - n })).updGroup g (fun x => { x with alloc := lo + n })).mapCtxs
    (s.group g).members (fun c => c.zeroRows lo n)

/-- The head of a grant queue resumes with its rows, and the deadlock count starts again (R30, R156). -/
def State.grantHead (s : State) (g n : Nat) : State :=
  let s := (s.updCore (g / 128) (fun c => { c with growQ := c.growQ.tail, quiet := 0 })).grantRows g n
  s.mapCtxs ((s.group g).members.filter (fun id => (s.ctx id).parkKind == some (.grow n))) Ctx.wake

/-- Heads of a core's grant queue are granted in order while the head fits (R30, R156); at most n of them. -/
def State.grantHeads (s : State) (core : Nat) : Nat → State
  | 0 => s
  | k + 1 =>
    match (s.core core).growQ with
    | (g, n) :: _ =>
      if n ≤ s.budget core (s.groupLaunch g) then (s.grantHead g n).grantHeads core k else s
    | [] => s

/-- The grant queue of a core is considered. -/
def State.considerQueue (s : State) (core : Nat) : State := s.grantHeads core (s.core core).growQ.length

/-- Rows return to the pool, and the queue head is considered (R155, R156). -/
def State.returnRows (s : State) (core n : Nat) : State :=
  (s.updCore core (fun c => { c with freeRows := c.freeRows + n })).considerQueue core

/-- The cohort holds every thread of the group that has not exited (R30). -/
def wholeGroup (s : State) (is : Issue) : Bool :=
  (s.group is.key).members.all (fun id => is.cohort.contains id || !(s.ctx id).live)

/-- The trap of a pool word: FINFO holds n. -/
def poolTrap (cause : BitVec 10) (pc : DWord) (n : Nat) : Trap := ⟨cause, pc, BitVec.ofNat 32 n⟩

/-- GROW (R30, R155). -/
def execGrow (ctl : Ctl) (n : RegField) (s : State) : Host.Outcome State Fault Refusal :=
  next (onceWord s (wordInfo (.grow ctl n)) noneBusy (fun s is ids =>
    let k := 4 * n.toNat
    if !wholeGroup s is then .trap (poolTrap 0x284 is.pc k)
    else if 256 < (s.group is.key).alloc + k then .trap (poolTrap 0x281 is.pc k)
    else if k = 0 then .next s ids
    else
      let s := s.updCore is.core (fun c => { c with growQ := c.growQ ++ [(is.key, k)] })
      let s := ids.foldl (fun s id => s.parkThread id (.grow k) 0) s
      .next (s.considerQueue is.core) []))

/-- GROWT (R30, R155): n rows are granted at once, or none (DEDUCED, log entry 10). -/
def execGrowt (ctl : Ctl) (d n : RegField) (s : State) : Host.Outcome State Fault Refusal :=
  next (onceWord s (wordInfo (.growt ctl d n)) noneBusy (fun s is ids =>
    let k := 4 * n.toNat
    let now := s.now is.core
    if !wholeGroup s is then .trap (poolTrap 0x284 is.pc k)
    else if 256 < (s.group is.key).alloc + k then .trap (poolTrap 0x281 is.pc k)
    else
      let ok := (s.core is.core).growQ.isEmpty && decide (k ≤ s.budget is.core (s.groupLaunch is.key))
      let s' := if ok then s.grantRows is.key k else s
      .next (s'.mapCtxs ids (fun c => c.setV (c.resolve now d) (bool32 ok))) ids))

/-- The operations in flight that hold released rows back (R155): those that will write a register from lo on of a thread
of the group, copies and stores to one through the register window, and matrix operations that read or write one as a
register tile. -/
def State.holdsRows (s : State) (g : Group) (lo : Nat) : List Nat :=
  s.ops.keysWhere (fun _ o =>
    (g.members.contains o.ctx && o.dst.any (fun r => decide (lo ≤ r))) ||
    (match o.kind with
     | .matrix m =>
       let t := tileOf (if m.drain then m.c else m.a)
       decide (t.space = 5) && decide (lo < t.base + (t.rowBytes + 3) / 4) && m.signers.any g.members.contains
     | .copy c => c.resolved.any (fun r => g.members.contains r.2.1 && decide (lo ≤ r.2.2))
     | .store pa l _ =>
       (match regionOf pa with
        | .registers core off => (s.windowReg core (off + l.length - 1)).any (fun r => g.members.contains r.1 && decide (lo ≤ r.2))
        | _ => false)
     | _ => false))

/-- A matrix operation's results for released registers are dropped. -/
def MatOp.forget (m : MatOp) (ids : List Nat) (lo : Nat) : MatOp :=
  { m with held := m.held.filter (fun r => !(ids.contains r.1 && decide (lo ≤ r.2.1))) }

/-- An operation in flight to released registers reaches them no more. -/
def Op.forget (o : Op) (ids : List Nat) (lo : Nat) : Op :=
  { o with
    dst := if ids.contains o.ctx then o.dst.map (fun r => if lo ≤ r then 256 + r else r) else o.dst
    kind := match o.kind with
      | .matrix m => .matrix (m.forget ids lo)
      | .copy c => .copy { c with resolved := c.resolved.map (fun r =>
          if ids.contains r.2.1 && decide (lo ≤ r.2.2) then (r.1, r.2.1, 256 + r.2.2) else r) }
      | k => k }

/-- A result that waits for the MWAIT of its thread reaches released registers no more. -/
def Unseen.forget (u : Unseen) (ids : List Nat) (lo : Nat) : Unseen :=
  { u with
    mat := u.mat.forget ids lo
    regs := u.regs.filter (fun r => !(ids.contains r.1 && decide (lo ≤ r.2.1))) }

/-- Registers from lo on are released: what is in flight to them reaches no register any more (R155). -/
def State.forgetRows (s : State) (g : Group) (lo : Nat) : State :=
  { s with
    ops := s.ops.map (fun p => (p.1, p.2.forget g.members lo))
    blocks := s.blocks.adjust g.block (fun b => { b with unseen := b.unseen.map (fun u => u.forget g.members lo) }) }

/-- SHRINK (R30, R155): the rows return once the writes to them have retired. -/
def execShrink (ctl : Ctl) (n : RegField) (s : State) : Host.Outcome State Fault Refusal :=
  next (onceWord s (wordInfo (.shrink ctl n)) noneBusy (fun s is ids =>
    let k := 4 * n.toNat
    let g := s.group is.key
    if !wholeGroup s is then .trap (poolTrap 0x284 is.pc k)
    else if g.alloc < k + 8 then .trap (poolTrap 0x282 is.pc k)
    else if k = 0 then .next s ids
    else
      let lo := g.alloc - k
      let after := s.holdsRows g lo
      let s := (s.forgetRows g lo).updGroup is.key (fun g => { g with alloc := lo })
      .next (s.addOp
        { core := is.core, ctx := 2 ^ 32, grp := is.key, block := g.block, launch := s.groupLaunch is.key
          kind := .rows k after }) ids))

end Sys2Proof.Machine
end

