-- ==== Sys2Proof/Machine/Control.lean ====
section
/-!
DEFINITION. Branches and the return stack, the words that end or divert a thread, rejoin masks and regrouping, and the
two privileged words (R146 to R154, R157, R158).
-/
namespace Sys2Proof.Machine

/-- The target of a relative branch (R147). -/
def relative (pc : DWord) (o : BitVec 14) : DWord := pc + BitVec.ofInt 64 (4 * o.toInt)

/-- A branch that depends on a test of V[a]. -/
def branchIf (s : State) (i : Instr) (a : RegField) (o : BitVec 14) (q : Word → Bool) :
    Host.Outcome State Fault Refusal :=
  next (branchWord s (wordInfo i) noneBusy (fun s is c =>
    .jump c (if q (c.rd (s.now is.core) a 0) then relative is.pc o else is.pc + 4)))

/-- BRA (R147). -/
def execBra (ctl : Ctl) (o : BitVec 14) (s : State) : Host.Outcome State Fault Refusal :=
  next (branchWord s (wordInfo (.bra ctl o)) noneBusy (fun _ is c => .jump c (relative is.pc o)))

/-- BNZ (R147). -/
def execBnz (ctl : Ctl) (a : RegField) (o : BitVec 14) (s : State) : Host.Outcome State Fault Refusal :=
  branchIf s (.bnz ctl a o) a o (fun w => w != 0)

/-- BZ (R147). -/
def execBz (ctl : Ctl) (a : RegField) (o : BitVec 14) (s : State) : Host.Outcome State Fault Refusal :=
  branchIf s (.bz ctl a o) a o (fun w => w == 0)

/-- DBNZ (R147): the decremented value is a result of 2 cycles. -/
def execDbnz (ctl : Ctl) (a : RegField) (o : BitVec 14) (s : State) : Host.Outcome State Fault Refusal :=
  next (branchWord s (wordInfo (.dbnz ctl a o)) noneBusy (fun s is c =>
    let w := c.rd (s.now is.core) a 0 - 1
    .jump (c.wr (s.now is.core) 2 a 0 w) (if w ≠ 0 then relative is.pc o else is.pc + 4)))

/-- FINFO of a bad fetch or branch target (R85). -/
def targetInfo : Word := 0x12

/-- The checks on a computed target (R147). -/
def targetTrap (t : DWord) : Option Trap :=
  if t.toNat % 4 ≠ 0 then some ⟨0x103, t, targetInfo⟩
  else if 2 ^ 56 ≤ t.toNat then some ⟨0x101, t, targetInfo⟩
  else none

/-- BRX (R147). -/
def execBrx (ctl : Ctl) (a : RegField) (s : State) : Host.Outcome State Fault Refusal :=
  next (branchWord s (wordInfo (.brx ctl a)) noneBusy (fun s is c =>
    let t := c.rdPair (s.now is.core) a
    match targetTrap t with
    | some tr => .trap tr
    | none => .jump c t))

/-- Entries a thread may spill (R101, R148). -/
def State.spillDepth (s : State) (c : Ctx) : Nat := if isSteward c.core then 4096 else (s.launchFor c).spill

/-- A push of one thread that then goes on at a target (R148). -/
def pushThread (target : State → Issue → Ctx → DWord) (s : State) (is : Issue) (id : Nat) : State × Bool :=
  let c := s.ctx id
  let v := is.pc + 4
  let t := target s is c
  if c.hw.length < 8 then (s.updCtx id (fun c => { c with hw := v :: c.hw, pc := t }), false)
  else if s.spillDepth c ≤ c.spilled then (s.trapAt id is.pc ⟨0x00C, is.pc, 0⟩, false)
  else
    let ea := c.tls + BitVec.ofNat 64 (8 * c.spilled)
    match s.reach is id ea 8 8 needW true .plain false with
    | .stop s => (s, false)
    | .ok s pa _ =>
      let o := s.threadOp is id [] ea (accessInfo 8 true false) false
        (.store pa (toBytes 8 ((c.hw.getD 7 0).toNat)) false)
      let s := s.addOp { o with err := (s.accessError c.core pa 8).map (·.1) }
      (s.updCtx id (fun c =>
        { c with hw := v :: c.hw.take 7, spilled := c.spilled + 1, kept := c.hw.getD 7 0 :: c.kept, pc := t }), false)

/-- CALL (R147). -/
def execCall (ctl : Ctl) (o : BitVec 14) (s : State) : Host.Outcome State Fault Refusal :=
  next (foldWord s (wordInfo (.call ctl o)) noneBusy (pushThread (fun _ is _ => relative is.pc o)))

/-- CALLX (R147). -/
def execCallx (ctl : Ctl) (a : RegField) (s : State) : Host.Outcome State Fault Refusal :=
  next (foldWord s (wordInfo (.callx ctl a)) noneBusy (fun s is id =>
    match targetTrap ((s.ctx id).rdPair (s.now is.core) a) with
    | some t => (s.trapAt id is.pc t, false)
    | none => pushThread (fun s is c => c.rdPair (s.now is.core) a) s is id))

/-- A thread returns to a popped value, which is checked (R148). -/
def State.returnTo (s : State) (is : Issue) (id : Nat) (v : DWord) : State × Bool :=
  if v.toNat % 4 ≠ 0 then (s.trapAt id is.pc ⟨0x103, v, targetInfo⟩, false)
  else (s.updCtx id (fun c => { c with pc := v }), false)

/-- RET of one thread (R148): a fill that fails the check has been consumed; one from an area that was written is
undefined. -/
def retThread (s : State) (is : Issue) (id : Nat) : State × Bool :=
  let c := s.ctx id
  match c.hw with
  | v :: rest => (s.updCtx id (fun c => { c with hw := rest })).returnTo is id v
  | [] =>
    if c.spilled = 0 then (s.trapAt id is.pc ⟨0x00D, is.pc, 0⟩, false)
    else
      let ea := c.tls + BitVec.ofNat 64 (8 * (c.spilled - 1))
      match s.reach is id ea 8 8 needR false .plain false with
      | .stop s => (s, false)
      | .ok s pa _ =>
        match s.respond is id ea pa 8 false with
        | some t => (t, false)
        | none =>
          let s := s.drainOwn id pa 8
          let v : DWord := BitVec.ofNat 64 (s.physNat c.core pa 8)
          let s := s.updCtx id (fun c => { c with spilled := c.spilled - 1, kept := c.kept.drop 1 })
          if c.kept.head? = some v then s.returnTo is id v
          else
            let r := s.freshWord
            let q := r.2.freshWord
            q.2.returnTo is id (q.1 ++ r.1)

/-- RET (R147). -/
def execRet (ctl : Ctl) (s : State) : Host.Outcome State Fault Refusal :=
  next (foldWord s (wordInfo (.ret ctl)) (s.barred false) retThread)

/-- NOP (R152). -/
def execNop (ctl : Ctl) (s : State) : Host.Outcome State Fault Refusal :=
  next (threadWord s (wordInfo (.nop ctl)) noneBusy (fun _ _ c => c))

/-- YIELD (R152): it takes effect on the group's choice of lead PC when the run ends (DEDUCED, log entry 11). -/
def execYield (ctl : Ctl) (s : State) : Host.Outcome State Fault Refusal :=
  next (onceWord s (wordInfo (.yield ctl)) noneBusy (fun s is ids =>
    .next (s.updGroup is.key (fun g => { g with yielding := true })) ids))

/-- EXIT, TRAP and TRET must carry E (R149): a thread's trap where they do not. -/
def withEnd (ctl : Ctl) (g : State → Issue → Nat → State × Bool) (s : State) (is : Issue) (id : Nat) : State × Bool :=
  if ctl.e then g s is id else (s.trapAt id is.pc ⟨0x005, is.pc, is.word⟩, false)

/-- Bit l of a word for a lane. -/
def laneBit (l : Nat) : Word := (1 : Word) <<< l

/-- Rejoin mask n of a group is complete: each of its lanes holds an arrived or exited context (R26, R153). -/
def State.joinComplete (s : State) (g n : Nat) : Bool :=
  let k := s.group g
  let mask := k.rj.getD n 0
  let arrived := k.arrived.getD n 0
  (List.range 32).all (fun l => !mask.getLsbD l || arrived.getLsbD l ||
    (match s.memberAt k l with | some id => !(s.ctx id).live | none => true))

/-- A complete mask releases its arrived threads together (R26). -/
def State.releaseJoin (s : State) (g n : Nat) : State :=
  if (s.group g).arrived.getD n 0 ≠ 0 ∧ s.joinComplete g n then
    let ids := (s.group g).members.filter (fun id => (s.ctx id).parkKind == some (.join n))
    (s.mapCtxs ids Ctx.wake).updGroup g (fun k => { k with arrived := k.arrived.erase n })
  else s

/-- JOINSET (R26, R153). -/
def execJoinset (ctl : Ctl) (r : BitVec 3) (a : RegField) (s : State) : Host.Outcome State Fault Refusal :=
  next (onceWord s (wordInfo (.joinset ctl r a)) noneBusy (fun s is ids =>
    if (s.group is.key).arrived.getD r.toNat 0 ≠ 0 then .trap ⟨0x205, is.pc, 0⟩
    else
      let m := (s.ctx (ids.headD 0)).rd (s.now is.core) a 0
      .next (s.updGroup is.key (fun g => { g with rj := g.rj.set r.toNat m })) ids))

/-- JOIN (R26, R153): the threads of one issue arrive together. Its word names no scope, and the watchdog reports 0
(DESIGN CHOICE, log entry 117). -/
def execJoin (ctl : Ctl) (r : BitVec 3) (s : State) : Host.Outcome State Fault Refusal :=
  next (onceWord s (wordInfo (.join ctl r)) noneBusy (fun s is ids =>
    let mask := (s.group is.key).rj.getD r.toNat 0
    let inside := fun id => mask.getLsbD (s.ctx id).lane
    let good := ids.filter inside
    let s' := (ids.filter (fun id => !inside id)).foldl (fun t id => t.trapAt id is.pc ⟨0x205, is.pc, 0⟩) s
    let bits := good.foldl (fun m id => m ||| laneBit (s.ctx id).lane) 0
    let s' := good.foldl (fun t id => t.parkThread id (.join r.toNat) 0) s'
    let s' := s'.updGroup is.key (fun g =>
      { g with arrived := g.arrived.set r.toNat (g.arrived.getD r.toNat 0 ||| bits) })
    .next (s'.releaseJoin is.key r.toNat) []))

/-- The groups of a block resident on a core, in ascending slot order: the participants of a REGRP (R154). -/
def State.participants (s : State) (block core : Nat) : List Nat :=
  (List.range 128).filterMap (fun i =>
    match s.groups.get? (groupKey core i) with
    | some g => if g.block = block then some (groupKey core i) else none
    | none => none)

/-- A context's key at REGRP. -/
def Ctx.regrpKey (c : Ctx) : Word :=
  match c.parkKind with
  | some (.regrp k) => k
  | _ => 0

/-- The context goes before another in the sort of R32: live ones by key, then by old slot; exited ones last. -/
def regrpLess (a b : Ctx) : Bool :=
  if a.live && b.live then a.regrpKey.ult b.regrpKey || (a.regrpKey == b.regrpKey && decide (a.slot < b.slot))
  else if a.live then true
  else if b.live then false
  else decide (a.slot < b.slot)

/-- The contexts at one lane of the participants, in their new order. -/
def State.laneSorted (s : State) (ps : List Nat) (lane : Nat) : List Nat :=
  (ps.filterMap (fun g => s.memberAt (s.group g) lane)).foldl (fun l id =>
    l.filter (fun j => !regrpLess (s.ctx id) (s.ctx j)) ++ [id] ++ l.filter (fun j => regrpLess (s.ctx id) (s.ctx j))) []

/-- A regrouping takes effect (R32): only membership changes. -/
def State.regroup (s : State) (ps : List Nat) : State :=
  let rows := (List.range 32).map (s.laneSorted ps)
  let s' := { s with groups := s.groups.map (fun (p : Nat × Group) =>
    if ps.contains p.1 then (p.1, { p.2 with members := rows.filterMap (fun l => l[ps.idxOf p.1]?) }) else p) }
  let s' := rows.foldl (fun t l =>
    (l.zip ps).foldl (fun t q => t.updCtx q.1 (fun c => { c with slot := q.2 % 128 })) t) s'
  s'.mapCtxs ((rows.flatten).filter (fun id => (s.ctx id).live)) Ctx.wake

/-- Every participant has arrived (R32, R154): each live thread is at the REGRP and no group is saved. -/
def State.regrpReady (s : State) (ps : List Nat) : Bool :=
  ps.all (fun g => (s.group g).saved.isNone && (s.group g).members.all (fun id =>
    !(s.ctx id).live || (match (s.ctx id).parkKind with | some (.regrp _) => true | _ => false)))

/-- The participants of a REGRP are judged once all have arrived (R32). -/
def State.judgeRegrp (s : State) (block core : Nat) : State :=
  let ps := s.participants block core
  let ids := ps.flatMap (fun g => (s.group g).members)
  let waiting := ids.filter (fun id => match (s.ctx id).parkKind with | some (.regrp _) => true | _ => false)
  if waiting.isEmpty || !s.regrpReady ps then s
  else
    let masks := ps.any (fun g => (s.group g).rj.any (fun p => p.2 != 0)) ||
      (s.block block).cv.any (fun p => decide (p.2.core = core) && !p.2.signed.isEmpty)
    let allocs := ps.any (fun g => decide ((s.group g).alloc ≠ (s.group (ps.headD 0)).alloc))
    let trap := fun (cause : BitVec 10) =>
      waiting.foldl (fun t id => t.trapAt id (s.ctx id).pc ⟨cause, (s.ctx id).pc, 0⟩) s
    if masks then trap 0x206 else if allocs then trap 0x207 else s.regroup ps

/-- REGRP (R32, R154): a blocking wait at BLK scope. -/
def execRegrp (ctl : Ctl) (a : RegField) (s : State) : Host.Outcome State Fault Refusal :=
  next (onceWord s (wordInfo (.regrp ctl a)) noneBusy (fun s is ids =>
    let c := s.ctx (ids.headD 0)
    match s.waitTrap c is.pc 1 0 with
    | some t => .trap t
    | none =>
      let now := s.now is.core
      let s' := ids.foldl (fun t id => t.parkThread id (.regrp ((s.ctx id).rd now a 0)) 1) s
      .next (s'.judgeRegrp c.block is.core) []))

/-- What the end of a thread may complete: rejoin masks of its group and a regrouping of its block (R150, R153). -/
def State.afterExit (s : State) (id : Nat) : State :=
  let c := s.ctx id
  let g := groupKey c.core c.slot
  ((List.range 8).foldl (fun s n => s.releaseJoin g n) s).judgeRegrp c.block c.core |>.settleDeadlock id

/-- A convergence register of whose partly signed operation the thread is a member that has not signed (R150). -/
def State.exitPending (s : State) (c : Ctx) (id : Nat) : Option Nat :=
  (List.range 16).find? (fun n =>
    let cv := (s.block c.block).conv n
    cv.has c && !cv.signed.isEmpty && !cv.signed.contains id)

/-- The EXIT that closes a traced task's record, that of its last live thread, finds no room for the record's
reverse-index entries (R199) (DEDUCED, log entry 58). -/
def State.closingFull (s : State) (c : Ctx) (id : Nat) (pc : DWord) : Option Trap :=
  match s.recordOf c with
  | some (k, r) =>
    let t := s.traces.getD k {}
    if s.ctxs.any (fun p => decide (p.1 ≠ id) && decide (p.2.block = c.block) && p.2.live) || t.dead then none
    else if t.size < s.usedIn k + 16 * (s.withCopies.record k r).reads.length then some (traceFull t pc) else none
  | none => none

/-- EXIT of one thread (R150) (DEDUCED, log entry 61). -/
def exitThread (i : BitVec 4) (s : State) (is : Issue) (id : Nat) : State × Bool :=
  let c := s.ctx id
  match deferredAt true true c with
  | some t => (s.takeDeferred is id t, false)
  | none =>
    if s.isTraced c ∧ (i.toNat < 6 ∨ 8 < i.toNat) then (s.trapAt id is.pc ⟨0x383, is.pc, 0⟩, false)
    else
      match s.exitPending c id with
      | some n => (s.trapAt id is.pc ⟨0x306, is.pc, BitVec.ofNat 32 n⟩, false)
      | none =>
        match s.closingFull c id is.pc with
        | some t => (s.trapAt id is.pc t, false)
        | none => ((s.updCtx id (fun c => { c.land with status := .exited })).afterExit id, false)

/-- EXIT (R149, R150): with a release, the run first holds until the threads' earlier writes have been performed. -/
def execExit (ctl : Ctl) (i : BitVec 4) (s : State) : Host.Outcome State Fault Refusal :=
  next (s.holdFirst (fun s is => if i = 0 then none else storesPending s is) (fun s =>
    foldWord s (wordInfo (.exit ctl i)) noneBusy (withEnd ctl (exitThread i))))

/-- TRAP (R149, R151). -/
def execTrap (ctl : Ctl) (n : RegField) (s : State) : Host.Outcome State Fault Refusal :=
  next (foldWord s (wordInfo (.trap ctl n)) noneBusy (withEnd ctl (fun s is id =>
    (s.trapThread id is.pc (is.pc + 4)
      ⟨BitVec.ofNat 10 (0x3C0 + n.toNat), is.pc, BitVec.ofNat 32 n.toNat⟩, false))))

/-- TRET of one thread (R151, R233): the handler flag is cleared first (DEDUCED, log entry 60). -/
def tretThread (s : State) (is : Issue) (id : Nat) : State × Bool :=
  let c := s.ctx id
  let now := s.now is.core
  let tpc : DWord := lookEarly c.early (.sp 0x41) now (highHalf c.tpc) ++ lookEarly c.early (.sp 0x40) now (lowHalf c.tpc)
  let s' := s.updCtx id (fun c => c.returnTrap tpc)
  if tpc.toNat % 4 ≠ 0 then (s'.trapAt id is.pc ⟨0x103, tpc, targetInfo⟩, false)
  else (s'.settleDeadlock id, false)

/-- TRET (R149, R151, R233). -/
def execTret (ctl : Ctl) (s : State) : Host.Outcome State Fault Refusal :=
  next (foldWord s (wordInfo (.tret ctl)) noneBusy (withEnd ctl tretThread))

/-- WFE (R157): clears a set latch and completes, or parks until it is set. -/
def execWfe (ctl : Ctl) (s : State) : Host.Outcome State Fault Refusal :=
  next (foldWord s (wordInfo (.wfe ctl)) noneBusy (fun s _ id =>
    let p := (s.ctx id).core - 192
    if (s.steward p).latch then (s.updSteward p (fun w => { w with latch := false }), true)
    else (s.parkThread id .wfe 0, false)))

/-- ITLB (R158): no translation is cached, so nothing remains to be dropped (DESIGN CHOICE, log entry 9); the run holds until the
steward's earlier stores have been performed. -/
def execItlb (ctl : Ctl) (a : RegField) (s : State) : Host.Outcome State Fault Refusal :=
  next (s.holdFirst storesPending (fun s => branchWord s (wordInfo (.itlb ctl a)) noneBusy (fun s is c =>
    let w := c.rdPair (s.now is.core) a
    if w.toNat / 2 ^ 58 % 4 = 3 ∨ w.toNat / 2 ^ 56 % 4 ≠ 0 then .trap ⟨0x001, is.pc, highHalf w⟩ else .next c)))

end Sys2Proof.Machine
end

