-- ==== Sys2Proof/Machine/Copy.lean ====
section
/-!
DEFINITION. The shuttle: COPY, chained transfers, tags and the words that wait for them (R65, R176 to R181).
-/
namespace Sys2Proof.Machine

/-- The task a handle names, unless the handle is stale (R185). -/
def State.taskOf (s : State) (h : Word) : Option Nat :=
  let e := h.toNat % 2 ^ 14
  match s.tasks.get? e with
  | some t => if t.phase ≠ .closed ∧ s.handle e = h then some e else none
  | none => none

/-- The task has not started. -/
def Task.unstarted (t : Task) : Bool := t.phase == .waiting || t.phase == .queued

/-- A handle that a copy of kind 2 may name (R177): a task not started whose counter is above 0. -/
def State.waitingTask (s : State) (h : Word) : Option Nat :=
  (s.taskOf h).filter (fun e => (s.tasks.getD e {}).unstarted && decide (0 < (s.tasks.getD e {}).waits))

/-- COPY_FAULT: FINFO holds the underlying cause and, under kind 0, the tag (R178). -/
def copyFault (kind tag : Nat) (addr : DWord) (cause : BitVec 10) : Trap :=
  ⟨0x303, addr, BitVec.ofNat 32 (cause.toNat + if kind = 0 then tag * 2 ^ 10 else 0)⟩

/-! ## Tags -/

/-- Word n of the transfer record a channel stands at, as the shuttle reads it (Table 17.3). -/
def State.recordWord (s : State) (ch : Channel) (off : Nat) : Nat :=
  match s.translate ch.part ch.cur.toNat needR with
  | .ok pa _ _ => s.shuttleNat ch.ctx (pa + off) 4
  | _ => 0

/-- The record a channel performs is a copy of completion kind 0 of a slot that names a tag. -/
def State.channelNames (s : State) (ch : Channel) (g tag : Nat) : Bool :=
  let w := s.recordWord ch 40
  ch.busy && decide (ch.grp = g) && decide (w / 16 % 4 = 0) && decide (w / 64 % 64 = tag)

/-- A copy of completion kind 0 of the slot that names the tag is outstanding (R178, R179) (DEDUCED, log entry 76). -/
def State.tagPending (s : State) (g tag : Nat) : Bool :=
  s.ops.any (fun p => decide (p.2.grp = g) && (match p.2.kind with
    | .copy c => decide (c.kind = 0) && decide (c.tag = tag)
    | .coll _ _ k t => decide (k = 0) && decide (t = tag)
    | _ => false)) ||
  (s.core (g / 128)).channels.any (fun ch => s.channelNames ch.2 g tag)

/-- The tags that complete a TWAIT, or a TWANY, of a mask (R179). -/
def tagsMet (tags mask : DWord) (any : Bool) : Option DWord :=
  let hit := tags &&& mask
  if any then if hit = 0 then none else some hit else if hit = mask then some mask else none

/-- The lowest tag of a set, or 64 (R179). -/
def lowestTag (m : DWord) : Nat := ((List.range 64).find? (fun i => m.getLsbD i)).getD 64

/-- COPY_FAULT of the lowest tag of a set that carries its fault bit. -/
def Group.tagTrap (g : Group) (hit : DWord) : Option Trap :=
  (List.range 64).findSome? (fun i => if hit.getLsbD i then g.tagFaults.get? i else none)

/-- A waiter on tags that are now set leaves, or traps COPY_FAULT at its word (R179). -/
def State.serveTag (s : State) (g id : Nat) : State :=
  match (s.ctx id).parkKind with
  | some (.tagWait any mask) =>
    match tagsMet (s.group g).tags mask any with
    | some hit =>
      match (s.group g).tagTrap hit with
      | some t => s.trapAt id (s.ctx id).pc t
      | none => s.updCtx id Ctx.wake
    | none => s
  | _ => s

/-- The waiters of a slot are judged, in arrival order. -/
def State.serveTags (s : State) (g : Nat) : State :=
  ((s.waiters (fun p => match p with | .tagWait _ _ => true | _ => false)).filter
    (fun id => groupKey (s.ctx id).core (s.ctx id).slot = g)).foldl (fun s id => s.serveTag g id) s

/-- A tag set by a completion (R178, R180), once nothing outstanding names it (DEDUCED, log entry 75). -/
def State.setReady (s : State) (g tag : Nat) : State :=
  if s.tagPending g tag then s
  else (s.updGroup g (fun x => { x with tags := x.tags ||| ((1 : DWord) <<< tag) })).serveTags g

/-! ## Completion -/

/-- A copy of kind 1 has finished (R145, R178): a failure marks the round, REMAIN falls by the bytes, and a round
whose REMAIN reaches 0 ends. -/
def State.countDown (s : State) (core part pa bytes : Nat) (fail : Option Trap) : State :=
  let s := match fail with
    | none => s
    | some t =>
      if (s.barFaults.get? pa).isSome then s.logError t.cause (logCore core) part t.info.toNat t.addr.toNat
      else { s with barFaults := s.barFaults.set pa t }
  let b := s.barrier pa
  if !(b.armed && b.bytes) then s
  else if b.remain ≤ bytes then s.endRound pa
  else s.setBarrier pa { b with remain := b.remain - bytes }

/-- The counter of a task falls by 1 (R186); the task may be taken in the next cycle (R231). -/
def State.decrement (s : State) (e : Nat) : State := s.updTask e (fun t => { t with waits := t.waits - 1, signalled := some s.time })

/-- The signal of a completed copy (Table 17.2); fail holds the failing address and its cause. A kind 1 object that the
page table denies is a protection failure, logged, and counts nothing (R178, R235). -/
def State.signalCopy (s : State) (core ctx g part kind tag bytes : Nat) (caddr : DWord)
    (fail : Option (DWord × BitVec 10)) : State :=
  let t := fail.map (fun f => copyFault kind tag f.1 f.2)
  if kind = 0 then
    let s := match t with
      | some t => s.updGroup g (fun x =>
          { x with tagFaults := if (x.tagFaults.get? tag).isSome then x.tagFaults else x.tagFaults.set tag t })
      | none => s
    s.setReady g tag
  else if kind = 1 then
    match s.translate part caddr.toNat needRW with
    | .ok pa _ _ => s.countDown core part pa bytes t
    | _ =>
      let s := s.logError 0x101 (logCore core) part (accessInfo 16 true false) caddr.toNat
      match t with
      | some t => s.logError t.cause (logCore core) part t.info.toNat t.addr.toNat
      | none => s
  else if kind = 2 then
    match t with
    | some t => s.deferError ctx t
    | none =>
      match s.waitingTask (caddr.setWidth 32) with
      | some e => s.decrement e
      | none => s.deferError ctx (copyFault 2 0 0 0x38A)
  else match t with
    | some t => s.deferError ctx t
    | none => s

/-! ## The bytes -/

/-- Addresses, row bytes and strides are multiples of 4, as the register window asks (R177). -/
def CopyRec.words (c : CopyRec) : Bool :=
  [c.src, c.dst, c.rowBytes, c.sstride, c.dstride].all (fun n => n % 4 = 0)

/-- An engine's access to one byte. -/
inductive Side where
  | ok (pa : Nat)
  /-- A failure: its cause and the address to be logged. -/
  | bad (cause : BitVec 10) (logged : Option Nat)
  | fault (level base size : Nat)
  deriving DecidableEq, Repr

/-- Where a byte access of a core's shuttle lands (R177, R178, R235); words says that register-window accesses are whole
words, denied that the answer to its translation fault was a failure (R236). -/
def State.place (s : State) (core part va : Nat) (need : Need) (words denied : Bool) : Side :=
  if 2 ^ 56 ≤ va then .bad 0x101 (some va)
  else
    match s.translate part va need with
    | .fault l b z => if denied then .bad 0x101 (some va) else .fault l b z
    | .denied => .bad 0x101 (some va)
    | .ok pa _ _ =>
      if !reaches .plain true (regionOf pa) then .bad 0x101 (some va)
      else
        let window := match regionOf pa with | .registers _ _ => true | _ => false
        if window && !words then .bad 0x103 none
        else
          match s.accessError core (if window then pa / 4 * 4 else pa) (if window then 4 else 1) with
          | some (cause, logged) => .bad cause (if logged then some pa else none)
          | none => .ok pa

/-- The access itself: over a link that is down it gets no response, and a read may meet an uncorrectable error (R63,
R178). -/
def State.side (s : State) (core part va : Nat) (need : Need) (words denied : Bool) : Side :=
  match s.place core part va need words denied with
  | .ok pa => if s.cutPeer pa then .bad 0x105 none else if need.r && s.hasEcc core pa 1 then .bad 0x104 none else .ok pa
  | r => r

/-- Why a byte cannot be copied now: its address, whether it is the destination's, and what its access met. -/
def State.obstacle (s : State) (core part : Nat) (words denied : Bool) (p : Nat × Nat) : Option (Nat × Bool × Side) :=
  match s.side core part p.1 needR words denied with
  | .ok _ =>
    match s.side core part p.2 needW words denied with
    | .ok _ => none
    | r => some (p.2, true, r)
  | r => some (p.1, false, r)

/-- Consecutive addresses joined into runs. -/
def runsOf : List (Nat × Byte) → List (Nat × List Byte)
  | [] => []
  | (a, b) :: t =>
    match runsOf t with
    | (a', l) :: r => if a + 1 = a' then (a, b :: l) :: r else (a, [b]) :: (a', l) :: r
    | [] => [(a, [b])]

/-- A byte of a register written. -/
def Ctx.setRegByte (c : Ctx) (k i : Nat) (b : Byte) : Ctx :=
  c.setV k (BitVec.ofNat 32 (ofBytes ((toBytes 4 (c.v.getD k 0).toNat).set i b)))

/-- Bytes written by the shuttle for a thread: to the register a window address was resolved to when the copy was
accepted (R228), else at the address. -/
def State.shuttleWrite (s : State) (id : Nat) (resolved : List (Nat × Nat × Nat)) (p : Nat × List Byte) : State :=
  match regionOf p.1 with
  | .registers _ _ =>
    (p.2.zip (List.range p.2.length)).foldl (fun s q =>
      let pa := p.1 + q.2
      match resolved.find? (fun x => x.1 = pa / 4 * 4) with
      | some (_, c, k) => s.updCtx c (fun c => c.setRegByte k (pa % 4) q.1)
      | none => s.writePhys (s.ctx id).core pa [q.1]) s
  | _ => s.performStore (s.ctx id) true p.1 p.2

/-- The granules of a copy entered in its traced task's record, or TRACE_FULL at the first address whose entry does not
fit (R199). -/
def State.recordCells (s : State) (c : Ctx) (part : Nat) : List (Nat × Nat) → State ⊕ Trap
  | [] => .inl s
  | (a, b) :: t =>
    let side := fun (s : State) (va : Nat) (need : Need) =>
      match s.translate part va need with
      | .ok pa _ mod => s.recordAccess c mod need.w pa 1 (BitVec.ofNat 64 va)
      | _ => .inl s
    match side s a needR with
    | .inr x => .inr x
    | .inl s' =>
      match side s' b needW with
      | .inr x => .inr x
      | .inl s'' => s''.recordCells c part t

/-- The bytes moved (R177): cells good are copied, the destination bytes of the others are undefined (R178). Where a
destination byte is a source byte, every destination byte is undefined; so is one that is written twice
(DEDUCED, log entry 89). -/
def State.moveBytes (s : State) (id core part : Nat) (c : CopyRec) (good rest : List (Nat × Nat)) : State :=
  let s := s.recordCopy id part good rest
  let at' := fun (va : Nat) (need : Need) => match s.place core part va need c.words true with
    | .ok pa => some pa
    | _ => none
  let sources := (good ++ rest).filterMap (fun p => at' p.1 needR)
  let dests := (good ++ rest).filterMap (fun p => at' p.2 needW)
  let overlap := dests.any sources.contains
  let free := fun pa => overlap || decide (1 < dests.count pa)
  let moved := good.filterMap (fun p =>
    match at' p.1 needR, at' p.2 needW with
    | some a, some b => some (b, if free b then Config.freeByte (s.free + b) else s.shuttleByte id a)
    | _, _ => none)
  let lost := rest.filterMap (fun p => (at' p.2 needW).map (fun b => (b, Config.freeByte (s.free + b))))
  let s' := (runsOf (moved ++ lost)).foldl (fun s p => s.shuttleWrite id c.resolved p) s
  { s' with free := s'.free + 2 ^ 52 }

/-- What a copy does when the shuttle performs it. -/
inductive Moved where
  /-- It waits for an answer to its translation fault, on an entry or a mark; obj says that the walk is that to its kind 1
  object. -/
  | wait (s : State) (entry : Nat) (obj : Bool)
  | done (s : State) (fail : Option (DWord × BitVec 10))
  deriving DecidableEq, Repr

/-- The walk to a copy's kind 1 object meets an invalid entry (R178). -/
def State.objectFault (s : State) (c : CopyRec) (noObject : Bool) : Option (Nat × Nat × Nat) :=
  if c.kind = 1 ∧ !noObject then
    match s.translate c.part c.caddr.toNat needRW with
    | .fault l b z => some (l, b, z)
    | _ => none
  else none

/-- The source byte of a copy's access that gets no response is undefined (R63). -/
def State.unanswered (s : State) (part va : Nat) (need : Need) (cause : BitVec 10) : State :=
  if cause ≠ 0x105 then s
  else match s.translate part va need with
  | .ok pa _ _ => s.undefine pa 1
  | _ => s

/-- A copy performed for a thread of a core (R177, R178), once no walk of it is left to be answered: denied and noObject say
that the walk to a byte, and that to its object, have been refused; ecc is the byte at which an uncorrectable error was found,
late the cause of a missing response. -/
def State.runCopy (s : State) (id core : Nat) (c : CopyRec) (denied noObject : Bool) (ecc : Option Nat) (late : Bool) : Moved :=
  let cells := c.cells
  let remote := fun (va : Nat) (need : Need) => match s.translate c.part va need with
    | .ok pa _ _ => (match regionOf pa with | .peer _ _ => true | _ => false)
    | _ => false
  let bad := (cells.zip (List.range cells.length)).findSome? (fun q =>
    if ecc = some q.2 then some (q.2, q.1.1, false, Side.bad 0x104 none)
    else
      match s.obstacle core c.part c.words denied q.1 with
      | some o => some (q.2, o)
      | none =>
        if late && remote q.1.1 needR then some (q.2, q.1.1, false, Side.bad 0x105 none)
        else if late && remote q.1.2 needW then some (q.2, q.1.2, true, Side.bad 0x105 none)
        else none)
  match bad, s.objectFault c noObject with
  | some (_, va, w, .fault l b z), _ =>
    let r := s.awaitFault core c.part l b z va (accessInfo 1 w false) 1
    .wait r.1 r.2 false
  | _, some (l, b, z) =>
    let r := s.awaitFault core c.part l b z c.caddr.toNat (accessInfo 16 true false) 1
    .wait r.1 r.2 true
  | none, none => .done (s.moveBytes id core c.part c cells []) none
  | some (i, va, w, .bad cause logged), none =>
    let s := (s.moveBytes id core c.part c (cells.take i) (cells.drop i)).unanswered c.part va (if w then needW else needR) cause
    let s := match logged with
      | some a => s.logError cause (logCore core) c.part (accessInfo 1 w false) a
      | none => s
    .done s (some (BitVec.ofNat 64 va, cause))
  | some (_, va, _, .ok _), none => .done s (some (BitVec.ofNat 64 va, 0x101))

/-- Register-window destinations resolved to contexts (R228). -/
def State.resolveWindow (s : State) (part : Nat) (c : CopyRec) : List (Nat × Nat × Nat) :=
  c.cells.filterMap (fun p =>
    match s.translate part p.2 needW with
    | .ok pa _ _ =>
      match regionOf pa with
      | .registers core off =>
        if pa % 4 = 0 then (s.windowReg core off).map (fun r => (pa, r.1, r.2)) else none
      | _ => none
    | _ => none)

/-! ## COPY -/

/-- The copy that ten words describe (Table 17.1). -/
def copyOf (l : List Word) (kind tag part : Nat) : CopyRec :=
  { src := wordAt l 0 + wordAt l 1 * 2 ^ 32, dst := wordAt l 2 + wordAt l 3 * 2 ^ 32
    rowBytes := wordAt l 4, rows := wordAt l 5, sstride := wordAt l 6, dstride := wordAt l 7
    kind := kind, tag := tag, caddr := BitVec.ofNat 64 (wordAt l 8 + wordAt l 9 * 2 ^ 32), part := part, resolved := [] }

/-- An address with bits [63:56] set (R177 check 2): it, and the layout of its access (DESIGN CHOICE, log entry 73). -/
def CopyRec.wild (c : CopyRec) : Option (Nat × Nat) :=
  if 2 ^ 56 ≤ c.src then some (c.src, accessInfo 1 false false)
  else if 2 ^ 56 ≤ c.dst then some (c.dst, accessInfo 1 true false)
  else if c.kind = 1 ∧ 2 ^ 56 ≤ c.caddr.toNat then some (c.caddr.toNat, accessInfo 16 true false)
  else none

/-- The trap of a kind 1 object that does not count bytes (R177 check 3). -/
def State.objectTrap (s : State) (pa : Nat) (ea : DWord) : Option Trap :=
  let b := s.barrier pa
  if !b.armed then some ⟨0x20B, ea, 0⟩ else if !b.bytes then some ⟨0x20C, ea, 0⟩ else none

/-- TRACE_FULL where the record of a traced task has no room for the bytes that a copy or a chain of a thread would move
(R199) (DESIGN CHOICE, log entry 118). -/
def State.noRoom (s : State) (id part : Nat) (cells : List (Nat × Nat)) : Option Trap :=
  if s.isTraced (s.ctx id) then
    match s.recordCells (s.ctx id) part cells with
    | .inr t => some t
    | .inl _ => none
  else none

/-- A copy accepted for a thread, if its traced task's record has room for it (R199): one of no bytes signals at once. -/
def State.acceptCopy (s : State) (is : Issue) (id : Nat) (c : CopyRec) : State × Bool :=
  match s.noRoom id c.part c.cells with
  | some t => (s.trapAt id is.pc t, false)
  | none =>
    let s := s.returnLoads id s.nextOp
    if c.rowBytes = 0 ∨ c.rows = 0 then (s.signalCopy is.core id is.key c.part c.kind c.tag 0 c.caddr none, true)
    else (s.addOp (s.threadOp is id [] 0 0 false (.copy { c with resolved := s.resolveWindow c.part c })), true)

/-- COPY of one thread (R177). -/
def copyThread (g a : RegField) (k : BitVec 4) (s : State) (is : Issue) (id : Nat) : State × Bool :=
  let c := s.ctx id
  let l := (List.range 10).map (c.rd (s.now is.core) a)
  let r := copyOf l k.toNat g.toNat (s.partOf c)
  if r.tooBig then (s.trapAt id is.pc ((invalid 5 31).trap is.pc), false)
  else
    match r.wild with
    | some (va, info) => (s.trapAt id is.pc ⟨0x101, BitVec.ofNat 64 va, BitVec.ofNat 32 info⟩, false)
    | none =>
      if r.kind = 1 then
        match s.reach is id r.caddr 16 16 needRW true .atomic true with
        | .stop t => (t, false)
        | .ok s pa _ =>
          match s.objectTrap pa r.caddr with
          | some t => (s.trapAt id is.pc t, false)
          | none => s.acceptCopy is id r
      else if r.kind = 2 ∧ (wordAt l 9 ≠ 0 ∨ s.waitingTask (l.getD 8 0) = none) then
        (s.trapAt id is.pc ⟨0x38A, is.pc, l.getD 8 0⟩, false)
      else s.acceptCopy is id r

/-- The copies of a core in flight. -/
def State.copiesOf (s : State) (core : Nat) : Store Op :=
  s.ops.filter (fun p => decide (p.2.core = core) && (match p.2.kind with | .copy _ => true | _ => false))

/-- A COPY holds its run while what its threads wrote before is in flight (R65) (DEDUCED, log entry 72). -/
def copyWaits (s : State) (is : Issue) : Option (Option Instr) := (is.cohort.findSome? s.oldestWrite).map some

/-- The outcome of a COPY for the threads of an issue so far: the state, those whose copies are accepted, and whether one
waits for room. -/
structure Accepting where
  s : State
  accepted : List Nat
  full : Bool

/-- One thread of a COPY, in lane order: checked and accepted while the shuttle's queue of 256 has room (R177). -/
def acceptNext (g a : RegField) (k : BitVec 4) (is : Issue) (q : Accepting) (id : Nat) : Accepting :=
  if q.full || q.accepted.contains id then q
  else if 256 ≤ (q.s.copiesOf is.core).length then { q with full := true }
  else
    match copyThread g a k q.s is id with
    | (t, true) => { q with s := t, accepted := q.accepted ++ [id] }
    | (t, false) => { q with s := t.leaveRun id }

/-- COPY for the threads that pass R98 (R177): it goes on when every copy has been accepted; else its run, without the
threads that have trapped or parked, waits for an entry to free. -/
def copyIssue (g a : RegField) (k : BitVec 4) (w : WordInfo) (is : Issue) (s s' : State) (ids : List Nat) : State :=
  let q := ids.foldl (acceptNext g a k is) ⟨s', (s.runOf is).accepted, false⟩
  if q.full then
    (((is.cohort.filter (fun id => !ids.contains id)).foldl State.leaveRun q.s).updGroup is.key (fun x => { x with run := x.run.map (fun r => { r with accepted := q.accepted }) })).hold is
      ((q.s.copiesOf is.core).head?.bind (fun p => completion p.1 p.2))
  else
    let cont := ids.filter q.accepted.contains
    (q.s.mapCtxs cont Ctx.advance).finish is w cont (s.chainAfter is w ids)

/-- COPY (R177). -/
def execCopy (ctl : Ctl) (g a : RegField) (k : BitVec 4) (s : State) : Host.Outcome State Fault Refusal :=
  let w := wordInfo (.copy ctl g a k)
  next (s.holdFirst copyWaits (fun s =>
    match s.issue with
    | none => s
    | some is =>
      match s.start is w noneBusy with
      | .done s' => s'
      | .go s' ids => copyIssue g a k w is s s' ids))

/-- COPY_COMPLETE (R178): the copy is performed whole, or waits on its fault, and signals (DEDUCED, log entry 74). -/
def State.finishCopy (s : State) (k : Nat) (o : Op) (c : CopyRec) (ecc : Option Nat) (late : Bool) : State :=
  match s.runCopy o.ctx o.core c (o.err == some 0x101) o.noObject ecc late with
  | .wait s' entry obj => s'.updOp k (fun x => { x with fault := some entry, atObject := obj })
  | .done s' fail =>
    (s'.dropOp k).signalCopy o.core o.ctx o.grp c.part c.kind c.tag (c.rowBytes * c.rows) c.caddr fail

/-- COPY_COMPLETE (R178). -/
def execCopyComplete (op : Nat) (ecc : Option Nat) (s : State) : Host.Outcome State Fault Refusal :=
  next (match s.ops.get? op with
    | some o =>
      match o.kind with
      | .copy c => if o.fault = none then s.finishCopy op o c ecc false else s
      | _ => s
    | none => s)

/-! ## Tag words -/

/-- The mask of a tag word. -/
def tagMask (s : State) (is : Issue) (id : Nat) (a : RegField) : DWord := (s.ctx id).rdPair (s.now is.core) a

/-- The tag for which a TWAIT or TWANY traps TAG_NONE_PENDING (R179). -/
def State.tagNone (s : State) (g : Nat) (mask : DWord) (any : Bool) : Option Nat :=
  if any ∧ mask = 0 then some 64
  else (List.range 64).find? (fun i => mask.getLsbD i && !(s.group g).tags.getLsbD i && !s.tagPending g i)

/-- TWAIT or TWANY of one thread (R179). -/
def tagWaitThread (any : Bool) (a : RegField) (s : State) (is : Issue) (id : Nat) : State × Bool :=
  match deferredAt true false (s.ctx id) with
  | some t => (s.takeDeferred is id t, false)
  | none =>
    let mask := tagMask s is id a
    match s.tagNone is.key mask any with
    | some i => (s.trapAt id is.pc ⟨0x308, is.pc, BitVec.ofNat 32 i⟩, false)
    | none =>
      match tagsMet (s.group is.key).tags mask any with
      | some hit =>
        match (s.group is.key).tagTrap hit with
        | some t => (s.trapAt id is.pc t, false)
        | none => (s, true)
      | none => (s.parkThread id (.tagWait any mask) 0, false)

/-- TWAIT (R179). -/
def execTwait (ctl : Ctl) (a : RegField) (s : State) : Host.Outcome State Fault Refusal :=
  next (foldWord s (wordInfo (.twait ctl a)) noneBusy (tagWaitThread false a))

/-- TWANY (R179). -/
def execTwany (ctl : Ctl) (a : RegField) (s : State) : Host.Outcome State Fault Refusal :=
  next (foldWord s (wordInfo (.twany ctl a)) noneBusy (tagWaitThread true a))

/-- TFFR (R179): the lowest tag of the mask that is set, or 64. -/
def execTffr (ctl : Ctl) (d a : RegField) (s : State) : Host.Outcome State Fault Refusal :=
  next (threadWord s (wordInfo (.tffr ctl d a)) noneBusy (fun s is c =>
    let now := s.now is.core
    let tags := match s.chainOf is with | some ch => ch.tags | none => (s.group is.key).tags
    c.setV (c.resolve now d) (BitVec.ofNat 32 (lowestTag (tags &&& c.rdPair now a)))))

/-- Tags and their fault bits cleared (R179). -/
def Group.clearTags (g : Group) (mask : DWord) : Group :=
  { g with tags := g.tags &&& ~~~mask, tagFaults := g.tagFaults.filter (fun p => !mask.getLsbD p.1) }

/-- TCLR (R179). -/
def execTclr (ctl : Ctl) (a : RegField) (s : State) : Host.Outcome State Fault Refusal :=
  next (foldWord s (wordInfo (.tclr ctl a)) noneBusy (fun s is id =>
    (s.updGroup is.key (fun g => g.clearTags (tagMask s is id a)), true)))

/-! ## Chained transfers -/

/-- The state with f applied to a channel of a core. -/
def State.updChannel (s : State) (core ch : Nat) (f : Channel → Channel) : State :=
  s.updCore core (fun c => { c with channels := c.channels.set ch (f (c.channels.getD ch {})) })

/-- A channel of a core. -/
def State.channel (s : State) (core ch : Nat) : Channel := (s.core core).channels.getD ch {}

/-- CHAINGO waits for its threads' stores, and for its channel to go idle (R181). -/
def chainWaits (h : RegField) (s : State) (is : Issue) : Option (Option Instr) :=
  (storesPending s is).or
    (let ch := s.channel is.core h.toNat
     if ch.busy then some (if ch.wait = none then some (.chainRecordComplete is.core h.toNat) else none) else none)

/-- CHAINGO (R181): a head of 0 walks no record (DEDUCED, log entry 77). -/
def execChaingo (ctl : Ctl) (h a : RegField) (s : State) : Host.Outcome State Fault Refusal :=
  next (s.holdFirst (chainWaits h) (fun s =>
    onceWord s (wordInfo (.chaingo ctl h a)) noneBusy (fun s is ids =>
      let id := ids.headD 0
      let head := (s.ctx id).rdPair (s.now is.core) a
      let info : Word := BitVec.ofNat 32 (accessInfo 64 false false)
      if 2 ^ 56 ≤ head.toNat then .trap ⟨0x101, head, info⟩
      else if head.toNat % 64 ≠ 0 then .trap ⟨0x103, head, info⟩
      else
        let part := s.partOf (s.ctx id)
        match s.noRoom id part (s.chainAt id part head.toNat) with
        | some t => .trap t
        | none => .next (s.updChannel is.core h.toNat (fun ch =>
          { ch with
            head := head, cur := head, busy := decide (head ≠ 0), fault := false, ctx := id, grp := is.key
            part := part, wait := none, denied := false, atObject := false, noObject := false })) ids)))

/-- The copy of the record a channel stands at. -/
def State.recordCopyOf (s : State) (ch : Channel) : CopyRec :=
  match s.translate ch.part ch.cur.toNat needR with
  | .ok pa _ _ => s.transfer ch.ctx pa ch.part
  | _ => copyOf [] 3 0 ch.part

/-- The checks of R177 on a record that come before its object's walk: the cause of the first that fails and its address
(DEDUCED, log entry 78). -/
def CopyRec.firstCheck (c : CopyRec) (at' : DWord) : Option (DWord × BitVec 10) :=
  if c.tooBig then some (at', 0x300)
  else
    match c.wild with
    | some (va, _) => some (BitVec.ofNat 64 va, 0x101)
    | none => if c.kind = 1 ∧ c.caddr.toNat % 16 ≠ 0 then some (c.caddr, 0x103) else none

/-- The checks of R177 on a record: the cause of the first that fails and its address; the address of its kind 1 object
is its own failing address (DEDUCED, log entry 78). -/
def State.recordCheck (s : State) (at' : DWord) (c : CopyRec) : Option (DWord × BitVec 10) :=
  match c.firstCheck at' with
  | some f => some f
  | none =>
    if c.kind = 1 then
      match s.translate c.part c.caddr.toNat needRW with
      | .ok pa _ _ =>
        if !reaches .atomic true (regionOf pa) then some (c.caddr, 0x101)
        else (s.objectTrap pa c.caddr).map (fun t => (c.caddr, t.cause))
      | _ => some (c.caddr, 0x101)
    else if c.kind = 2 ∧ ((c.caddr >>> 32).toNat ≠ 0 ∨ s.waitingTask (c.caddr.setWidth 32) = none) then
      some (at', 0x38A)
    else none

/-- A fault stops the walk at the record (R181). -/
def Channel.stop (c : Channel) (fail : Option (DWord × BitVec 10)) : Channel :=
  match fail with
  | some (a, cause) =>
    { c with busy := false, fault := true, cause := cause.setWidth 32, addr := a, denied := false, noObject := false }
  | none => { c with busy := false, denied := false, noObject := false }

/-- A record has been performed: it signals as COPY of its KIND would, STATUS, FAULT, DONE and OWN are written, and the
channel goes on to NEXT or stops (R181). A record whose checks failed and whose object is unusable signals nothing. -/
def State.closeRecord (s : State) (core n : Nat) (ch : Channel) (pa : Nat) (c : CopyRec)
    (fail : Option (DWord × BitVec 10)) (signal : Bool) : State :=
  let s := s.updChannel core n (fun x => x.stop fail)
  let s := if signal then
      s.signalCopy core ch.ctx ch.grp ch.part c.kind c.tag (c.rowBytes * c.rows) c.caddr fail
    else s
  let w := s.shuttleNat ch.ctx (pa + 40) 4
  let flags := w / 8 * 8 + 2 + (if fail.isSome then 4 else 0)
  let status := match fail with | some (_, cause) => cause.toNat | none => 0
  let nxt := s.shuttleNat ch.ctx (pa + 32) 8
  let s := s.performStore (s.ctx ch.ctx) true (pa + 40) (toBytes 4 flags ++ toBytes 4 status)
  if fail.isSome then s
  else s.updChannel core n (fun x => { x with cur := BitVec.ofNat 64 nxt, busy := decide (nxt ≠ 0) })

/-- A channel waits on an entry or a mark of its core's fault buffer; obj says that it walks to its record's object. -/
def State.channelFault (s : State) (core n l b z va info : Nat) (obj : Bool) : State :=
  let r := s.awaitFault core (s.channel core n).part l b z va info 1
  r.1.updChannel core n (fun x => { x with wait := some r.2, atObject := obj })

/-- A kind 1 object whose address breaks no rule of its own. -/
def CopyRec.tameObject (c : CopyRec) : Bool := decide (c.caddr.toNat < 2 ^ 56) && decide (c.caddr.toNat % 16 = 0)

/-- The failure of a record can be signalled: but for kind 1, where the object cannot be reached or counts no bytes. -/
def State.signals (s : State) (c : CopyRec) : Bool :=
  decide (c.kind ≠ 1) || (c.tameObject && (match s.translate c.part c.caddr.toNat needRW with
    | .ok pa _ _ => reaches .atomic true (regionOf pa) && (s.objectTrap pa c.caddr).isNone
    | _ => false))

/-- A record that belongs to the shuttle, at a physical address, is performed as COPY of its KIND would be (R181): a walk
to its kind 1 object or to its bytes that must be answered first makes the channel wait. -/
def State.performOwned (s : State) (core n : Nat) (ch : Channel) (pa : Nat) : State :=
  let c := s.transfer ch.ctx pa ch.part
  match if c.tameObject then s.objectFault c ch.noObject else none with
  | some (l, b, z) => s.channelFault core n l b z c.caddr.toNat (accessInfo 16 true false) true
  | none =>
    match s.recordCheck ch.cur c with
    | some f =>
      let denied := decide (c.kind = 1) && c.tameObject && (match s.translate c.part c.caddr.toNat needRW with
        | .ok _ _ _ => false
        | _ => true)
      let signal := s.signals c
      let s := if denied then s.logError 0x101 (logCore core) ch.part (accessInfo 16 true false) c.caddr.toNat else s
      s.closeRecord core n ch pa c (some f) signal
    | none =>
      match s.runCopy ch.ctx core { c with resolved := s.resolveWindow ch.part c } ch.denied ch.noObject none false with
      | .wait s' entry obj => s'.updChannel core n (fun x => { x with wait := some entry, atObject := obj })
      | .done s' fail => s'.closeRecord core n ch pa c fail true

/-- A channel performs the record it stands at (R181). A pointer that is no multiple of 64 faults. -/
def State.performRecord (s : State) (core n : Nat) : State :=
  let ch := s.channel core n
  let va := ch.cur.toNat
  let stop := fun (w : Bool) (cause : BitVec 10) (logged : Option Nat) =>
    (match logged with
     | some a => s.logError cause (logCore core) ch.part (accessInfo 64 w false) a
     | none => s).updChannel core n (fun x => x.stop (some (ch.cur, cause)))
  if !ch.busy || ch.wait.isSome then s
  else if va % 64 ≠ 0 then s.updChannel core n (fun x => x.stop (some (ch.cur, 0x103)))
  else
    match s.side core ch.part va needR false ch.denied, s.side core ch.part va needW false ch.denied with
    | .ok pa, .ok _ =>
      if s.shuttleNat ch.ctx (pa + 40) 4 % 2 = 0 then s.updChannel core n (fun x => x.stop none)
      else s.performOwned core n ch pa
    | .fault l b z, _ => s.channelFault core n l b z va (accessInfo 64 false false) false
    | .bad cause logged, _ => stop false cause logged
    | _, .bad cause logged => stop true cause logged
    | _, .fault _ _ _ => s

/-- CHAIN_RECORD_COMPLETE (R181). -/
def execChainRecordComplete (core chan : Nat) (s : State) : Host.Outcome State Fault Refusal :=
  next (s.performRecord core chan)

end Sys2Proof.Machine
end

