-- ==== Sys2Proof/Machine/Traces.lean ====
section
/-!
DEFINITION. Tasks' ranges and dependences, and the trace unit: records, propagation, MWRITE, PROP, TRFREE and TRSTAT
(R34, R184 to R190, R195 to R207).
-/
namespace Sys2Proof.Machine

/-! ## Ranges and dependences -/

/-- A range of two words (Table 17.6): none when it breaks the table, else the range if it is valid. -/
def rangeOf (w0 w1 : Word) : Option (Option Range) :=
  let len := w1.toNat / 2 ^ 16 % 2 ^ 14
  if w0.toNat % 64 ≠ 0 then none
  else if w1.msb then
    if len = 0 then none
    else some (some ⟨w0.toNat + w1.toNat % 2 ^ 16 * 2 ^ 32, len, w1.getLsbD 30⟩)
  else if w0 = 0 ∧ w1 = 0 then some none
  else none

/-- The valid ranges of four pairs of words, none when one breaks Table 17.6. -/
def rangesOf : List Word → Option (List Range)
  | w0 :: w1 :: t =>
    match rangeOf w0 w1, rangesOf t with
    | some r, some l => some (r.toList ++ l)
    | _, _ => none
  | _ => some []

/-- Range a lies inside range b, a written one inside a written one (R34, R185). -/
def Range.inside (a b : Range) : Bool :=
  decide (b.base ≤ a.base) && decide (a.base + 64 * a.len ≤ b.base + 64 * b.len) && (b.written || !a.written)

/-- Two sets of ranges overlap where at least one is written (R34). -/
def rangesClash (a b : List Range) : Bool :=
  a.any (fun x => b.any (fun y => (x.written || y.written) && decide (x.base < y.base + 64 * y.len) &&
    decide (y.base < x.base + 64 * x.len)))

/-- A task has ended, but for its subtree. -/
def Task.isOver (t : Task) : Bool := t.phase == .ended || t.phase == .closed

/-- A task that another must wait for (R34, R250): of the same launch, with a lower key, no ancestor, its subtree not
finished, their ranges clashing; not between two blocks of the launch. -/
def Task.awaits (t u : Task) : Bool :=
  decide (t.launch = u.launch) && keyLess u.key t.key && !u.key.isPrefixOf t.key &&
    !(t.root.isSome && u.root.isSome) && rangesClash t.ranges u.ranges

/-- Every dependence of a task has cleared. -/
def State.depsClear (s : State) (t : Task) : Bool := !s.tasks.any (fun p => t.awaits p.2)

/-! ## The record of a trace -/

/-- A record with its descendants; n bounds the depth. -/
def Trace.subtree (t : Trace) : Nat → Nat → List Nat
  | 0, r => [r]
  | n + 1, r =>
    let x := t.recs.getD r {}
    r :: (x.children ++ x.oldChildren ++ x.skipped).flatMap (t.subtree n)

/-- The ancestors of a record; n bounds their number. -/
def Trace.ancestors (t : Trace) : Nat → Nat → List Nat
  | 0, _ => []
  | n + 1, r =>
    match (t.recs.getD r {}).parent with
    | some p => p :: t.ancestors n p
    | none => []

/-- A counter of Table 17.7 raised by n. -/
def bump (w : Word) (n : Nat) : Word := addSat w n

/-- The launch that runs the tasks of a trace's PROP. -/
def State.propLaunch (s : State) (k : Nat) : Option Nat :=
  (s.launches.keysWhere (fun _ l => l.prop == some k)).head?

/-- A record waits in the stale queue: stale, not running, and no ancestor of it runs or is stale (R200, R203). -/
def Trace.pending (t : Trace) (r : Nat) : Bool :=
  let x := t.recs.getD r {}
  x.stale && x.task.isNone && (t.ancestors t.recs.length r).all (fun a =>
    !(t.recs.getD a {}).stale && (t.recs.getD a {}).task.isNone)

/-- A stale record of the trace that a task or record with this key and these ranges must wait for (R202): one that waits
itself for a stale ancestor of both is none. -/
def Trace.staleBefore (t : Trace) (key : List Nat) (ranges : List Range) : Bool :=
  t.recs.any (fun p => p.2.stale && p.2.task.isNone && keyLess p.2.key key && !p.2.key.isPrefixOf key &&
    rangesClash p.2.ranges ranges &&
    !(t.ancestors t.recs.length p.1).any (fun a => (t.recs.getD a {}).stale && (t.recs.getD a {}).key.isPrefixOf key))

/-- A task of a PROP beside which another with this key and these ranges may not run (R202): an ancestor of it that has not
ended, a descendant, one with a lower key whose ranges clash, or one with a higher key that runs (R34). -/
def Task.bars (t : Task) (key : List Nat) (ranges : List Range) : Bool :=
  if t.key.isPrefixOf key then !t.isOver
  else key.isPrefixOf t.key || (rangesClash t.ranges ranges && (keyLess t.key key || t.phase == .running))

/-- A stale record may be re-executed now (R202). -/
def State.staleReady (s : State) (k r : Nat) : Bool :=
  let t := s.traces.getD k {}
  let x := t.recs.getD r {}
  t.pending r && !t.staleBefore x.key x.ranges &&
    !s.tasks.any (fun p => decide (s.propLaunch k = some p.2.launch) && p.2.bars x.key x.ranges)

/-- The lowest free entry of the dependence table. -/
def State.freeEntry (s : State) : Option Nat := (List.range 16384).find? (fun e => s.tasks.get? e = none)

/-- A task entered in the dependence table: its entry's generation is raised (R185). -/
def State.enterTask (s : State) (e : Nat) (t : Task) : State :=
  let gen := (s.gens.getD e 0 + 1) % 2 ^ 16
  { s with gens := s.gens.set e gen, tasks := s.tasks.set e { t with gen := gen } }

/-- A record's old sets are set aside for its re-execution (R203). -/
def TraceTask.setAside (x : TraceTask) (task : Nat) : TraceTask :=
  { x with
    task := some task, oldReads := x.reads, reads := [], oldWrites := x.writes, writes := [], oldChildren := x.children
    children := []
    skipped := [], closed := false }

/-- The running PROP of a trace counts a task (R188). -/
def Trace.countTask (t : Trace) : Trace :=
  match t.props with
  | p :: rest => { t with props := { p with count := bump p.count 1 } :: rest }
  | [] => t

/-- The task that re-executes a record, with its recorded kernel and block, in launch l (R203): a root has the modes of the
launch's kernel, a spawned task those of its block. -/
def TraceTask.again (x : TraceTask) (k r l : Nat) (q : Launch) : Task :=
  { launch := l, kid := x.kid, nthr := x.nthr, bclass := x.bclass, traced := true, args := x.args, spawn := x.spawn
    det := if x.parent = none then q.kernel.det else (x.spawn.getD 0 0).getLsbD 22
    restart := if x.parent = none then q.kernel.restartable else (x.spawn.getD 0 0).getLsbD 20
    ranges := x.ranges, key := x.key, record := some (k, r), byProp := true
    root := if x.parent = none then x.key.head? else none }

/-- Stale records that may run become tasks, in the order given; a full dependence table delays them (R202). -/
def State.startStale (s : State) (k l : Nat) : List Nat → State
  | [] => s
  | r :: rest =>
    match s.freeEntry with
    | none => s
    | some e =>
      if s.staleReady k r then
        let x := s.record k r
        ((((s.enterTask e (x.again k r l (s.launches.getD l {}))).updRecord k r (fun x => x.setAside e)).updTrace k (fun t =>
          { t.countTask with reexecuted := bump t.reexecuted 1 })).startStale k l rest)
      else s.startStale k l rest

/-- Records of a trace in ascending order of their keys. -/
def Trace.byKey (t : Trace) : List Nat :=
  t.recs.foldl (fun l p =>
    l.filter (fun q => !keyLess p.2.key (t.recs.getD q {}).key) ++ [p.1] ++
      l.filter (fun q => keyLess p.2.key (t.recs.getD q {}).key)) []

/-- The launch under which a PROP runs tasks, made if there is none: its tasks fetch the code as it stood when the PROP was
issued, and a thread of theirs that reads LAUNCH finds the number of the trace's own launch (R203, R274)
(DESIGN CHOICE, log entry 69). -/
def State.withPropLaunch (s : State) (k : Nat) : State × Nat :=
  match s.propLaunch k with
  | some l => (s, l)
  | none =>
    let t := s.traces.getD k {}
    let m := t.model
    let l := Nat.max 1 s.launches.nextKey
    ({ s with
        launches := s.launches.set l
          { m with
            part := k / 16, prop := some k, ending := none, trace := none, slot := none, gang := none, order := s.seq
            image := some ((t.props.head?).elim s.mem (·.image)), past := (t.props.head?).elim [] (·.past)
            dispatched := m.nbx * m.nby * m.nbz }
        seq := s.seq + 1 }, l)

/-- The granules of a partition's ranges that an access of this need reaches, by physical address. -/
def State.rangeGranules (s : State) (part : Nat) (need : Need) (l : List Range) : List Nat :=
  l.flatMap (fun r => (List.range r.len).filterMap (fun i =>
    match s.translate part (r.base + 64 * i) need with
    | .ok pa _ _ => some (pa / 64)
    | _ => none))

/-- The granules that a trace's tasks may store to of the ranges that they declare, or of the written ones alone, and those
that they have written: nothing undefined reaches memory that the partition cannot write (R1). -/
def State.traceReach (s : State) (k : Nat) (written : Bool) : List Nat :=
  ((s.traces.getD k {}).recs.flatMap (fun p =>
    s.rangeGranules (k / 16) needW (p.2.ranges.filter (fun r => r.written || !written)) ++ p.2.writes.map (·.1))).eraseDups

/-- Two tasks of a trace write one granule, or one reads it whose key is not above its writer's (R206, condition 1). -/
def Trace.crossed (t : Trace) : Bool :=
  t.recs.any (fun p => t.recs.any (fun q => decide (p.1 ≠ q.1) && p.2.writes.any (fun w =>
    (q.2.writes.map (·.1)).contains w.1 || (q.2.reads.contains w.1 && !keyLess p.2.key q.2.key))))

/-- A task of a trace has made an access that its declared ranges do not cover, so that they do not order it with another
task's access to the granule, where one of the two is a write (R206, condition 4). -/
def State.uncovered (s : State) (k : Nat) : Bool :=
  let l := (s.traces.getD k {}).recs
  let writes := fun (x : TraceTask) g => (x.writes.map (·.1)).contains g
  l.any (fun p =>
    let all := s.rangeGranules (k / 16) ⟨false, false, false⟩ p.2.ranges
    let wr := s.rangeGranules (k / 16) ⟨false, false, false⟩ (p.2.ranges.filter (·.written))
    p.2.reads.any (fun g => !all.contains g && l.any (fun q => decide (q.1 ≠ p.1) && writes q.2 g)) ||
      p.2.writes.any (fun w => !wr.contains w.1 &&
        l.any (fun q => decide (q.1 ≠ p.1) && (writes q.2 w.1 || q.2.reads.contains w.1))))

/-- What a PROP leaves undefined: its count and the granules that the trace's tasks may write, where a program has written
the trace's store (R198); the granules of the declared ranges and those its tasks write, where the program breaks
condition 1 or 4 of R206 (DESIGN CHOICE, log entry 101). -/
def State.settleResults (s : State) (k : Nat) (n : Word) : State × Word :=
  let t := s.traces.getD k {}
  if t.spoiled then
    let r := s.freshWord
    ((s.traceReach k true).foldl (fun s g => s.undefine (g * 64) 64) r.2, r.1)
  else if t.crossed || s.uncovered k then
    ((s.traceReach k false).foldl (fun s g => s.undefine (g * 64) 64) s, n)
  else (s, n)

/-- A PROP's result reaches its threads, or its slot (R188, R248). -/
def State.answerProp (s : State) (k w : Nat) (n : Word) : State :=
  let (s, n) := s.settleResults k n
  if 2 ^ 40 ≤ w then s.propSlotDone (w - 2 ^ 40) n
  else
    (s.propThreads w).foldl (fun s id => s.updCtx id (fun c =>
      match c.parkKind with
      | some (.prop _ d _) => (c.setV d n).wake
      | _ => c)) s

/-- No stale record remains, and no task of the PROP. -/
def State.propIdle (s : State) (k : Nat) : Bool :=
  !(s.traces.getD k {}).recs.any (fun p => p.2.stale) &&
    !s.tasks.any (fun p => s.propLaunch k == some p.2.launch) &&
    !s.blocks.any (fun p => s.propLaunch k == some p.2.launch)

/-- The PROPs of a trace go on (R188): finished ones are answered in order, and the first that has work starts what may
start; n bounds how many are answered. -/
def State.settleProp (s : State) (k : Nat) : Nat → State
  | 0 => s
  | n + 1 =>
    let t := s.traces.getD k {}
    match t.props with
    | [] => s
    | p :: rest =>
      if s.propIdle k then
        let s : State := match s.propLaunch k with
          | some l => { s with launches := s.launches.erase l }
          | none => s
        ((s.updTrace k (fun t => { t with props := rest })).answerProp k p.who p.count).settleProp k n
      else
        let r := s.withPropLaunch k
        r.1.startStale k r.2 ((r.1.traces.getD k {}).byKey)

/-- The PROPs of a trace go on. -/
def State.stepProp (s : State) (k : Nat) : State := s.settleProp k ((s.traces.getD k {}).props.length + 1)

/-- Stale tasks that a full dependence table has delayed are looked at again (R202). -/
def State.retryProps (s : State) : State := (s.traces.keysWhere (fun _ t => t.propRunning)).foldl State.stepProp s

/-! ## Undo and close -/

/-- The key a record had before a running ancestor renumbered it: by these keys its order with an undone child is judged,
since a relabelling is invisible (R34, R204). -/
def TraceTask.formerKey (x : TraceTask) : List Nat := x.oldKey.getD x.key

/-- A granule restored from an undo copy: a write that marks the readers with keys above the one given, and no record
that has been removed (R201, R205); it is undefined where a program has written the trace's store (R198). A write that was
never performed has no copy and is not undone. -/
def State.restoreGranule (s : State) (k : Nat) (key : List Nat) (g : Nat) (l : List Byte) : State :=
  if l.isEmpty then s
  else
  let spoiled := (s.traces.getD k {}).spoiled
  let l := if spoiled then (List.range 64).map (fun i => Config.freeByte (s.free + i)) else l
  let s : State := if spoiled then { s with free := s.free + 64 } else s
  let changed := decide (s.mem.readBytes (g * 64) 64 ≠ l)
  let s := if changed then s.updTrace k (fun t => t.mark g (fun x => keyLess key x.formerKey)) else s
  (s.put 255 (g * 64) l).updTrace k (fun t => { t with undone := bump t.undone 1 })

/-- Writes undone in the order given. -/
def State.undoWrites (s : State) (k : Nat) (key : List Nat) (l : List (Nat × List Byte)) : State :=
  l.foldl (fun s w => s.restoreGranule k key w.1 w.2) s

/-- Children discarded with their sub-traces (R205): the records go first, then their writes are undone by descending
key, and within a record in reverse order. -/
def State.discard (s : State) (k : Nat) (roots : List Nat) : State :=
  let t := s.traces.getD k {}
  let ids := roots.flatMap (t.subtree t.recs.length)
  let order := (t.byKey.filter ids.contains).reverse
  let gone := order.map (fun r => t.recs.getD r {})
  let s := s.updTrace k (fun t =>
    { t with recs := t.recs.filter (fun p => !ids.contains p.1), discarded := bump t.discarded ids.length })
  gone.foldl (fun s x => s.undoWrites k x.formerKey x.writes.reverse) s

/-- The new keys of a record's sub-trace stand. -/
def Trace.settleKeys (t : Trace) (r : Nat) : Trace :=
  let ids := t.subtree t.recs.length r
  { t with recs := t.recs.map (fun p => if ids.contains p.1 then (p.1, { p.2 with oldKey := none }) else p) }

/-- A record closes at its task's end (R197, R203): writes it did not make again are undone, unmatched children are
discarded, and one executed again is no longer stale. -/
def State.closeTrace (s : State) (k r : Nat) (again : Bool) : State :=
  let x := s.record k r
  if (s.traces.getD k {}).dead then s
  else
    let lost := x.oldWrites.filter (fun w => !(x.writes.map (·.1)).contains w.1)
    let s := s.undoWrites k x.key lost.reverse
    let s := s.discard k (x.skipped ++ x.oldChildren)
    let s := s.updTrace k (fun t => t.settleKeys r)
    s.updRecord k r (fun x =>
      { x with task := none, stale := x.stale && !again, closed := true, oldReads := [], oldWrites := [], oldChildren := [],
               skipped := [] })

/-! ## Matching a spawn -/

/-- How a SPAWN of a traced task matches the old children (R204, R205). -/
inductive Match where
  /-- The child is kept with its sub-trace; the old children that the search passed. -/
  | splice (r : Nat) (passed rest : List Nat)
  | rerun (r : Nat) (passed rest : List Nat)
  | fresh

/-- The search from the cursor (R204): a match whose block differs elsewhere, or that is stale, is run again. -/
def matchChild (t : Trace) (kid : Nat) (args spawn : List Word) : List Nat → List Nat → Match
  | passed, r :: rest =>
    let x := t.recs.getD r {}
    if x.kid = kid ∧ x.args = args then
      if x.stale ∨ x.spawn ≠ spawn then .rerun r passed rest else .splice r passed rest
    else matchChild t kid args spawn (passed ++ [r]) rest
  | _, [] => .fresh

/-- The keys of a sub-trace move with its root (R204). -/
def Trace.rekey (t : Trace) (r : Nat) (key : List Nat) : Trace :=
  let old := (t.recs.getD r {}).key
  let ids := t.subtree t.recs.length r
  { t with recs := t.recs.map (fun p =>
      if ids.contains p.1 then
        (p.1, { p.2 with key := key ++ p.2.key.drop old.length, oldKey := some (p.2.oldKey.getD p.2.key) })
      else p) }

/-- A child record of record r of a trace. -/
def State.adopt (s : State) (k r child : Nat) (passed rest : List Nat) : State :=
  s.updRecord k r (fun x =>
    { x with children := x.children ++ [child], skipped := x.skipped ++ passed, oldChildren := rest })

/-- A handle that is stale already (R205): some entry with some generation that is not its last
(DESIGN CHOICE, log entry 82). -/
def State.staleHandle (s : State) : Word × State :=
  let e := Config.freeNat s.free % 2 ^ 14
  let g := (s.gens.getD e 0 + 1 + Config.freeNat (s.free + 1) % (2 ^ 16 - 1)) % 2 ^ 16
  (BitVec.ofNat 32 (e + g * 2 ^ 14), { s with free := s.free + 2 })

/-! ## The words -/

/-- The trace a word names: V[a] of the lowest-lane thread, for the partition its thread acts for. -/
def State.namedTrace (s : State) (is : Issue) (ids : List Nat) (a : RegField) : Option Nat :=
  let c := s.ctx (ids.headD 0)
  let n := ((s.source is ids a 1).getD 0 0).toNat
  let k := s.partOf c * 16 + n
  if n ≤ 15 ∧ (s.traces.get? k).isSome then some k else none

/-- TRACE_CONTEXT and TRACE_INVALID at a word. -/
def traceContext (pc : DWord) : Trap := ⟨0x38C, pc, 0⟩
/-- TRACE_INVALID at a word. -/
def traceInvalid (pc : DWord) : Trap := ⟨0x38F, pc, 0⟩

/-- PROP (R188): the watchdog of one that waits reports scope 0 (DESIGN CHOICE, log entry 117). -/
def execProp (ctl : Ctl) (d a : RegField) (s : State) : Host.Outcome State Fault Refusal :=
  next (onceWord s (wordInfo (.prop ctl d a)) noneBusy (fun s is ids =>
    let now := s.now is.core
    if s.isTraced (s.ctx (ids.headD 0)) then .trap (traceContext is.pc)
    else
      match s.namedTrace is ids a with
      | none => .trap (traceInvalid is.pc)
      | some k =>
        let t := s.traces.getD k {}
        if t.dead ∨ !t.done then .trap (traceInvalid is.pc)
        else if t.props.isEmpty && !t.recs.any (fun p => p.2.stale) then
          let r := s.settleResults k 0
          .next (r.1.writeAll is ids d [r.2]) ids
        else
          let lead := ids.headD 0
          let s := ids.foldl (fun s id => s.parkThread id (.prop k ((s.ctx id).resolve now d) lead) 0) s
          .next ((s.updTrace k (fun t => { t with props := t.props ++ [⟨lead, 0, s.mem, []⟩] })).stepProp k) []))

/-- TRFREE holds its run while a PROP of its trace runs; in a traced task it traps instead (R189). -/
def freeWaits (a : RegField) (s : State) (is : Issue) : Option (Option Instr) :=
  match s.namedTrace is is.cohort a with
  | some k =>
    if !s.isTraced (s.ctx (is.cohort.headD 0)) && (s.traces.getD k {}).propRunning then some none else none
  | none => none

/-- TRFREE (R189). -/
def execTrfree (ctl : Ctl) (a : RegField) (s : State) : Host.Outcome State Fault Refusal :=
  next (s.holdFirst (freeWaits a) (fun s =>
    onceWord s (wordInfo (.trfree ctl a)) noneBusy (fun s is ids =>
      if s.isTraced (s.ctx (ids.headD 0)) then .trap (traceContext is.pc)
      else
        match s.namedTrace is ids a with
        | none => .trap (traceInvalid is.pc)
        | some k =>
          if !(s.traces.getD k {}).done then .trap (traceInvalid is.pc)
          else .next { s with traces := s.traces.erase k } ids)))

/-- The counters of a trace (Table 17.7). -/
def Trace.counters (t : Trace) : List Word :=
  [bump 0 t.recs.length, t.reexecuted, t.spawned, t.spliced, t.discarded, t.undone, t.marks]

/-- TRSTAT (R190): undefined where a program has written the trace's store (R198). -/
def execTrstat (ctl : Ctl) (d a : RegField) (s : State) : Host.Outcome State Fault Refusal :=
  next (onceWord s (wordInfo (.trstat ctl d a)) noneBusy (fun s is ids =>
    if s.isTraced (s.ctx (ids.headD 0)) then .trap (traceContext is.pc)
    else
      match s.namedTrace is ids a with
      | none => .trap (traceInvalid is.pc)
      | some k =>
        let t := s.traces.getD k {}
        if t.spoiled then
          .next ({ s with free := s.free + 7 }.writeAll is ids d ((List.range 7).map (fun i => Config.freeWord (s.free + i)))) ids
        else .next (s.writeAll is ids d t.counters) ids))

/-- A write of modifiable memory by MWRITE (R187): a changed word marks every reader in the partition's live traces. -/
def State.mwrite (s : State) (c : Ctx) (pa : Nat) (w : Word) : State :=
  let part := s.partOf c
  let old := s.physNat c.core pa 4
  let s' := s.put c.core pa (toBytes 4 w.toNat)
  if old = w.toNat then s'
  else
    { s' with traces := s'.traces.map (fun (p : Nat × Trace) =>
        if p.1 / 16 = part then (p.1, p.2.mark (pa / 64) (fun _ => true)) else p) }

/-- MWRITE of one thread (R187). -/
def mwriteThread (a : RegField) (s : State) (is : Issue) (id : Nat) : State × Bool :=
  let c := s.ctx id
  let now := s.now is.core
  let ea := c.rdPair now a
  let info := accessInfo 4 true false
  if s.isTraced c then (s.trapAt id is.pc (traceContext is.pc), false)
  else
    match s.reach is id ea 4 4 needRW true .plain true with
    | .stop t => (t, false)
    | .ok s pa mod =>
      if !mod then (s.trapAt id is.pc ⟨0x38D, ea, 0⟩, false)
      else if s.isDet c then (s.trapAt id is.pc ⟨0x384, ea, BitVec.ofNat 32 info⟩, false)
      else if s.isRestart c then (s.trapAt id is.pc ⟨0x390, ea, BitVec.ofNat 32 info⟩, false)
      else
        match s.respond is id ea pa 4 true with
        | some t => (t, false)
        | none => ((s.drainOwn id pa 4).mwrite c pa (c.rd now a 2), true)

/-- An MWRITE of a thread passes the checks before its write (R187). -/
def State.mwriteGoes (s : State) (is : Issue) (id : Nat) (ea : DWord) : Option Nat :=
  let c := s.ctx id
  match s.accessVirtual c ea 4 4 needRW true .plain with
  | .ok pa _ true => if s.isDet c || s.isRestart c || (s.respond is id ea pa 4 true).isSome then none else some pa
  | _ => none

/-- MWRITE holds its run while a PROP runs on a trace that recorded a read of a granule that a thread of it would write, in
a record or in a read set set aside; in a traced task it traps instead (R187, R207). -/
def mwriteWaits (a : RegField) (s : State) (is : Issue) : Option (Option Instr) :=
  let hit := fun id =>
    match s.mwriteGoes is id ((s.ctx id).rdPair (s.now is.core) a) with
    | some pa => s.traces.any (fun p => p.2.propRunning &&
        p.2.recs.any (fun r => r.2.reads.contains (pa / 64) || r.2.oldReads.contains (pa / 64)))
    | none => false
  if !s.isTraced (s.ctx (is.cohort.headD 0)) && is.cohort.any hit then some none else none

/-- MWRITE (R187). -/
def execMwrite (ctl : Ctl) (a : RegField) (s : State) : Host.Outcome State Fault Refusal :=
  next (s.holdFirst (mwriteWaits a) (fun s =>
    foldWord s (wordInfo (.mwrite ctl a)) (s.barred false) (mwriteThread a)))

end Sys2Proof.Machine
end

