-- ==== Sys2Proof/Machine/Tasks.lean ====
section
/-!
DEFINITION. SPAWN and TSIG (R74, R184 to R186, R229).
-/
namespace Sys2Proof.Machine

/-- The image a launch's code lies in. -/
def State.imageOf (s : State) (l : Launch) : Option Image :=
  s.images.find? (fun i => decide (i.part = l.part) && decide (i.base = l.code.toNat))

/-- The kernel of an id in a launch's image. -/
def State.kernelOf (s : State) (l : Launch) (kid : Nat) : Option Kernel := (s.imageOf l).bind (fun i => i.kernels.get? kid)

/-- The live launch of a partition that was admitted most recently. -/
def State.newestLaunch (s : State) (part : Nat) : Option Nat :=
  (s.launches.foldl (fun (r : Option (Nat × Nat)) p =>
    if p.2.part = part ∧ p.2.prop = none then
      match r with
      | some (_, o) => if o < p.2.order then some (p.1, p.2.order) else r
      | none => some (p.1, p.2.order)
    else r) none).map (·.1)

/-- The launch a SPAWN of a thread joins (R185). -/
def State.spawnLaunch (s : State) (c : Ctx) : Option Nat :=
  if isSteward c.core then s.newestLaunch (s.partOf c) else some (s.block c.block).launch

/-- The first check of R185 on a spawn block (Table 17.5). -/
def spawnValid (s : State) (launch : Launch) (l : List Word) : Bool :=
  let w := wordAt l 0
  (s.kernelOf launch (w % 2 ^ 16)).isSome && decide (w / 2 ^ 16 % 16 ≤ 2) && decide (1 ≤ wordAt l 1) &&
    decide (wordAt l 1 ≤ 16384) && decide (w / 2 ^ 31 = 0) && (rangesOf (l.drop 4)).isSome

/-- The task a spawn block describes (Table 17.5). -/
def spawnTask (launch : Nat) (l args : List Word) : Task :=
  let w := wordAt l 0
  { launch := launch, kid := w % 2 ^ 16, nthr := wordAt l 1, bclass := w / 2 ^ 16 % 16, det := (l.getD 0 0).getLsbD 22
    restart := (l.getD 0 0).getLsbD 20, args := args, spawn := l, ranges := (rangesOf (l.drop 4)).getD []
    waits := w / 2 ^ 23 % 256, phase := .queued }

/-- The outcome of reaching the argument bytes of a SPAWN. -/
inductive Args where
  /-- Where each piece lies, and whether it is modifiable. -/
  | ok (l : List (Nat × Bool))
  | stop (s : State)
  deriving DecidableEq, Repr

/-- The pieces of eight bytes of a SPAWN's argument block pass R128 one after another (R185). -/
def reachArgs (s : State) (is : Issue) (id : Nat) : List DWord → Args
  | [] => .ok []
  | ea :: rest =>
    match s.reach is id ea 8 8 needR false .plain true with
    | .stop t => .stop t
    | .ok s' pa mod =>
      match s'.respond is id ea pa 8 false with
      | some t => .stop t
      | none =>
        match reachArgs s is id rest with
        | .ok l => .ok ((pa, mod) :: l)
        | r => r

/-- The 16 argument words read as loads of the thread, and recorded where it is traced (R131, R185), even by a
SPAWN that then writes −1 (DESIGN CHOICE, log entry 127): the state and the words, or the state with the thread stopped. -/
def readArgs (s : State) (is : Issue) (id : Nat) (ea : DWord) : (State × List Word) ⊕ State :=
  let eas := (List.range 8).map (fun i => ea + BitVec.ofNat 64 (8 * i))
  match reachArgs s is id eas with
  | .stop t => .inr t
  | .ok l =>
    match s.recordList (s.ctx id) false 8 eas l with
    | .inr t => .inr (s.trapAt id is.pc t)
    | .inl s =>
      let s := s.drainList id 8 l
      .inl (s, l.flatMap (fun p => [BitVec.ofNat 32 (s.threadNat id p.1 4), BitVec.ofNat 32 (s.threadNat id (p.1 + 4) 4)]))

/-- The core's queue or the dependence table has no room for a child (R185). A steward has no task queue: its tasks wait
in the dependence table alone. -/
def State.spawnFull (s : State) (core : Nat) : Bool :=
  (!isSteward core && decide (64 ≤ (s.core core).taskQ.length)) || s.freeEntry.isNone

/-- A child entered in the dependence table and in the issuing core's queue (R185, R229)
(DESIGN CHOICE, log entry 83). -/
def State.placeChild (s : State) (core : Nat) (parent : Option Nat) (t : Task) : State × Word :=
  match s.freeEntry with
  | none => (s, 0xFFFFFFFF)
  | some e =>
    let t : Task := if isSteward core then { t with phase := .waiting, parent := none } else
      { t with queue := some core, parent := parent }
    let s := s.enterTask e t
    let s := if isSteward core then s else s.updCore core (fun c => { c with taskQ := c.taskQ ++ [e] })
    (s, s.handle e)

/-- The key of a parent's next child: its place in spawn order (R34). A steward's root tasks follow the launch's blocks. -/
def State.childKey (s : State) (parent : Option Nat) (launch : Nat) : List Nat :=
  match parent with
  | some p => (s.tasks.getD p {}).key ++ [(s.tasks.getD p {}).children + 1]
  | none => let l := s.launches.getD launch {}; [l.nbx * l.nby * l.nbz + s.seq]

/-- One more child of the parent is counted. -/
def State.countChild (s : State) (parent : Option Nat) : State :=
  match parent with
  | some p => s.updTask p (fun t => { t with children := t.children + 1 })
  | none => { s with seq := s.seq + 1 }

/-- A record for a child, new or matched: the fields its task gives it (R197, R204). -/
def TraceTask.ofTask (x : TraceTask) (t : Task) (parent : Nat) : TraceTask :=
  { x with
    kid := t.kid, spawn := t.spawn, args := t.args, parent := some parent, key := t.key, ranges := t.ranges
    bclass := t.bclass, nthr := t.nthr }

/-- A SPAWN that takes effect outside a trace (R185). -/
def State.spawnPlain (s : State) (core : Nat) (parent : Option Nat) (launch : Nat) (t : Task) : State × Word :=
  if s.spawnFull core then (s, 0xFFFFFFFF)
  else (s.countChild parent).placeChild core parent { t with key := s.childKey parent launch }

/-- A child matched and kept (R205): its sub-trace moves to its new key. -/
def State.spliceChild (s : State) (k r child : Nat) (key : List Nat) (passed rest : List Nat) : State × Word :=
  let s := (s.adopt k r child passed rest).updTrace k (fun t => { t.rekey child key with spliced := bump t.spliced 1 })
  let h := s.staleHandle
  (h.2, h.1)

/-- A child matched and run again (R204, R205): one that was not stale becomes so, and is counted as a mark. -/
def State.rerunChild (s : State) (core k r child parent : Nat) (passed rest : List Nat) (t : Task) : State × Word :=
  let was := ((s.traces.getD k {}).recs.getD child {}).stale
  let s := (s.adopt k r child passed rest).updTrace k (fun x =>
    { (x.rekey child t.key).countTask with
      reexecuted := bump x.reexecuted 1, marks := if was then x.marks else bump x.marks 1 })
  let p := s.placeChild core (some parent) { t with record := some (k, child), byProp := true, traced := true }
  let e := p.2.toNat % 2 ^ 14
  (p.1.updRecord k child (fun x => ({ x.ofTask t r with stale := true }).setAside e), p.2)

/-- A child with no match (R204, R205): a new record, counted during a PROP; the cursor stays. -/
def State.freshChild (s : State) (core k r parent : Nat) (t : Task) : State × Word :=
  let child := (s.traces.getD k {}).recs.nextKey
  let old := (s.record k r).oldChildren
  let s := s.adopt k r child [] old
  let s := s.updTrace k (fun x =>
    let x := if x.propRunning then { x.countTask with spawned := bump x.spawned 1 } else x
    { x with recs := x.recs.set child (({} : TraceTask).ofTask t r) })
  let p := s.placeChild core (some parent) { t with record := some (k, child), traced := true }
  (p.1.updRecord k child (fun x => { x with task := some (p.2.toNat % 2 ^ 14) }), p.2)

/-- A SPAWN of a traced task (R204, R205): the match comes before the check for a full queue, and a full queue undoes
it. TRACE_FULL where the record or the child entry does not fit (R199) (DEDUCED, log entry 80). -/
def State.spawnTraced (s : State) (core parent launch k r : Nat) (pc : DWord) (t : Task) : (State × Word) ⊕ Trap :=
  let tr := s.traces.getD k {}
  let used := s.usedIn k
  let t : Task := { t with key := s.childKey (some parent) launch }
  let counted := s.countChild (some parent)
  match matchChild tr t.kid t.args t.spawn [] (s.record k r).oldChildren with
  | .splice c passed rest =>
    if tr.size < used + 8 then .inr (traceFull tr pc) else .inl (counted.spliceChild k r c t.key passed rest)
  | .rerun c passed rest =>
    if s.spawnFull core then .inl (s, 0xFFFFFFFF)
    else if tr.size < used + 8 then .inr (traceFull tr pc)
    else .inl (counted.rerunChild core k r c parent passed rest t)
  | .fresh =>
    if s.spawnFull core then .inl (s, 0xFFFFFFFF)
    else if tr.size < used + 200 then .inr (traceFull tr pc)
    else .inl (counted.freshChild core k r parent t)

/-- The effect of a SPAWN whose checks have passed: the new state with the value of Vd (DEDUCED, log entry 81). -/
def State.spawnEffect (s : State) (id core launch : Nat) (pc : DWord) (t : Task) : (State × Word) ⊕ Trap :=
  let c := s.ctx id
  let parent := if isSteward core then none else some (s.block c.block).task
  match s.recordOf c, parent with
  | some (k, r), some p => s.spawnTraced core p launch k r pc t
  | _, _ => .inl (s.spawnPlain core parent launch t)

/-- SPAWN of one thread (R185). -/
def spawnThread (d a : RegField) (s : State) (is : Issue) (id : Nat) : State × Bool :=
  let c := s.ctx id
  let now := s.now is.core
  let l := (List.range 12).map (c.rd now a)
  let dst := c.resolve now d
  let bad := (s.trapAt id is.pc ⟨0x38A, is.pc, 0⟩, false)
  match s.spawnLaunch c with
  | none => bad
  | some n =>
    if !spawnValid s (s.launches.getD n {}) l then bad
    else
      let mine := (s.tasks.getD (s.block c.block).task {}).ranges
      let rs := (rangesOf (l.drop 4)).getD []
      if !isSteward c.core && rs.any (fun r => !mine.any r.inside) then
        (s.trapAt id is.pc ⟨0x381, is.pc, 0⟩, false)
      else
        match readArgs s is id (l.getD 3 0 ++ l.getD 2 0) with
        | .inr t => (t, false)
        | .inl (s', args) =>
          match s'.spawnEffect id is.core n is.pc (spawnTask n l args) with
          | .inl (t, w) => (t.updCtx id (fun c => c.setV dst w), true)
          | .inr t => (s.trapAt id is.pc t, false)

/-- SPAWN (R185): threads of one issue spawn in lane order. -/
def execSpawn (ctl : Ctl) (d a : RegField) (s : State) : Host.Outcome State Fault Refusal :=
  next (foldWord s (wordInfo (.spawn ctl d a)) (s.barred false) (spawnThread d a))

/-- TSIG (R186), after the thread's earlier loads (R55). -/
def execTsig (ctl : Ctl) (a : RegField) (s : State) : Host.Outcome State Fault Refusal :=
  next (foldWord s (wordInfo (.tsig ctl a)) noneBusy (fun s is id =>
    let h := (s.ctx id).rd (s.now is.core) a 0
    match (s.taskOf h).filter (fun e => decide (0 < (s.tasks.getD e {}).waits)) with
    | some e => ((s.returnLoads id s.nextOp).decrement e, true)
    | none => (s.trapAt id is.pc ⟨0x38A, is.pc, h⟩, false)))

end Sys2Proof.Machine
end

