-- ==== Sys2Proof/Machine/Rings.lean ====
section
/-!
DEFINITION. Ring headers and the ring words (R75, R191 to R194).
-/
namespace Sys2Proof.Machine

/-- A ring header (Table 17.8). -/
structure Ring where
  claim : Nat
  cap : Nat
  commit : Nat
  await : Nat
  retire : Nat
  deriving DecidableEq, Repr

/-- Indices run modulo 2^28. -/
def ringMod : Nat := 2 ^ 28

/-- The distance from index a to index b. -/
def ringDist (a b : Nat) : Nat := (b % ringMod + ringMod - a % ringMod) % ringMod

/-- The header at its place in memory. -/
def State.ring (s : State) (pa : Nat) : Ring :=
  let w := fun i => s.physNat 255 (pa + 4 * i) 4
  ⟨w 0 % ringMod, w 0 / ringMod, w 1 % ringMod, w 2 % ringMod, w 3 % ringMod⟩

/-- The header written for a launch; its reserved bits are zero. It is in use while claims are outstanding, and a slot that
waits on one of its words reads again (R191, R248). -/
def State.setRing (s : State) (launch pa : Nat) (r : Ring) : State :=
  ({ s with
    mem := s.mem.writeBytes pa (toBytes 4 (r.claim % ringMod + r.cap % 16 * ringMod) ++
      toBytes 4 (r.commit % ringMod) ++ toBytes 4 (r.await % ringMod) ++ toBytes 4 (r.retire % ringMod))
    rings := if ringDist r.retire r.claim = 0 then s.rings.erase pa else s.rings.set pa launch }.markStore pa).wakeSlots

/-- A claim of n granules can be granted (R192). -/
def Ring.canClaim (r : Ring) (n : Nat) : Bool := decide (ringDist r.retire r.claim + n ≤ 2 ^ r.cap)
/-- An await of n granules can be granted (R192). -/
def Ring.canAwait (r : Ring) (n : Nat) : Bool := decide (n ≤ ringDist r.await r.commit)

/-- The words of a ring that wait on a header: kind 0 RCLAIM, 1 RCOMMIT, 2 RAWAIT, 3 RRETIRE. -/
def State.ringWaiters (s : State) (pa kind : Nat) : List Nat :=
  s.waiters (fun p => match p with | .ring h k _ _ _ _ => decide (h = pa) && decide (k = kind) | _ => false)

/-- The index or rank a context waits with, and the register it writes. -/
def Ctx.ringPark (c : Ctx) : Nat × Nat :=
  match c.parkKind with
  | some (.ring _ _ i d _ _) => (i, d)
  | _ => (0, 0)

/-- The issue a context has parked in, and the number of its participants. -/
def Ctx.ringIssue (c : Ctx) : Nat × Nat :=
  match c.parkKind with
  | some (.ring _ _ _ _ i n) => (i, n)
  | _ => (0, 0)

/-- The contexts still parked at a header of the participant set a context has parked with. -/
def State.ringParty (s : State) (id pa : Nat) : List Nat :=
  s.waiters (fun p => match p with | .ring h _ _ _ l _ => decide (h = pa) && decide (l = (s.ctx id).ringIssue.1) | _ => false)

/-- The oldest parked issue of a kind at a header: those of its participants that still wait, and how many it had (R192). -/
def State.firstIssue (s : State) (pa kind : Nat) : Option (List Nat × Nat) :=
  ((s.ringWaiters pa kind).head?).map (fun id => (s.ringParty id pa, (s.ctx id).ringIssue.2))

/-- The granted participants receive their indices, by rank, and leave. -/
def State.deliver (s : State) (ids : List Nat) (base : Nat) : State :=
  ids.foldl (fun s id =>
    s.updCtx id (fun c => (c.setV c.ringPark.2 (BitVec.ofNat 32 ((base + c.ringPark.1) % ringMod))).wake)) s

/-- The launch of a context. -/
def State.launchIdOf (s : State) (id : Nat) : Nat := (s.block (s.ctx id).block).launch

/-- One grant at a header: the oldest claim or await that can be granted, or the thread whose index is next (R192,
R193). -/
def State.ringGrant (s : State) (pa : Nat) : Option State :=
  let r := s.ring pa
  let at' := fun kind i => (s.ringWaiters pa kind).find? (fun id => (s.ctx id).ringPark.1 = i)
  match (s.firstIssue pa 0).filter (fun q => r.canClaim q.2) with
  | some (ids, n) =>
    some ((s.setRing (s.launchIdOf (ids.headD 0)) pa { r with claim := r.claim + n }).deliver ids r.claim)
  | none =>
    match (s.firstIssue pa 2).filter (fun q => r.canAwait q.2) with
    | some (ids, n) =>
      some ((s.setRing (s.launchIdOf (ids.headD 0)) pa { r with await := r.await + n }).deliver ids r.await)
    | none =>
      match at' 1 r.commit with
      | some id => some ((s.setRing (s.launchIdOf id) pa { r with commit := r.commit + 1 }).updCtx id Ctx.wake)
      | none =>
        match at' 3 r.retire with
        | some id => some ((s.setRing (s.launchIdOf id) pa { r with retire := r.retire + 1 }).updCtx id Ctx.wake)
        | none => none

/-- Every grant the header now allows, at most n. -/
def State.ringServe (s : State) (pa : Nat) : Nat → State
  | 0 => s
  | n + 1 =>
    match s.ringGrant pa with
    | some t => t.ringServe pa n
    | none => s

/-- The waiters of a header are served. -/
def State.serveRing (s : State) (pa : Nat) : State :=
  s.ringServe pa ((s.waiters (fun p => match p with | .ring h _ _ _ _ _ => decide (h = pa) | _ => false)).length)

/-- The legality of a ring word's wait (R194): at the automatic scope for a scratchpad header, else as Table 3.1 judges
DEV scope, but for a ring that a member of the launch's gang has named. -/
def State.ringWait (s : State) (c : Ctx) (pc ea : DWord) (pa : Nat) : Option Trap :=
  match regionOf pa with
  | .scratch core _ => s.waitTrap c pc (autoScope c.core core) 0
  | _ =>
    let l := s.launchFor c
    let named := s.launches.any (fun p => decide (p.2.gang = l.gang) && p.2.rings.contains ea)
    if (l.gang.isSome && named) || decide ((s.block c.block).bclass = 0) then none
    else some ⟨0x200, pc, 5⟩

/-- The scope code the watchdog reports for a header's waiters (R38) (DEDUCED, log entry 86). -/
def ringScope (core pa : Nat) : Nat :=
  match regionOf pa with
  | .scratch owner _ => autoScope core owner
  | _ => 5

/-- The traps of `.det`, traced and restartable execution (R194, R238). -/
def State.ringMode (s : State) (c : Ctx) (ea : DWord) (pa : Nat) : Option Trap :=
  let info : Word := BitVec.ofNat 32 (accessInfo 16 true false)
  let scratch := match regionOf pa with | .scratch _ _ => true | _ => false
  if s.isDet c && !scratch then some ⟨0x384, ea, info⟩
  else if s.isTraced c then some ⟨0x382, ea, info⟩
  else if s.isRestart c && stagedRegion (regionOf pa) then some ⟨0x390, ea, info⟩
  else none

/-- The common path of the ring words (R191, R194): the header of the lowest-lane thread, whose failing check every
thread of the issue takes (DEDUCED, log entry 21); then f at the header (DEDUCED, log entry 85). It counts as an atomic, and
is a release where a FENCE says so (R60, R140). -/
def ringWord (s : State) (i : Instr) (a : RegField) (k : BitVec 4)
    (f : State → Issue → List Nat → DWord → Nat → Once) : Host.Outcome State Fault Refusal :=
  next (onceWord s (wordInfo i) (s.barred true) (fun s is ids =>
    let c := s.ctx (ids.headD 0)
    let ea := c.rdPair (s.now is.core) a
    match s.access c ea 16 64 needRW true .atomic with
    | .trap t => s.stopIssue is ids ea 16 needRW true (.trap t) none
    | .fault l b z => s.stopIssue is ids ea 16 needRW true (.fault l b z) none
    | .ok pa _ _ =>
      match (s.ringWait c is.pc ea pa).or (s.ringMode c ea pa) with
      | some t => .trap t
      | none =>
        match s.responseError c.core pa 16 with
        | some (cause, logged) =>
          s.stopIssue is ids ea 16 needRW true (.trap ⟨cause, ea, BitVec.ofNat 32 (accessInfo 16 true false)⟩)
            (some (pa, logged))
        | none =>
          let s := ids.foldl (fun s id => s.drainOwn id pa 16) s
          let w := memKey c.core pa
          let r := s.ring w
          if r.cap ≠ k.toNat then .trap ⟨0x283, ea, BitVec.ofNat 32 r.cap⟩ else f s is ids ea w))

/-- The participants park at a header, each with its rank or index. -/
def State.parkRing (s : State) (is : Issue) (ids : List Nat) (pa kind : Nat) (index : Nat → Nat) (d : RegField) : State :=
  (ids.zip (List.range ids.length)).foldl (fun t p =>
    t.parkThread p.1 (.ring pa kind (index p.2) ((t.ctx p.1).resolve (t.now is.core) d) s.seq ids.length)
      (ringScope is.core pa)) s

/-- RCLAIM or RAWAIT at a header (R192): granted at once when it can be and nothing of its kind waits. -/
def ringTake (kind : Nat) (d : RegField) (s : State) (is : Issue) (ids : List Nat) (ea : DWord) (pa : Nat) : Once :=
  let r := s.ring pa
  let n := ids.length
  let s := ids.foldl State.unfence s
  if 2 ^ r.cap < n then .trap ⟨0x285, ea, 0⟩
  else if (s.ringWaiters pa kind).isEmpty && (if kind = 0 then r.canClaim n else r.canAwait n) then
    let base := if kind = 0 then r.claim else r.await
    let r' : Ring := if kind = 0 then { r with claim := r.claim + n } else { r with await := r.await + n }
    let now := s.now is.core
    .next ((ids.zip (List.range n)).foldl (fun s p => s.updCtx p.1 (fun c =>
      c.setV (c.resolve now d) (BitVec.ofNat 32 ((base + p.2) % ringMod))))
      (s.setRing (s.launchIdOf (ids.headD 0)) pa r')) ids
  else .next (s.parkRing is ids pa kind id d) []

/-- RCLAIM (R192). -/
def execRclaim (ctl : Ctl) (d a : RegField) (k : BitVec 4) (s : State) : Host.Outcome State Fault Refusal :=
  ringWord s (.rclaim ctl d a k) a k (ringTake 0 d)

/-- RAWAIT (R192). -/
def execRawait (ctl : Ctl) (d a : RegField) (k : BitVec 4) (s : State) : Host.Outcome State Fault Refusal :=
  ringWord s (.rawait ctl d a k) a k (ringTake 2 d)

/-- RCOMMIT or RRETIRE of one thread at a header (R193). -/
def ringPassThread (kind : Nat) (d : RegField) (ea : DWord) (pa issue count : Nat) (is : Issue) (s : State) (id : Nat) :
    State × Bool :=
  let r := s.ring pa
  let w := (s.ctx id).rd (s.now is.core) d 0
  let i := w.toNat
  let lo := if kind = 1 then r.commit else r.retire
  let hi := if kind = 1 then r.claim else r.await
  if ringMod ≤ i ∨ ringDist lo hi ≤ ringDist lo i then (s.trapAt id is.pc ⟨0x286, ea, w⟩, false)
  else
    let s := s.unfence id
    if i = lo then
      (s.setRing (s.launchIdOf id) pa (if kind = 1 then { r with commit := r.commit + 1 } else { r with retire := r.retire + 1 }), true)
    else (s.parkThread id (.ring pa kind i 0 issue count) (ringScope is.core pa), false)

/-- RCOMMIT or RRETIRE at a header (R193): each thread in lane order, then what its advance lets go on. -/
def ringPass (kind : Nat) (d : RegField) (s : State) (is : Issue) (ids : List Nat) (ea : DWord) (pa : Nat) : Once :=
  let r := ids.foldl (fun (p : State × List Nat) id =>
    let q := ringPassThread kind d ea pa s.seq ids.length is p.1 id
    (q.1, if q.2 then p.2 ++ [id] else p.2)) (s, [])
  .next (r.1.serveRing pa) r.2

/-- RCOMMIT (R193). -/
def execRcommit (ctl : Ctl) (d a : RegField) (k : BitVec 4) (s : State) : Host.Outcome State Fault Refusal :=
  ringWord s (.rcommit ctl d a k) a k (ringPass 1 d)

/-- RRETIRE (R193). -/
def execRretire (ctl : Ctl) (d a : RegField) (k : BitVec 4) (s : State) : Host.Outcome State Fault Refusal :=
  ringWord s (.rretire ctl d a k) a k (ringPass 3 d)

end Sys2Proof.Machine
end

