-- ==== Sys2Proof/Machine/Coll.lean ====
section
/-!
DEFINITION. Collectives: COLL, and the steps of this device's collective engines (R182, R183, R263, R264).
-/
namespace Sys2Proof.Machine

/-- The fields of a collective group's entry (Table 30.3). -/
structure CollGroup where
  valid : Bool
  part : Nat
  rank : Nat
  stage : Nat
  size : Nat
  ranks : Nat
  deriving DecidableEq, Repr

/-- The entry of a group. -/
def State.collGroup (s : State) (g : Nat) : CollGroup :=
  let w := fun i => ofBytes (s.mem.readBytes (mgmtBase + 0x20000 + 64 * g + 4 * i) 4)
  ⟨decide (w 0 / 2 ^ 31 = 1), w 0 / 2 ^ 24 % 16, w 0 / 2 ^ 16 % 256, w 0 / 2 ^ 9 % 128, w 0 % 2 ^ 9,
    w 2 + w 3 * 2 ^ 32⟩

/-- Bytes of an element of an operation. -/
def collSize (op : Nat) : Nat := if op = 2 then 8 else 4

/-- The block of a COLL breaks a limit (R182). -/
def collBad (s : State) (part : Nat) (l : List Word) : Bool :=
  let w := wordAt l 5
  let g := s.collGroup (w / 2 ^ 16 % 256)
  let op := w / 2 ^ 8 % 16
  let mode := w % 4
  let n := wordAt l 4
  let z := collSize op
  decide (w / 2 ^ 24 % 4 ≠ 0) || decide (w / 2 ^ 12 % 16 ≠ 0) || decide (w / 2 ^ 6 % 4 ≠ 0) || decide (w / 4 % 4 ≠ 0) ||
    decide (4 < op) || decide (mode = 3) || (decide (mode = 2) && decide (op ≠ 0)) ||
    (decide (w / 16 % 4 ≠ 0) && decide (w / 16 % 4 ≠ 3)) || decide (n = 0) || decide (2 ^ 28 < n) ||
    !g.valid || decide (g.part ≠ part) || (decide (mode = 1) && decide (n % g.size ≠ 0)) ||
    decide (wordAt l 0 % z ≠ 0) || decide (wordAt l 2 % z ≠ 0) || decide (wordAt l 6 % 8 ≠ 0)

/-- One element of a ⊕ b (R182). -/
def collAdd (op a b : Nat) : Nat :=
  let x : Word := BitVec.ofNat 32 a
  let y : Word := BitVec.ofNat 32 b
  match op with
  | 0 => (x + y).toNat
  | 1 => (addF32 x y).toNat
  | 2 => (fAdd fp64 rne (fp64.unpack a) (fp64.unpack b)).bits
  | 3 => (if x.toInt ≤ y.toInt then x else y).toNat
  | _ => (if x.toInt ≤ y.toInt then y else x).toNat

/-- A partial result with a rank's contribution added (R182, R264): n elements combined, or the list of them extended. -/
def collCombine (mode op n : Nat) (partial' contribution : List Byte) : List Byte :=
  if mode = 2 then partial' ++ contribution
  else
    let z := collSize op
    (List.range n).flatMap (fun i =>
      toBytes z (collAdd op (ofBytes ((partial'.drop (i * z)).take z)) (ofBytes ((contribution.drop (i * z)).take z))))

/-- What a partial result carries before its data: n, OP, COLLECTIVE (the model's form of a message, DESIGN CHOICE, log entry 22). -/
def collHeader (c : Coll) : List Byte := toBytes 4 c.n ++ toBytes 2 c.op ++ toBytes 2 c.mode

/-- The collectives of a group in flight, oldest first. -/
def State.collOps (s : State) (g : Nat) : Store Op :=
  s.ops.filter (fun p => match p.2.kind with | .coll k _ _ _ => decide (k = g) | _ => false)

/-- The oldest collective of a group that has no decision. -/
def State.collOpen (s : State) (g : Nat) : Option (Nat × Op × Coll × Nat × Nat) :=
  (s.collOps g).findSome? (fun p => match p.2.kind with
    | .coll _ c k t => if c.decided.isNone then some (p.1, p.2, c, k, t) else none
    | _ => none)

/-- The state with f applied to a collective. -/
def State.updColl (s : State) (k : Nat) (f : Coll → Coll) : State :=
  s.updOp k (fun o => match o.kind with | .coll g c kd t => { o with kind := .coll g (f c) kd t } | _ => o)

/-- The bytes a member's destination takes (R182). -/
def collResult (c : Coll) (g : CollGroup) (data : List Byte) : List Byte :=
  if c.mode = 1 then
    let n := c.n / g.size * collSize c.op
    (data.drop (g.rank * n)).take n
  else data

/-- Writes of a collective engine at virtual addresses: all done, or the first that cannot be (R182, R178). -/
def State.collWrite (s : State) (o : Op) (part : Nat) (va : Nat) (l : List Byte) : State ⊕ (Nat × Side) :=
  let at' := (List.range l.length).map (fun i => (va + i, s.side o.core part (va + i) needW true (o.err == some 0x101)))
  match at'.find? (fun p => match p.2 with | .ok _ => false | _ => true) with
  | some p => .inr p
  | none =>
    let cells := at'.filterMap (fun p => match p.2 with | .ok pa => some pa | _ => none)
    .inl ((runsOf (cells.zip l)).foldl (fun s p => s.shuttleWrite o.ctx [] p) s)

/-- A decided collective is carried out (R182, R183): the destination on a commit, then the status word, then the
signal; a translation fault is waited for, another failure reported as a copy's. -/
def State.finishColl (s : State) (k : Nat) : State :=
  let o := s.ops.getD k {}
  match o.kind with
  | .coll g c kind tag =>
    match c.decided with
    | some ⟨commit, code, rank, data⟩ =>
      let r := if commit then s.collWrite o c.part c.dst (collResult c (s.collGroup g) data) else .inl s
      let status := if commit then toBytes 4 1 ++ toBytes 4 0xFFFFFFFF else toBytes 4 code ++ toBytes 4 rank
      let r := match r with
        | .inl s => s.collWrite o c.part c.status status
        | .inr e => .inr e
      match r with
      | .inl s' => (s'.dropOp k).signalCopy o.core o.ctx o.grp c.part kind tag 0 0 none
      | .inr (va, .fault l b z) =>
        let f := s.awaitFault o.core c.part l b z va (accessInfo 1 true false) 1
        f.1.updOp k (fun x => { x with fault := some f.2 })
      | .inr (va, .bad cause logged) =>
        let s := match logged with
          | some a => s.logError cause (logCore o.core) c.part (accessInfo 1 true false) a
          | none => s
        (s.dropOp k).signalCopy o.core o.ctx o.grp c.part kind tag 0 0 (some (BitVec.ofNat 64 va, cause))
      | .inr (_, .ok _) => s
    | none => s
  | _ => s

/-- The operation in flight of a group's collective with a number, while it has no decision. -/
def State.collNumbered (s : State) (g n : Nat) : Option (Nat × Coll) :=
  (s.collOps g).findSome? (fun p => match p.2.kind with
    | .coll _ c _ _ => if c.number = n ∧ c.decided.isNone then some (p.1, c) else none
    | _ => none)

/-- The decision on a group's collective with a number is already taken, or has already come here (R264). -/
def State.collSettled (s : State) (g n : Nat) : Bool :=
  if n < s.collCount.getD g 0 then (s.collNumbered g n).isNone else (s.collDone.getD g []).any (fun p => decide (p.1 = n))

/-- A decision on a group's collective reaches this member: the first one stands; it is carried out, or waits for the COLL
(R264) (DESIGN CHOICE, log entry 88). -/
def State.decideColl (s : State) (g n : Nat) (d : Decision) : State :=
  if s.collSettled g n then s
  else match s.collNumbered g n with
    | some (k, _) => (s.updColl k (fun c => { c with decided := some d })).finishColl k
    | none => { s with collDone := s.collDone.set g (s.collDone.getD g [] ++ [(n, d)]) }

/-- An engine finds a reason to abort a group's collective (R264): the decider decides ABORT, another member reports it. -/
def State.abortColl (s : State) (g n code rank : Nat) : State :=
  let e := s.collGroup g
  if e.rank + 1 = e.size then s.decideColl g n ⟨false, code, rank, []⟩
  else match s.collNumbered g n with
    | some (k, _) => s.updColl k (fun c => { c with aborted := true })
    | none => { s with collIn := s.collIn.set g ((s.collIn.getD g []).filter (fun p => p.1 ≠ n) ++ [(n, none)]) }

/-- The decider holds the whole result and decides COMMIT; an ABORT that reaches it in the same cycle, as the event right
behind, is what it takes (R264) (DESIGN CHOICE, log entry 119). -/
def State.commitColl (s : State) (g n : Nat) (l : List Byte) : State :=
  match s.inputs with
  | .collAbortReport key rank code :: _ =>
    if key = (g, n) then s.decideColl g n ⟨false, code.toNat, rank, []⟩ else s.decideColl g n ⟨true, 0, 0, l⟩
  | _ => s.decideColl g n ⟨true, 0, 0, l⟩

/-- The predecessor's partial result meets a collective (R264): it is combined and goes on, and at the last rank the
result is committed; a block that differs from rank 0's is a member's failure. -/
def State.feedColl (s : State) (g k : Nat) (c : Coll) (msg : List Byte) : State :=
  let e := s.collGroup g
  if msg.take 8 ≠ collHeader c then s.abortColl g c.number 0x389 e.rank
  else
    let s := s.updColl k (fun c => { c with passed := true })
    if e.rank + 1 = e.size then
      s.commitColl g c.number (collCombine c.mode c.op c.n (msg.drop 8) c.contribution)
    else s

/-- COLL_CONTRIBUTION (R264): the predecessor's partial result for the group's collective of a number arrives. One for a
collective not issued yet is staged, where its bytes after the header keep the group's limit; one that comes after its decision is dropped. -/
def execCollContribution (key : Nat × Nat) (rank : Nat) (data : List Byte) (s : State) :
    Host.Outcome State Fault Refusal :=
  let group := key.1
  let number := key.2
  let e := s.collGroup group
  next (if rank + 1 ≠ e.rank ∨ s.collSettled group number then s
    else match s.collNumbered group number with
      | some (k, c) => if c.passed ∨ c.aborted then s else s.feedColl group k c data
      | none =>
        let held := s.collIn.getD group []
        if held.any (fun p => decide (p.1 = number)) then s
        else if e.stage * 65536 + 8 < data.length then
          s.abortColl group number 0x388 e.rank
        else { s with collIn := s.collIn.set group (held ++ [(number, some data)]) })

/-- A COLL accepted by the engine as the group's next collective: what has already arrived for it is taken up (R182). -/
def State.acceptColl (s : State) (g k : Nat) (c : Coll) : State :=
  let e := s.collGroup g
  let n := c.number
  let decided := (s.collDone.getD g []).find? (fun p => p.1 = n)
  let came := (s.collIn.getD g []).find? (fun p => p.1 = n)
  let s := { s with
    collCount := s.collCount.set g (n + 1)
    collDone := s.collDone.set g ((s.collDone.getD g []).filter (fun p => p.1 ≠ n))
    collIn := s.collIn.set g ((s.collIn.getD g []).filter (fun p => p.1 ≠ n)) }
  match decided, came with
  | some (_, d), _ => s.decideColl g n d
  | none, some (_, none) => s.updColl k (fun c => { c with aborted := true })
  | none, some (_, some m) => s.feedColl g k c m
  | none, none => if e.rank = 0 then s.updColl k (fun c => { c with passed := true }) else s

/-- Checked element addresses of the source (R128, R176); a steward's are virtual too. -/
def State.collSource (s : State) (c : Ctx) (z : Nat) : List DWord → Many
  | [] => .ok []
  | e :: t =>
    match s.accessVirtual c e z z needR false .plain with
    | .ok pa _ mod =>
      match s.responseError c.core pa z with
      | some (cause, logged) =>
        .bad e (.trap ⟨cause, e, BitVec.ofNat 32 (accessInfo z false false)⟩) (some (pa, logged))
      | none => match s.collSource c z t with | .ok l => .ok ((pa, mod) :: l) | r => r
    | r => .bad e r none

/-- COLL (R182) (DEDUCED, log entry 90). -/
def execColl (ctl : Ctl) (a : RegField) (s : State) : Host.Outcome State Fault Refusal :=
  next (s.holdFirst storesPending (fun s => onceWord s (wordInfo (.coll ctl a)) noneBusy (fun s is ids =>
    let id := ids.headD 0
    let c := s.ctx id
    let l := s.source is ids a 8
    let w := wordAt l 5
    let part := s.partOf c
    let src := wordAt l 0 + wordAt l 1 * 2 ^ 32
    let dst := wordAt l 2 + wordAt l 3 * 2 ^ 32
    let status := wordAt l 6 + wordAt l 7 * 2 ^ 32
    if s.isTraced c then .trap ⟨0x382, is.pc, 0⟩
    else if s.isRestart c then .trap ⟨0x390, is.pc, 0⟩
    else if collBad s part l then .trap ⟨0x38B, is.pc, 0⟩
    else
      let op := w / 2 ^ 8 % 16
      let z := collSize op
      let wild := [(src, z, false), (dst, z, true), (status, 8, true)].find? (fun p => decide (2 ^ 56 ≤ p.1))
      match wild with
      | some (va, n, wr) => .trap ⟨0x101, BitVec.ofNat 64 va, BitVec.ofNat 32 (accessInfo n wr false)⟩
      | none =>
        match s.collSource c z (elemEas (BitVec.ofNat 64 src) (wordAt l 4) z) with
        | .bad ea e resp => s.stopIssue is ids ea z needR false e resp true
        | .ok pas =>
          let g := w / 2 ^ 16 % 256
          let q : Coll :=
            { number := s.collCount.getD g 0, src := src, dst := dst, n := wordAt l 4, op := op, mode := w % 4, status := status, part := part
              contribution := s.elemBytes id z pas }
          let k := s.nextOp
          .next ((s.addOp (s.threadOp is id [] 0 0 false (.coll g q (w / 16 % 4) (w / 2 ^ 26)))).acceptColl g k q) ids)))

/-- COLL_TIMEOUT (R183, R264): a group's timeout has expired for its oldest collective, whose first missing contribution
is the predecessor's, or the successor's once this rank has passed its result on; or a collective whose answered
fault held up its decision is carried out (DEDUCED, log entry 87). -/
def execCollTimeout (group : Nat) (s : State) : Host.Outcome State Fault Refusal :=
  let e := s.collGroup group
  next (match (s.collOps group).find? (fun p => match p.2.kind with | .coll _ c _ _ => c.decided.isSome | _ => false) with
    | some (k, o) => if o.fault = none then s.finishColl k else s
    | none => match s.collOpen group with
      | some (_, _, c, _, _) =>
        if c.aborted then s else s.abortColl group c.number 0x388 (if c.passed then e.rank + 1 else e.rank - 1)
      | none => s)

/-- COLL_DECISION_TIMEOUT (R264): no decision came after the ABORT this member reported. -/
def execCollDecisionTimeout (group : Nat) (s : State) : Host.Outcome State Fault Refusal :=
  next (match s.collOpen group with
    | some (_, _, c, _, _) =>
      if c.aborted then s.decideColl group c.number ⟨false, 0x389, (s.collGroup group).size - 1, []⟩ else s
    | none => s)

/-- COLL_ABORT_REPORT (R264): the decider takes the first ABORT that reaches it, unless it has decided. -/
def execCollAbortReport (key : Nat × Nat) (rank : Nat) (code : BitVec 10) (s : State) :
    Host.Outcome State Fault Refusal :=
  let e := s.collGroup key.1
  next (if e.valid ∧ e.rank + 1 = e.size then s.decideColl key.1 key.2 ⟨false, code.toNat, rank, []⟩ else s)

/-- COLL_DECISION (R264): the decider's decision reaches a member. -/
def execCollDecision (key : Nat × Nat) (commit : Bool) (code : BitVec 10) (rank : Nat) (data : List Byte) (s : State) :
    Host.Outcome State Fault Refusal :=
  let e := s.collGroup key.1
  next (if e.valid ∧ e.rank + 1 ≠ e.size then s.decideColl key.1 key.2 ⟨commit, code.toNat, rank, data⟩ else s)

/-- The rank of a group's first member, other than this device, that cannot be reached (R264). -/
def State.lostMember (s : State) (e : CollGroup) : Option Nat :=
  (List.range e.size).find? (fun r => decide (r ≠ e.rank) &&
    let d := (s.mem.read (e.ranks + r)).toNat
    !s.peerReachable d || s.cutPeer (peerBase + d * 0x10000000000))

/-- The numbers of a group's collectives that this member takes part in and has not ended: in flight without a decision or
an ABORT of its own, or with a partial result staged. -/
def State.collNumbers (s : State) (g : Nat) : List Nat :=
  (s.collOps g).filterMap (fun p => match p.2.kind with
    | .coll _ c _ _ => if c.decided.isNone && !c.aborted then some c.number else none
    | _ => none) ++
  ((s.collIn.getD g []).filter (fun p => p.2.isSome)).map (·.1)

/-- Members of groups that cannot be reached any more end the groups' collectives (R264); a device that is reset is seen by
its links, which go down (DEDUCED, log entry 129). -/
def State.checkMembers (s : State) : State :=
  (List.range 256).foldl (fun s g =>
    match s.collNumbers g with
    | [] => s
    | l =>
      match s.lostMember (s.collGroup g) with
      | some r => l.foldl (fun s n => s.abortColl g n 0x389 r) s
      | none => s) s

end Sys2Proof.Machine
end

