-- ==== Sys2Proof/Machine/Complete.lean ====
section
/-!
DEFINITION. The completions of operations in flight: loads, variable-latency results, stores, reductions, rows, walks
and matrix operations (R22, R23, R60, R66, R67, R128, R155, R169 to R171, R174).
-/
namespace Sys2Proof.Machine

/-- An uncorrectable error or a missing response on a load or an atomic: the precise trap at its word (R128, R63). -/
def State.failLoad (s : State) (k : Nat) (o : Op) (cause : BitVec 10) : State :=
  let s := s.dropOp k
  if (s.ctx o.ctx).live then ((s.leaveRun o.ctx)).trapAt o.ctx o.pc ⟨cause, o.va, o.info⟩ else s

/-- A restartable task's block is ended by an error of its own access (R238). -/
def State.restartable (s : State) (o : Op) : Bool := s.isRestart (s.ctx o.ctx) && (s.blocks.get? o.block).isSome

/-- Rows that SHRINK released return once the writes to them have retired and the engine operations on them have
completed (R155, R156). -/
def State.rowsReady (s : State) (after : List Nat) : Bool := after.all (fun k => (s.ops.get? k).isNone)

/-- A result that is not a load's reaches its registers: path register and FSTAT bits with it (R113, R118, R174). -/
def State.returnResult (s : State) (k : Nat) (o : Op) (vals : List Word) (path : Option (Nat × Word)) (flags : BitVec 6) :
    State :=
  ((s.putRegs o.ctx o.dst vals).updCtx o.ctx (fun c =>
    { c with
      path := match path with | some (p, w) => c.path.set p w | none => c.path
      fstat := c.fstat ||| flags.setWidth 32 })).dropOp k

/-- VARIABLE_LATENCY_COMPLETE (R22, R23, R122). -/
def execVariableLatencyComplete (op : Nat) (s : State) : Host.Outcome State Fault Refusal :=
  next (match s.ops.get? op with
    | some o =>
      match o.kind with
      | .result vals path flags => s.returnResult op o vals path flags
      | _ => s
    | none => s)

/-- TWALK_COMPLETE (R174). -/
def execTwalkComplete (op : Nat) (s : State) : Host.Outcome State Fault Refusal :=
  next (match s.ops.get? op with
    | some o =>
      match o.kind with
      | .walk vals path => s.returnResult op o vals (some path) 0
      | _ => s
    | none => s)

/-- STORE_PERFORMED (R60): the store and what must come before it. -/
def execStorePerformed (op : Nat) (s : State) : Host.Outcome State Fault Refusal :=
  next (match s.ops.get? op with
    | some o => if o.isStore then s.settleCore o.core op else s
    | none => s)

/-- REDUCTION_APPLY (R66, R67). -/
def execReductionApply (op : Nat) (s : State) : Host.Outcome State Fault Refusal :=
  next (match s.ops.get? op with
    | some o => if o.isStore then s.settleCore o.core op else s
    | none => s)

/-- SHRINK_ROW_RETURN (R155). -/
def execShrinkRowReturn (op : Nat) (s : State) : Host.Outcome State Fault Refusal :=
  next (match s.ops.get? op with
    | some o =>
      match o.kind with
      | .rows n after => if s.rowsReady after then (s.dropOp op).returnRows o.core n else s
      | _ => s
    | none => s)

/-- The trap of an uncorrectable error that an engine meets: FADDR holds the address, FINFO the access layout (R169,
R171). -/
def eccTrap (pa size : Nat) (w : Bool) : Trap := ⟨0x104, BitVec.ofNat 64 pa, BitVec.ofNat 32 (accessInfo size w false)⟩

/-- The operand of an MMA in which an address lies has elements of this many bytes. -/
def State.operandSize (b : Block) (core : Nat) (m : MatOp) (pa : Nat) : Nat :=
  let t := ([m.a, m.b, m.c].map tileOf).find? (fun t => (tileRows b core t).any (fun r => decide (r.1 ≤ pa ∧ pa < r.1 + r.2)))
  t.elim 1 (fun t => fmtBytes t.fmt)

/-- An MMA completes (R169): undefined in C after an uncorrectable error on an operand, after metadata that is not two
bits set, or when its operands or its tile were touched meanwhile (R64). -/
def State.completeMma (s : State) (k : Nat) (o : Op) (m : MatOp) (ecc : Option Nat) : State :=
  let b := s.block o.block
  let err := match ecc with
    | some pa => some (eccTrap pa (State.operandSize b o.core m pa) false)
    | none => if metaGood s b o.core m then none else some ((invalid 9 m.metaTd).trap 0)
  let raced := decide (m.seen ≠ s.opBytes o.core b m)
  let s' := (s.finishMma b o.core m (err.isSome || raced)).resee s k o.core
  s'.retireMatOp k o m err []

/-- The reductions that a core issued before an MDRAIN.ADD reach their destinations before it (R66). -/
def State.settleBefore (s : State) (k : Nat) (o : Op) : State :=
  if o.isAdd && decide (0 < k) then s.settleCore o.core (k - 1) else s

/-- A drain takes effect at its destination: the state, the trap to report, the results for registers (R171). -/
def State.drainOut (s : State) (o : Op) (m : MatOp) (ecc : Option Nat) (late : Bool) :
    State × Option Trap × List (Nat × Nat × Word) :=
  let b := s.block o.block
  let D := tileOf m.c
  let c := s.ctx o.ctx
  let raced := decide (m.seen ≠ s.opBytes o.core b m)
  let report := ecc.map (fun pa => eccTrap pa (fmtBytes D.fmt) true)
  if D.space = 0 then
    let r := s.drainVirtual b o.core (s.partOf c) m c raced (o.err == some 0x101) ecc late
    (r.1, r.2.or report, [])
  else
    let t := s.drainLocal b o.core m raced ecc
    if D.space = 5 then ({ s with free := t.free }, report, t.regResults m) else (t, report, [])

/-- An MDRAIN completes (R171), or waits for the answer to its destination's translation fault; .CLEAR takes effect in
every case. -/
def State.completeDrain (s : State) (k : Nat) (o : Op) (m : MatOp) (ecc : Option Nat) (late : Bool) : State :=
  let s := s.settleBefore k o
  let D := tileOf m.c
  let part := s.partOf (s.ctx o.ctx)
  let need := if m.modes % 2 = 1 then needRW else needW
  match if D.space = 0 && o.err != some 0x101 then s.drainFault part D need else none with
  | some (va, l, lo, z) =>
    let r := s.awaitFault o.core part l lo z va (accessInfo (fmtBytes D.fmt) true false) 2
    r.1.updOp k (fun x => { x with fault := some r.2 })
  | none =>
    let r := s.drainOut o m ecc late
    ((r.1.drainClear (s.block o.block) o.core m).resee s k o.core).retireMatOp k o m r.2.1 r.2.2

/-- The oldest operation of a core's matrix queue that nothing holds back. -/
def State.matHead (s : State) (core : Nat) : Option (Nat × Op × MatOp) :=
  ((s.core core).matQ).findSome? (fun k =>
    match s.ops.get? k with
    | some o =>
      match o.kind with
      | .matrix m => if o.fault = none ∧ !s.matBlocked k o m then some (k, o, m) else none
      | _ => none
    | none => none)

/-- A matrix operation completes. -/
def State.completeMat (s : State) (k : Nat) (o : Op) (m : MatOp) (ecc : Option Nat) (late : Bool) : State :=
  if m.drain then s.completeDrain k o m ecc late else s.completeMma k o m ecc

/-- MATRIX_OP_COMPLETE (R169, R171): operations that share accumulator rows complete in issue order (R166), so one that is
held back lets the first of its core's queue complete instead. -/
def execMatrixOpComplete (op : Nat) (ecc : Option Nat) (s : State) : Host.Outcome State Fault Refusal :=
  next (match s.ops.get? op with
    | some o =>
      match o.kind with
      | .matrix m =>
        if o.fault ≠ none then s
        else if s.matBlocked op o m then
          match s.matHead o.core with
          | some (k, o, m) => s.completeMat k o m none false
          | none => s
        else s.completeMat op o m ecc false
      | _ => s
    | none => s)

end Sys2Proof.Machine
end

