-- ==== Sys2Proof/Machine/Crypto.lean ====
section
/-!
DEFINITION. SHA-256, the verification of ECDSA signatures on P-256, and the check of a firmware image (R254, R266, R269).
The two algorithms are those of their public standards, which the spec names and does not restate (PRESUMED, log entry 23).
-/
namespace Sys2Proof.Machine

/-! ## SHA-256 -/

/-- The round constants. -/
def shaK : List Word :=
    [0x428A2F98, 0x71374491, 0xB5C0FBCF, 0xE9B5DBA5, 0x3956C25B, 0x59F111F1, 0x923F82A4, 0xAB1C5ED5] ++
    [0xD807AA98, 0x12835B01, 0x243185BE, 0x550C7DC3, 0x72BE5D74, 0x80DEB1FE, 0x9BDC06A7, 0xC19BF174] ++
    [0xE49B69C1, 0xEFBE4786, 0x0FC19DC6, 0x240CA1CC, 0x2DE92C6F, 0x4A7484AA, 0x5CB0A9DC, 0x76F988DA] ++
    [0x983E5152, 0xA831C66D, 0xB00327C8, 0xBF597FC7, 0xC6E00BF3, 0xD5A79147, 0x06CA6351, 0x14292967] ++
    [0x27B70A85, 0x2E1B2138, 0x4D2C6DFC, 0x53380D13, 0x650A7354, 0x766A0ABB, 0x81C2C92E, 0x92722C85] ++
    [0xA2BFE8A1, 0xA81A664B, 0xC24B8B70, 0xC76C51A3, 0xD192E819, 0xD6990624, 0xF40E3585, 0x106AA070] ++
    [0x19A4C116, 0x1E376C08, 0x2748774C, 0x34B0BCB5, 0x391C0CB3, 0x4ED8AA4A, 0x5B9CCA4F, 0x682E6FF3] ++
    [0x748F82EE, 0x78A5636F, 0x84C87814, 0x8CC70208, 0x90BEFFFA, 0xA4506CEB, 0xBEF9A3F7, 0xC67178F2]

/-- The initial hash value. -/
def shaH : List Word :=
  [0x6A09E667, 0xBB67AE85, 0x3C6EF372, 0xA54FF53A, 0x510E527F, 0x9B05688C, 0x1F83D9AB, 0x5BE0CD19]

/-- A word rotated right. -/
def rotr (w : Word) (n : Nat) : Word := w.rotateRight n

/-- A message with its padding, as bytes. -/
def shaPad (l : List Byte) : List Byte :=
  let n := l.length
  l ++ [0x80] ++ List.replicate ((119 - n % 64) % 64) 0 ++ (toBytes 8 (8 * n)).reverse

/-- A big-endian number. -/
def beNat (l : List Byte) : Nat := l.foldl (fun n b => n * 256 + b.toNat) 0

/-- The next word of the message schedule, from the sixteen before it. -/
def shaNext (w : List Word) : Word :=
  let a := w.getD 14 0
  let b := w.getD 1 0
  (rotr a 17 ^^^ rotr a 19 ^^^ (a >>> 10)) + w.getD 9 0 + (rotr b 7 ^^^ rotr b 18 ^^^ (b >>> 3)) + w.getD 0 0

/-- One round on the eight working words. -/
def shaRound (v : List Word) (k w : Word) : List Word :=
  match v with
  | [a, b, c, d, e, f, g, h] =>
    let t := h + (rotr e 6 ^^^ rotr e 11 ^^^ rotr e 25) + ((e &&& f) ^^^ (~~~e &&& g)) + k + w
    let u := (rotr a 2 ^^^ rotr a 13 ^^^ rotr a 22) + ((a &&& b) ^^^ (a &&& c) ^^^ (b &&& c))
    [t + u, a, b, c, d + t, e, f, g]
  | v => v

/-- The rounds over a block, whose next sixteen schedule words are given. -/
def shaRounds : List Word → List Word → List Word → List Word
  | v, _, [] => v
  | v, w, k :: ks => shaRounds (shaRound v k (w.getD 0 0)) (w.drop 1 ++ [shaNext w]) ks

/-- One block of 64 bytes taken into the hash. -/
def shaBlock (h : List Word) (l : List Byte) : List Word :=
  let w := (List.range 16).map (fun i => BitVec.ofNat 32 (beNat ((l.drop (4 * i)).take 4)))
  List.zipWith (· + ·) h (shaRounds h w shaK)

/-- n blocks taken into the hash. -/
def shaBlocks : Nat → List Word → List Byte → List Word
  | 0, h, _ => h
  | n + 1, h, l => shaBlocks n (shaBlock h (l.take 64)) (l.drop 64)

/-- SHA-256 of a list of bytes, 32 bytes. -/
def sha256 (l : List Byte) : List Byte :=
  let m := shaPad l
  (shaBlocks (m.length / 64) shaH m).flatMap (fun w => (toBytes 4 w.toNat).reverse)

/-! ## ECDSA on P-256 -/

/-- The prime of the field. -/
def p256 : Nat := 0xffffffff00000001000000000000000000000000ffffffffffffffffffffffff
/-- The order of the group. -/
def n256 : Nat := 0xffffffff00000000ffffffffffffffffbce6faada7179e84f3b9cac2fc632551
/-- The constant of the curve. -/
def b256 : Nat := 0x5ac635d8aa3a93e7b3ebbd55769886bc651d06b0cc53b0f63bce3c3e27d2604b
/-- The base point. -/
def g256 : Nat × Nat :=
  (0x6b17d1f2e12c4247f8bce6e563a440f277037d812deb33a0f4a13945d898c296,
    0x4fe342e2fe1a7f9b8ee7eb4a7c0f9e162bce33576b315ececbb6406837bf51f5)

/-- b to the e modulo m, over the lowest bits of e. -/
def powMod (m : Nat) : Nat → Nat → Nat → Nat
  | 0, _, _ => 1
  | k + 1, b, e => if e % 2 = 1 then b * powMod m k (b * b % m) (e / 2) % m else powMod m k (b * b % m) (e / 2)

/-- The inverse modulo a prime. -/
def invMod (m x : Nat) : Nat := powMod m 256 (x % m) (m - 2)

/-- The sum of two points; none is the point at infinity. -/
def pointAdd (a b : Option (Nat × Nat)) : Option (Nat × Nat) :=
  match a, b with
  | none, b => b
  | a, none => a
  | some (x1, y1), some (x2, y2) =>
    if x1 = x2 ∧ (y1 + y2) % p256 = 0 then none
    else
      let k := if x1 = x2 then (3 * x1 * x1 + (p256 - 3)) * invMod p256 (2 * y1) % p256
        else (y2 + (p256 - y1)) * invMod p256 (x2 + (p256 - x1)) % p256
      let x := (k * k + (p256 - x1) + (p256 - x2)) % p256
      some (x, (k * (x1 + (p256 - x)) + (p256 - y1)) % p256)

/-- e times a point, over the lowest bits of e. -/
def pointMul : Nat → Nat → Option (Nat × Nat) → Option (Nat × Nat)
  | 0, _, _ => none
  | k + 1, e, q =>
    let r := pointMul k (e / 2) (pointAdd q q)
    if e % 2 = 1 then pointAdd q r else r

/-- The point lies on the curve. -/
def onCurve (q : Nat × Nat) : Bool :=
  decide (q.1 < p256) && decide (q.2 < p256) &&
    decide (q.2 * q.2 % p256 = (q.1 * q.1 * q.1 + (p256 - 3) * q.1 + b256) % p256)

/-- A signature r, s of a digest under a key, all as big-endian bytes. -/
def ecdsaValid (key digest sig : List Byte) : Bool :=
  let q := (beNat (key.take 32), beNat (key.drop 32))
  let r := beNat (sig.take 32)
  let v := beNat (sig.drop 32)
  let w := invMod n256 v
  decide (0 < r ∧ r < n256 ∧ 0 < v ∧ v < n256) && onCurve q &&
    (match pointAdd (pointMul 256 (beNat digest * w % n256) (some g256)) (pointMul 256 (r * w % n256) (some q)) with
     | some (x, _) => decide (x % n256 = r)
     | none => false)

/-! ## Firmware images -/

/-- The verification of an image: the REASON of the first check that fails (R266, R267), or none. -/
def verifyImage (l : List Byte) : Option Nat :=
  let n := ofBytes ((l.drop 8).take 8)
  let key := (l.drop 72).take 64
  if ofBytes (l.take 4) ≠ 0x53464C59 ∨ l.length ≠ 200 + n ∨ 0x300000 < l.length then some 6
  else if sha256 key ≠ Config.fusedKeyHash then some 7
  else if ecdsaValid key (sha256 (l.take (136 + n))) (l.drop (136 + n)) then none
  else some 8

end Sys2Proof.Machine
end

