-- ==== Sys2Proof/Machine/Place.lean ====
section
/-!
DEFINITION. Where a block goes and how it starts, the tasks a core takes, and the dispatch of a panel (R27, R33 to R36,
R209, R229 to R231, R250, R251, R276).
-/
namespace Sys2Proof.Machine

/-! ## Room on a core -/

/-- Groups of a block of n threads. -/
def groupCount (n : Nat) : Nat := (n + 31) / 32

/-- The free group slots of a core, ascending. -/
def State.freeSlots (s : State) (core : Nat) : List Nat :=
  (List.range 128).filter (fun i => (s.groups.get? (groupKey core i)).isNone)

/-- The blocks whose scratchpad, descriptor slots, convergence slots and records lie on a core: a block of several cores
holds them all on the first, and one of a partition that is swapped out on none (R36, R242)
(DESIGN CHOICE, log entry 116). -/
def State.chargedTo (s : State) (core : Nat) : List Block :=
  s.blocks.valuesWhere (fun b => b.saved.isNone && b.cores.head? == some core &&
    !(s.parts.getD (s.launches.getD b.launch {}).part {}).swapped)

/-- What those blocks hold of one resource. -/
def State.charged (s : State) (core : Nat) (f : Kernel → Nat) : Nat := ((s.chargedTo core).map (fun b => f b.kernel)).sum

/-- A number raised to the next multiple of 192. -/
def up192 (n : Nat) : Nat := (n + 191) / 192 * 192

/-- n bytes from an offset are free of other blocks and inside the core's scratchpad. -/
def scratchFree (l : List Block) (n off : Nat) : Bool :=
  decide (off + n ≤ 0xC0000) &&
    l.all (fun b => decide (off + n ≤ b.scratchOff) || decide (b.scratchOff + b.kernel.scratch ≤ off))

/-- The scratchpad offset for n bytes, a multiple of 192, at the start or behind another block (R276). -/
def State.scratchRoom (s : State) (core n : Nat) : Option Nat :=
  let l := s.chargedTo core
  (0 :: l.map (fun b => up192 (b.scratchOff + b.kernel.scratch))).find? (scratchFree l n)

/-- A core can take groups of these allocations of a launch's kernel; the first core of a block takes the rest of its share
too (Table 1.2, R36, R209). -/
def State.coreRoom (s : State) (core l : Nat) (k : Kernel) (allocs : List Nat) (first : Bool) : Bool :=
  decide (allocs.length ≤ (s.freeSlots core).length) && decide (allocs.sum ≤ s.budget core l) &&
    (!first || ((s.scratchRoom core k.scratch).isSome && decide (s.charged core Kernel.tiles + k.tiles ≤ 128) &&
      decide (s.charged core Kernel.cvs + k.cvs ≤ 64) && decide (s.charged core Kernel.recs + k.recs ≤ 32)))

/-- The cores that groups of these allocations take from a core on: one, or two to four of its quad (R33), if they have
room (DESIGN CHOICE, log entry 41). -/
def State.placeGroups (s : State) (l : Nat) (k : Kernel) (allocs : List Nat) (core : Nat) : Option (List Nat) :=
  let m := (allocs.length + 127) / 128
  let cores := (List.range m).map (core + ·)
  if core % 4 + m ≤ 4 ∧
      cores.all (fun c => s.coreRoom c l k ((allocs.drop (128 * (c - core))).take 128) (decide (c = core))) then
    some cores
  else none

/-- The cores a new block of n threads takes from a core on. -/
def State.placeAt (s : State) (l : Nat) (k : Kernel) (n core : Nat) : Option (List Nat) :=
  s.placeGroups l k (List.replicate (groupCount n) k.regs) core

/-- The cores of a partition, ascending. -/
def State.coresOf (s : State) (part : Nat) : List Nat :=
  let p := s.parts.getD part {}
  if p.swapped then [] else (List.range 192).filter (fun c => p.quads.contains (c / 4))

/-- The first placement among some cores. -/
def State.placeAmong (s : State) (l : Nat) (k : Kernel) (n : Nat) (cores : List Nat) : Option (List Nat) :=
  cores.findSome? (s.placeAt l k n)

/-- Where the second run of a sampled block goes (R254): the lowest core outside the first run's quad, or in a partition
of one quad another core of it (DESIGN CHOICE, log entry 40); on no core that has run the block, those of the first run
coming first in tried (R238). -/
def State.placeSecond (s : State) (l : Nat) (k : Kernel) (n part : Nat) (tried : List Nat) : Option (List Nat) :=
  let q := tried.headD 0 / 4
  let cores := s.coresOf part
  let others := cores.filter (fun c => decide (c / 4 ≠ q))
  s.placeAmong l k n ((if others.isEmpty then cores else others).filter (fun c =>
    (List.range ((groupCount n + 127) / 128)).all (fun i => !tried.contains (c + i))))

/-! ## The start of a block -/

/-- A fresh scratchpad share (R143): zero, every word EMPTY, and no lock, barrier or ring header in it. -/
def State.freshScratch (s : State) (core off n : Nat) : State :=
  let lo := scratchBase core + off
  let out := fun (a : Nat) => decide (a < lo) || decide (lo + n ≤ a)
  { s with
    mem := s.mem.filter (fun c => out c.1)
    full := s.full.filter (fun p => out p.1)
    locks := s.locks.filter (fun p => out p.1)
    bars := s.bars.filter (fun p => out p.1)
    barFaults := s.barFaults.filter (fun p => out p.1)
    rings := s.rings.filter (fun p => out p.1)
    ecc := s.ecc.filter out }

/-- The group slots of a block on its cores, in group order (R33, R276). -/
def State.slotsFor (s : State) (cores : List Nat) (g : Nat) : List (Nat × Nat) :=
  (cores.zip (List.range cores.length)).flatMap (fun p =>
    ((s.freeSlots p.1).take (Nat.min 128 (g - 128 * p.2))).map (fun i => (p.1, i)))

/-- A thread at its start (R27, R101, R250): V0 to V15 hold the arguments as far as they reach; its spill region is the
runtime's choice, aligned to 64 with room for 8 × D bytes (R148) (DESIGN CHOICE, log entry 99). -/
def startCtx (l : Launch) (b : Block) (id tid core slot : Nat) (args : List Word) (tls : Nat) : Ctx :=
  { core := core, lane := tid % 32, slot := slot, block := id, tid := tid
    pc := l.code + BitVec.ofNat 64 b.kernel.entry
    v := (List.range (Nat.min 16 b.kernel.regs)).map (fun k => (k, args.getD k 0))
    tls := if l.spill = 0 then 0 else BitVec.ofNat 64 (tls % ((2 ^ 56 - 8 * l.spill) / 64 + 1) * 64) }

/-- A block starts on its cores (R27, R33): groups in order, rows taken from the pools, a fresh scratchpad. Answers its
number. -/
def State.startBlock (s : State) (b : Block) (args : List Word) (cores : List Nat) : State × Nat :=
  let id := s.seq + 1
  let first := s.seq + 4
  let l := s.launches.getD b.launch {}
  let g := groupCount b.nthr
  let slots := s.slotsFor cores g
  let core := cores.headD 0
  let off := (s.scratchRoom core b.kernel.scratch).getD 0
  let block : Block := { b with cores := cores, scratchCore := core, scratchOff := off }
  let lanes := fun (j : Nat) => (List.range (Nat.min 32 (b.nthr - 32 * j))).map (first + 32 * j + ·)
  let groups := (slots.zip (List.range g)).map (fun p => (groupKey p.1.1 p.1.2,
    ({ core := p.1.1, slot := p.1.2, block := id, index := p.2, alloc := b.kernel.regs, members := lanes p.2 } : Group)))
  let ctxs := (slots.zip (List.range g)).flatMap (fun p => (lanes p.2).map (fun c =>
    (c, startCtx l block id (c - first) p.1.1 p.1.2 args (Config.freeNat (s.free + (c - first))))))
  let s := s.freshScratch core off b.kernel.scratch
  let s : State := { s with
    ctxs := s.ctxs ++ ctxs
    groups := groups.foldl (fun m p => m.set p.1 p.2) s.groups
    blocks := s.blocks.set id block
    seq := s.seq + 4 + b.nthr
    free := s.free + b.nthr }
  (groups.foldl (fun s p => s.updCore (p.1 / 128) (fun c => { c with freeRows := c.freeRows - b.kernel.regs })) s, id)

/-- The kernel a task runs. -/
def State.taskKernel (s : State) (t : Task) : Kernel :=
  let l := s.launches.getD t.launch {}
  if t.kid = l.kid then l.kernel else (s.kernelOf l t.kid).getD {}

/-- The block that runs a task; a spawned task's indices are 0 (DESIGN CHOICE, log entry 84). -/
def State.blockFor (s : State) (e : Nat) (sample : Option Nat) : Block :=
  let t := s.tasks.getD e {}
  let l := s.launches.getD t.launch {}
  let i := t.root.getD 0
  { launch := t.launch, task := e, index := i, bx := i % l.nbx, by' := i / l.nbx % l.nby, bz := i / l.nbx / l.nby
    nthr := t.nthr, kernel := s.taskKernel t, det := t.det, restart := t.restart, bclass := t.bclass, sample := sample }

/-- The bytes of a task's written ranges, kept for its restart (R238). -/
def State.snapshot (s : State) (t : Task) : List (Nat × List Byte) :=
  let part := (s.launches.getD t.launch {}).part
  (t.ranges.filter (·.written)).flatMap (fun r => (List.range r.len).filterMap (fun i =>
    match s.translate part (r.base + 64 * i) ⟨false, false, false⟩ with
    | .ok pa _ _ => some (pa, s.mem.readBytes pa 64)
    | _ => none))

/-- A task begins on its cores; what a restartable one's snapshot leaves in the restart region has no layout of the spec's
and is undefined (R238) (DESIGN CHOICE, log entry 44). -/
def State.beginTask (s : State) (e : Nat) (cores : List Nat) (sample : Option Nat) : State :=
  let t := s.tasks.getD e {}
  let l := s.launches.getD t.launch {}
  let b := s.blockFor e sample
  let kept := if t.restart then s.snapshot t else []
  let s := if l.restart = 0 then s else s.undefineVirtual l.part l.restart.toNat (64 * kept.length)
  let b : Block := { b with snapshot := kept }
  let r := s.startBlock b t.args cores
  let s := r.1.updTask e (fun t =>
    { t with phase := .running, queue := none, block := some r.2, tried := cores ++ t.tried, runs := t.runs + 1, bypass := 0 })
  match t.queue with
  | some q => s.updCore q (fun c => { c with taskQ := c.taskQ.filter (· ≠ e) })
  | none => s

/-! ## Root tasks -/

/-- The root task of a block of a launch (R250). -/
def rootTask (l : Nat) (q : Launch) (i : Nat) : Task :=
  { launch := l, kid := q.kid, nthr := q.nthr, bclass := q.kernel.bclass, det := q.kernel.det
    restart := q.kernel.restartable, traced := q.kernel.traced, args := q.args, ranges := q.ranges, key := [i]
    root := some i }

/-- A root task enters the dependence table, and its launch's trace: a record that finds no room is entered all the same,
and the words that record for it then trap TRACE_FULL (R196, R199, R250) (DEDUCED, log entry 58). -/
def State.enterRoot (s : State) (l i : Nat) : Option (State × Nat) :=
  let q := s.launches.getD l {}
  match s.freeEntry with
  | none => none
  | some e =>
    let t := rootTask l q i
    match q.trace with
    | none => some (s.enterTask e t, e)
    | some n =>
      let k := q.part * 16 + n
      let r := (s.traces.getD k {}).recs.nextKey
      let x : TraceTask :=
        { kid := t.kid, args := t.args, key := t.key, ranges := t.ranges, bclass := t.bclass, nthr := t.nthr, task := some e }
      let s := s.updTrace k (fun tr => { tr with recs := tr.recs.set r x })
      some (s.enterTask e { t with record := some (k, r) }, e)

/-- The launch's blocks are resident from its admission on: block class C, or a gang (R35, R213). -/
def Launch.reserved (q : Launch) : Bool := decide (q.kernel.bclass = 0) || q.gang.isSome

/-- Blocks of a launch. -/
def Launch.total (q : Launch) : Nat := q.nbx * q.nby * q.nbz

/-- Places n blocks of a launch from index i on, and begins them; none where one does not fit (R36, R213). Their threads
issue once the block is dispatched (DESIGN CHOICE, log entry 42). -/
def State.reserve (s : State) (l : Nat) : Nat → Nat → Option State
  | 0, _ => some s
  | n + 1, i =>
    let q := s.launches.getD l {}
    match s.enterRoot l i with
    | none => none
    | some (s', e) =>
      match s'.placeAmong l q.kernel q.nthr (s'.coresOf q.part) with
      | none => none
      | some cores =>
        (s'.beginTask e cores (if q.kernel.det && decide (i % 1024 = q.seed.toNat % 1024) then some 0 else none)).reserve l n (i + 1)

/-- Block i of the launch is sampled (R254). -/
def Launch.samples (q : Launch) (i : Nat) : Bool := q.kernel.det && decide (i % 1024 = q.seed.toNat % 1024)

/-- The block that runs a root of a launch, if one is placed. -/
def State.rootBlock (s : State) (l i : Nat) : Option (Nat × Block) :=
  s.blocks.find? (fun p => decide (p.2.launch = l) && decide (p.2.index = i) &&
    (s.tasks.getD p.2.task {}).root == some i && p.2.sample != some 1)

/-! ## Tasks that may start -/

/-- A task that may start (R185, R202, R229, R231): its counter is 0, since an earlier round, its dependences have cleared, and a task that a PROP
runs waits for its parent, for stale tasks before it, and for the end of a running task whose ranges clash with its own. -/
def State.taskReady (s : State) (e : Nat) : Bool :=
  let t := s.tasks.getD e {}
  t.unstarted && decide (t.waits = 0) && decide (t.signalled ≠ some s.time) && s.depsClear t &&
    (match (s.launches.getD t.launch {}).prop with
     | none => true
     | some k =>
       (match t.parent with | some p => (s.tasks.get? p).all Task.isOver | none => true) &&
         !(s.traces.getD k {}).staleBefore t.key t.ranges &&
         !s.tasks.any (fun p => decide (p.1 ≠ e) && decide (p.2.launch = t.launch) && p.2.phase == .running &&
           !p.2.key.isPrefixOf t.key && rangesClash p.2.ranges t.ranges)) &&
    (s.launches.getD t.launch {}).ending.isNone && !(s.launches.getD t.launch {}).held

/-- The cores on which a core can enroll a task: a restartable one goes to no core that has run it (R238). -/
def State.admits (s : State) (core e : Nat) : Option (List Nat) :=
  let t := s.tasks.getD e {}
  (s.placeAt t.launch (s.taskKernel t) t.nthr core).filter (fun l => !t.restart || l.all (fun c => !t.tried.contains c))

/-- The task is ready for a core of its partition that may run it (R230, R238). -/
def State.takeable (s : State) (core e : Nat) : Bool :=
  let t := s.tasks.getD e {}
  s.taskReady e && (s.coresOf (s.launches.getD t.launch {}).part).contains core && !(t.restart && t.tried.contains core)

/-- The other cores in the order a thief searches them (R230): its quad, its panel, the device, each ascending from the
core after it. -/
def victims (core : Nat) : List Nat :=
  let l := (List.range 191).map (fun i => (core + 1 + i) % 192)
  l.filter (fun c => decide (c / 4 = core / 4)) ++
    l.filter (fun c => decide (c / 4 ≠ core / 4) && decide (c / 48 = core / 48)) ++
    l.filter (fun c => decide (c / 48 ≠ core / 48))

/-- The task a core would take (R230): the ready one nearest the tail of its own queue, else the one nearest the head of
another's; then one that no queue holds. Those that it has failed to take are passed over (R231). -/
def State.wants (s : State) (lost : List (Nat × Nat)) (core : Nat) : Option Nat :=
  let free := fun e => !lost.contains (core, e) && s.takeable core e
  (((s.core core).taskQ.reverse).find? free).or
    (((victims core).findSome? (fun v => (s.core v).taskQ.find? free)).or
      ((s.tasks.keysWhere (fun _ t => t.phase == .waiting && t.queue.isNone)).find? free))

/-- What the cores would take, each a task that it can admit. -/
def State.picks (s : State) (lost : List (Nat × Nat)) : List (Nat × Nat) :=
  (List.range 192).filterMap (fun c => ((s.wants lost c).filter (fun e => (s.admits c e).isSome)).map (fun e => (c, e)))

/-- The bypass counts of a panel's candidates, those that no core can hold now among them (R251). -/
def State.bypassCounts (s : State) (panel : Nat) : List Nat :=
  let here := fun (q : Launch) => q.ending.isNone && (s.coresOf q.part).any (fun c => decide (c / 48 = panel))
  s.launches.filterMap (fun p => if here p.2 && decide (p.2.dispatched < p.2.total) then some p.2.bypass else none) ++
  s.tasks.filterMap (fun p => if p.2.unstarted && here (s.launches.getD p.2.launch {}) then some p.2.bypass else none)

/-- The dispatcher of a core's panel may let it take a task now: the task fits, and no head bypassed 16 times waits
(R251). -/
def State.mayTake (s : State) (core e : Nat) : Bool :=
  let t := s.tasks.getD e {}
  decide (16 ≤ t.bypass) || (decide ((s.taskKernel t).energy ≤ (s.panel (core / 48)).headroom) &&
    !(s.bypassCounts (core / 48)).any (fun n => decide (16 ≤ n)))

/-- How far a core is from the queue of a task: its owner, in its quad, in its panel, elsewhere; no queue holds it. -/
def Task.level (t : Task) (core : Nat) : Nat :=
  match t.queue with
  | some q => if q = core then 0 else if q / 4 = core / 4 then 1 else if q / 48 = core / 48 then 2 else 3
  | none => 0

/-- One core's take of a task goes before another's: its owner, then the nearest, then the lowest of them (R231). -/
def Task.nearer (t : Task) (a b : Nat) : Bool :=
  decide (t.level a < t.level b) || (decide (t.level a = t.level b) && decide (a < b))

/-- The takes that fail because another core takes the same task (R231). -/
def State.failedTakes (s : State) (l : List (Nat × Nat)) : List (Nat × Nat) :=
  l.filter (fun p => l.any (fun q => decide (q.2 = p.2) && (s.tasks.getD p.2 {}).nearer q.1 p.1 && s.mayTake q.1 q.2))

/-- What each core takes: one whose take fails looks further (R231); n bounds how often. -/
def State.takesFrom (s : State) (lost : List (Nat × Nat)) : Nat → List (Nat × Nat)
  | 0 => []
  | n + 1 =>
    let l := s.picks lost
    let failed := s.failedTakes l
    if failed.isEmpty then l else s.takesFrom (lost ++ failed) n

/-- What each core takes (R230, R231). -/
def State.takes (s : State) : List (Nat × Nat) :=
  if s.tasks.any (fun p => p.2.unstarted) then s.takesFrom [] (s.tasks.length + 1) else []

/-! ## Dispatch -/

/-- The priority of a launch's candidates: that of its queue, as the slot that has it mapped holds it, else by its control
block, which steward firmware ages (R247, R251). -/
def State.launchPriority (s : State) (q : Launch) : Nat :=
  match q.slot, s.slotOf q.part q.queue with
  | some _, some k => s.slotPriority (s.slots.getD k {})
  | some _, none =>
    let qcb := (s.parts.getD q.part {}).qtable + 64 * q.queue
    if s.goodQcb qcb then s.slotPriority { qcb := qcb, age := s.physNat 255 (qcb + 12) 4 } else q.prio
  | none, _ => q.prio

/-- What a panel may dispatch. -/
inductive Work where
  /-- The next block of a launch, on its cores, and a sampled block's second run on others. -/
  | block (l : Nat) (cores second : List Nat)
  | task (e core : Nat)
  deriving DecidableEq, Repr

/-- A candidate (R251). -/
structure Candidate where
  prio : Nat
  order : Nat
  energy : Nat
  bypass : Nat
  work : Work
  deriving DecidableEq, Repr

/-- The next block of a launch as a candidate of a panel, when it may start there: a sampled block waits for the commit
of every lower one (R254), a root for what it depends on (R250). -/
def State.blockWork (s : State) (panel l : Nat) (q : Launch) : Option Work :=
  let i := q.dispatched
  let cores := s.coresOf q.part
  let here := cores.filter (fun c => decide (c / 48 = panel))
  if q.prop.isSome || q.ending.isSome || q.held || decide (q.total ≤ i) || (q.samples i && decide (q.committed < i)) ||
      !s.depsClear (rootTask l q i) then none
  else
    let first : Option (List Nat) :=
      if q.reserved then
        match s.rootBlock l i with
        | some (_, b) => if b.cores.headD 0 / 48 = panel then some b.cores else none
        | none => none
      else if s.freeEntry.isNone then none
      else s.placeAmong l q.kernel q.nthr here
    match first with
    | none => none
    | some f =>
      if q.samples i then (s.placeSecond l q.kernel q.nthr q.part f).map (fun g => .block l f g) else some (.block l f [])

/-- The candidates of a panel (DESIGN CHOICE, log entry 43). -/
def State.candidates (s : State) (panel : Nat) : List Candidate :=
  s.launches.filterMap (fun p => (s.blockWork panel p.1 p.2).map (fun w =>
    ⟨s.launchPriority p.2, p.2.order, p.2.kernel.energy, p.2.bypass, w⟩)) ++
  (s.takes.filter (fun p => decide (p.1 / 48 = panel))).map (fun p =>
    let t := s.tasks.getD p.2 {}
    let q := s.launches.getD t.launch {}
    ⟨s.launchPriority q, q.order, (s.taskKernel t).energy, t.bypass, .task p.2 p.1⟩)

/-- Candidate a goes before candidate b: by priority, then by admission. -/
def Candidate.before (a b : Candidate) : Bool :=
  decide (b.prio < a.prio) || (decide (a.prio = b.prio) && decide (a.order < b.order))

/-- The first of the candidates in their order. -/
def topCandidate (l : List Candidate) : Option Candidate :=
  l.foldl (fun r c => match r with | some b => if c.before b then some c else r | none => some c) none

/-- The candidate a panel takes, and the head it bypasses: one that has been bypassed 16 times goes next, and none passes it
(R251). -/
def State.choose (s : State) (panel : Nat) : Option (Candidate × Option Candidate) :=
  let l := s.candidates panel
  let fits := fun (c : Candidate) => decide (c.energy ≤ (s.panel panel).headroom)
  match topCandidate (l.filter (fun c => decide (16 ≤ c.bypass))) with
  | some h => some (h, none)
  | none =>
    if (s.bypassCounts panel).any (fun n => decide (16 ≤ n)) then none
    else match topCandidate l with
      | none => none
      | some h => if fits h then some (h, none) else (topCandidate (l.filter fits)).map (fun c => (c, some h))

/-- A panel's clock drops one step of 100 MHz, never below 0.9 GHz (R251). -/
def Panel.drop (p : Panel) : Panel := { p with clock := Nat.max 9 (p.clock - 1) }

/-- A head has been bypassed once more; at 16 the clock drops (R251). -/
def State.bypassed (s : State) (panel : Nat) (h : Candidate) : State :=
  let n := h.bypass + 1
  let s := match h.work with
    | .block l _ _ => s.updLaunch l (fun q => { q with bypass := n })
    | .task e _ => s.updTask e (fun t => { t with bypass := n })
  if n = 16 then s.updPanel panel Panel.drop else s

/-- The next block of a launch starts: a reserved one is resident already. -/
def State.dispatchBlock (s : State) (l : Nat) (cores second : List Nat) : State :=
  let q := s.launches.getD l {}
  let i := q.dispatched
  let r : Option (State × Nat) :=
    if q.reserved then (s.rootBlock l i).map (fun p => (s, p.2.task))
    else (s.enterRoot l i).map (fun p => (p.1.beginTask p.2 cores (if q.samples i then some 0 else none), p.2))
  match r with
  | none => s
  | some (s, e) =>
    let s := s.updLaunch l (fun q => { q with dispatched := q.dispatched + 1, bypass := 0 })
    if second = [] then s
    else (s.startBlock { s.blockFor e (some 1) with tried := cores ++ second, runs := 1 } (s.tasks.getD e {}).args second).1

/-- The run of a task that a core begins: that of a sampled root is its first run again (R238, R254). -/
def State.sampleOf (s : State) (e : Nat) : Option Nat :=
  let t := s.tasks.getD e {}
  if !t.byProp && t.root.any (s.launches.getD t.launch {}).samples then some 0 else none

/-- A core takes a task. -/
def State.take (s : State) (core e : Nat) : State :=
  match s.admits core e with
  | some cores => s.beginTask e cores (s.sampleOf e)
  | none => s

/-- A candidate is dispatched. -/
def State.dispatch (s : State) (w : Work) : State :=
  match w with
  | .block l cores second => s.dispatchBlock l cores second
  | .task e core => s.take core e

/-- BLOCK_DISPATCH (R251). -/
def execBlockDispatch (panel : Nat) (s : State) : Host.Outcome State Fault Refusal :=
  next (match s.choose panel with
    | some (c, head) =>
      let s := s.dispatch c.work
      match head with
      | some h => s.bypassed panel h
      | none => s
    | none => s)

/-- The candidate by which a core takes a task. -/
def Candidate.forCore (core : Nat) (c : Candidate) : Bool :=
  match c.work with
  | .task _ k => decide (k = core)
  | .block _ _ _ => false

/-- TASK_TAKE (R230, R251): a core takes its task where the panel's dispatcher would take that candidate, or one that stands
equal with it. -/
def execTaskTake (core : Nat) (s : State) : Host.Outcome State Fault Refusal :=
  let panel := core / 48
  next (match (s.candidates panel).find? (Candidate.forCore core), s.choose panel with
    | some c, some (d, head) =>
      if c = d ∨ (d.bypass < 16 ∧ c.prio = d.prio ∧ c.order = d.order ∧ c.energy ≤ (s.panel panel).headroom) then
        let s := s.dispatch c.work
        match head with
        | some h => s.bypassed panel h
        | none => s
      else s
    | _, _ => s)

end Sys2Proof.Machine
end

