-- ==== Sys2Proof/Machine/Finish.lean ====
section
/-!
DEFINITION. The end of a block, a task and a launch, deterministic commits, and the errors that come back from memory or
from a core's own state (R31, R38, R63, R69, R70, R128, R150, R210, R236 to R238, R250, R252 to R254).
-/
namespace Sys2Proof.Machine

/-! ## The device's own accesses at virtual addresses -/

/-- What the device's own access for a partition meets where it does not reach: a region that a user's does not (R128
step 5), or an error response (DEDUCED, log entry 26). -/
def State.deviceError (s : State) (pa : Nat) : Option (BitVec 10) :=
  if reaches .plain true (regionOf pa) then (s.accessError 255 pa 4).map (·.1) else some 0x101

/-- Where the device's own access for a partition does not reach. -/
def State.deviceRefused (s : State) (pa : Nat) : Bool := (s.deviceError pa).isSome

/-- An aligned 32-bit word the device reads for a partition. -/
def State.virtAligned (s : State) (part va : Nat) : Option Word :=
  if 2 ^ 56 ≤ va then none
  else
    match s.translate part va needR with
    | .ok pa _ _ => if s.deviceRefused pa then none else some (BitVec.ofNat 32 (s.physNat 255 pa 4))
    | _ => none

/-- A 32-bit word the device reads for a partition, from two aligned words where it lies in two. -/
def State.virtWord (s : State) (part va : Nat) : Option Word :=
  if va % 4 = 0 then s.virtAligned part va
  else
    match s.virtAligned part (va / 4 * 4), s.virtAligned part (va / 4 * 4 + 4) with
    | some a, some b => some (BitVec.ofNat 32 ((a.toNat + b.toNat * 2 ^ 32) / 2 ^ (8 * (va % 4))))
    | _, _ => none

/-- n words from a virtual address; none where one cannot be read. -/
def State.virtWords (s : State) (part va : Nat) : Nat → Option (List Word)
  | 0 => some []
  | n + 1 =>
    match s.virtWord part va, s.virtWords part (va + 4) n with
    | some w, some l => some (w :: l)
    | _, _ => none

/-- A read of n words that the device makes for a partition reaches an address that gives an error response: the first
such address is logged (R11 to R13). -/
def State.logReads (s : State) (part va n : Nat) : State :=
  match (List.range (if n = 0 then 0 else (va % 4 + 4 * n + 3) / 4)).findSome? (fun i => match s.translate part (va / 4 * 4 + 4 * i) needR with
      | .ok pa _ _ => (s.deviceError pa).map (fun cause => (cause, pa))
      | _ => none) with
  | some (cause, pa) => s.logError cause 255 part (accessInfo 4 false false) pa
  | none => s

/-- A store the device makes for a partition within one page; one that cannot be made is dropped and logged. -/
def State.pageStore (s : State) (part va : Nat) (l : List Byte) : State :=
  match if 2 ^ 56 ≤ va then .denied else s.translate part va needW with
  | .ok pa _ _ =>
    match s.deviceError pa with
    | some cause => s.logError cause 255 part (accessInfo 4 true false) pa
    | none => s.put 255 pa l
  | _ => s.logError 0x101 255 part (accessInfo 4 true false) va

/-- A store the device makes for a partition, in two parts where it crosses into another page. -/
def State.virtStore (s : State) (part va : Nat) (l : List Byte) : State :=
  let room := 2 ^ 16 - va % 2 ^ 16
  if l.length ≤ room then s.pageStore part va l
  else (s.pageStore part va (l.take room)).pageStore part (va + room) (l.drop room)

/-! ## Completion records -/

/-- The words of a completion record after STATUS (Table 28.4). -/
def recordBytes (l : Nat) (q : Launch) (e : Ending) : List Byte :=
  toBytes 4 e.cause.toNat ++ toBytes 4 e.block ++ toBytes 4 e.tid ++ toBytes 8 e.pc.toNat ++ toBytes 8 e.detail ++
    toBytes 4 l ++ toBytes 4 (q.trace.getD 0xFFFFFFFF) ++ toBytes 4 q.sacHit.toNat ++ toBytes 4 q.sacMiss.toNat ++
    toBytes 4 q.sacSkip.toNat ++ toBytes 12 0

/-- A completion record: every other word is performed before STATUS (R252). -/
def State.writeRecord (s : State) (l : Nat) (q : Launch) (e : Ending) : State :=
  (s.virtStore q.part (q.compl.toNat + 4) (recordBytes l q e)).virtStore q.part q.compl.toNat (toBytes 4 e.status)

/-- Every outstanding operation, block and task of a launch is gone, or it is ending and its blocks and operations are;
under `.det` every block has committed (R252). -/
def State.launchDone (s : State) (l : Nat) (q : Launch) : Bool :=
  (q.ending.isSome || (decide (q.total ≤ q.dispatched) && q.prop.isNone)) && !q.held &&
    !s.blocks.any (fun p => decide (p.2.launch = l)) && !s.ops.any (fun p => decide (p.2.launch = l)) &&
    (q.ending.isSome || (!s.tasks.any (fun p => decide (p.2.launch = l)) && (!q.kernel.det || decide (q.total ≤ q.committed))))

/-- A member leaves its gang; the last one takes the gang with it (R214). -/
def State.leaveGang (s : State) (l : Nat) (q : Launch) : State :=
  match q.gang with
  | none => s
  | some g =>
    let rest := (s.gangs.getD g {}).members.filter (· ≠ l)
    { s with gangs := if rest.isEmpty then s.gangs.erase g else s.gangs.adjust g (fun x => { x with members := rest }) }

/-- The launch is gone: with its tasks, from its gang; its trace may be propagated, and the ring headers it last used are in
use no more (R188, R191). -/
def State.dropLaunch (s : State) (l : Nat) (q : Launch) : State :=
  let s := s.leaveGang l q
  let s := match q.trace with
    | some n => s.updTrace (q.part * 16 + n) (fun t => { t with done := true, model := q })
    | none => s
  { s with
    launches := s.launches.erase l
    tasks := s.tasks.filter (fun p => decide (p.2.launch ≠ l))
    rings := s.rings.filter (fun p => decide (p.2 ≠ l)) }

/-- LAUNCH_COMPLETE (R252). The tasks of an aborted PROP leave no record (R188). -/
def execLaunchComplete (launch : Nat) (s : State) : Host.Outcome State Fault Refusal :=
  next (match s.launches.get? launch with
    | some q =>
      if s.launchDone launch q then
        let s := if q.prop.isSome then s else s.writeRecord launch q (q.ending.getD ⟨1, 0, 0, 0, 0, 0⟩)
        s.dropLaunch launch q
      else s
    | none => s)

/-! ## Staged streams -/

/-- A record of a stream goes before another: by group, then lane, then program order (R69, R253). -/
def Staged.before (a b : Staged) : Bool :=
  decide (a.grp < b.grp) || (decide (a.grp = b.grp) && (decide (a.lane < b.lane) ||
    (decide (a.lane = b.lane) && decide (a.seq < b.seq))))

/-- A stream in its order. -/
def streamOrder (l : List Staged) : List Staged :=
  l.foldl (fun r x => r.filter (fun y => !x.before y) ++ [x] ++ r.filter (fun y => x.before y)) []

/-- The error response that a record of a stream gets at its destination: its cause, and whether its address is logged. A
reduction reads there too (R63, R128). -/
def State.stagedError (s : State) (core : Nat) (r : Staged) : Option (BitVec 10 × Bool) :=
  (s.accessError core r.pa r.size).or
    (if s.cutPeer r.pa then some (0x105, false)
     else if r.kind ≠ 0 && s.hasEcc core r.pa r.size then some (0x104, false) else none)

/-- A record of a stream of a partition performed at its destination, for the trace's record that its task runs for: it is
compared like any write of that task (R66, R201, R253). One that gets an error response is not performed; no thread is
left to take the error, which is logged (DESIGN CHOICE, log entry 120). -/
def State.commitRecord (s : State) (core part : Nat) (record : Option (Nat × Nat)) (r : Staged) : State :=
  match s.stagedError core r with
  | some (cause, _) =>
    let s := if cause = 0x101 then s else s.undefine r.pa r.size
    s.logError cause (logCore core) part (accessInfo r.size true false) r.pa
  | none =>
    let l := if r.kind = 0 then r.data
      else toBytes r.size (reduceValue (r.kind - 1) (s.physNat core r.pa r.size) (ofBytes r.data))
    (s.compareWrite record r.pa l).put core r.pa l

/-- A stream committed whole. -/
def State.commitStream (s : State) (core part : Nat) (record : Option (Nat × Nat)) (l : List Staged) : State :=
  l.foldl (fun s r => s.commitRecord core part record r) s

/-- The trace's record of the root task of a launch's block. -/
def State.rootRecord (s : State) (q : Launch) (block : Nat) : Option (Nat × Nat) :=
  q.trace.bind (fun n =>
    let k := q.part * 16 + n
    ((s.traces.getD k {}).recs.find? (fun p => decide (p.2.key = [block]))).map (fun p => (k, p.1)))

/-- The bytes of a stream that its digest covers (R254). -/
def streamBytes (l : List Staged) : List Byte :=
  l.flatMap (fun r => toBytes 8 r.pa ++ toBytes 1 r.kind ++ toBytes 1 r.data.length ++ r.data)

/-- DET_COMMIT (R69, R253): the block after the last one committed. -/
def execDetCommit (launch : Nat) (s : State) : Host.Outcome State Fault Refusal :=
  next (match s.launches.get? launch with
    | some q =>
      match q.streams.get? q.committed with
      | some l =>
        if q.ending.isSome then s
        else (s.updLaunch launch (fun q =>
          { q with streams := q.streams.erase q.committed, committed := q.committed + 1 })).commitStream 255 q.part
          (s.rootRecord q q.committed) l
      | none => s
    | none => s)

/-- DET_SAMPLE_COMPARE (R70, R254): the first run's stream may commit, or the launch ends. -/
def execDetSampleCompare (launch block : Nat) (s : State) : Host.Outcome State Fault Refusal :=
  next (match s.launches.get? launch with
    | some q =>
      match q.first.get? block, q.second.get? block with
      | some (a, x), some (b, y) =>
        let s := s.updLaunch launch (fun q => { q with first := q.first.erase block, second := q.second.erase block })
        if sha256 (streamBytes x) = sha256 (streamBytes y) then
          s.updLaunch launch (fun q => { q with streams := q.streams.set block x })
        else s.endInTrap launch ⟨2, 0x385, block, 0, 0, a % 256 + b % 256 * 2 ^ 8⟩
      | _, _ => s
    | none => s)

/-! ## The end of a block -/

/-- The contexts of a block. -/
def State.blockCtxs (s : State) (b : Nat) : List Nat := s.ctxs.keysWhere (fun _ c => decide (c.block = b))

/-- Every context of a block has exited, ended or been stopped, and their operations have completed (R150). -/
def State.blockOver (s : State) (b : Nat) : Bool :=
  (s.blocks.get? b).any (fun k => k.saved.isNone) && (s.blockCtxs b).all (fun id => !(s.ctx id).live) &&
    !s.ops.any (fun p => decide (p.2.block = b)) &&
    !s.cores.any (fun c => c.2.channels.any (fun h => h.2.busy && decide ((s.ctx h.2.ctx).block = b)))

/-- What a block held returns to its cores (R150). -/
def State.releaseBlock (s : State) (b : Nat) : State :=
  let gs := s.groups.filter (fun g => decide (g.2.block = b))
  let keys := gs.map (·.1)
  let s := { s with
    ctxs := s.ctxs.filter (fun c => decide (c.2.block ≠ b))
    groups := s.groups.filter (fun g => decide (g.2.block ≠ b))
    blocks := s.blocks.erase b
    cores := s.cores.map (fun (p : Nat × Core) => (p.1, { p.2 with growQ := p.2.growQ.filter (fun q => !keys.contains q.1) })) }
  gs.foldl (fun s g => s.returnRows (g.1 / 128) g.2.alloc) s

/-- A task whose subtree is finished leaves the dependence table, and may finish its parent's (R34, R250); n bounds the
depth. -/
def State.closeSubtree (s : State) : Nat → Nat → State
  | 0, _ => s
  | n + 1, e =>
    match s.tasks.get? e with
    | none => s
    | some t =>
      if t.isOver && !s.tasks.any (fun p => p.2.parent == some e) then
        let s : State := { s with tasks := s.tasks.erase e }
        match t.parent with
        | some p => s.closeSubtree n p
        | none => s
      else s

/-- A task has ended. -/
def State.endTask (s : State) (e : Nat) : State :=
  let l := (s.tasks.getD e {}).launch
  let s := s.updTask e (fun t => { t with phase := .ended, block := none })
  let s := s.closeSubtree (s.tasks.length + 1) e
  match (s.launches.getD l {}).prop with
  | some k => s.stepProp k
  | none => s

/-- What a block staged is committed, or, for a root of a `.det` launch, kept for its turn; the tasks of a PROP commit where
they end (R69, R238, R253). What the stream leaves in the staging region has no layout of the spec's and is undefined
(DESIGN CHOICE, log entry 44). -/
def State.keepStream (s : State) (b : Block) : State :=
  let l := streamOrder b.stage
  let t := s.tasks.getD b.task {}
  let q := s.launches.getD b.launch {}
  let s := if b.det ∧ q.stage ≠ 0 then s.undefineVirtual q.part q.stage.toNat (stagedSize l) else s
  if b.det ∧ t.root.isSome ∧ !t.byProp then
    if b.sample = some 0 then s.updLaunch b.launch (fun q => { q with first := q.first.set b.index (b.scratchCore, l) })
    else s.updLaunch b.launch (fun q => { q with streams := q.streams.set b.index l })
  else s.commitStream b.scratchCore q.part t.record (if b.det then l else b.stage)

/-- The error that a restartable task's commit meets, so that the task fails instead (R238). -/
def State.commitError (s : State) (b : Block) : Option (BitVec 10) :=
  if b.restart then
    (b.stage.findSome? (fun r => (s.stagedError b.scratchCore r).map (·.1))).filter (fun c => c == 0x104 || c == 0x105)
  else none

/-- A restartable task that failed is undone from its snapshot, and waits for another core (R238). -/
def State.restartTask (s : State) (b : Block) : State :=
  let s := b.snapshot.foldl (fun s p => s.pokeMem p.1 p.2) s
  s.updTask b.task (fun t => { t with phase := .waiting, queue := none, block := none })

/-- Where the second run of a sampled block is made again (R238, R254). -/
def State.secondCores (s : State) (b : Block) : Option (List Nat) :=
  s.placeSecond b.launch b.kernel b.nthr (s.launches.getD b.launch {}).part b.tried

/-- The second run of a sampled block is made again from its entry (R238, R254). -/
def State.rerunSecond (s : State) (b : Block) : State :=
  match s.secondCores b with
  | some cores =>
    (s.startBlock
      { b with
        td := [], cv := [], recs := [], stage := [], errors := [], unseen := [], failing := none, failed := none, saved := none
        tried := b.tried ++ cores, runs := b.runs + 1 } (s.launches.getD b.launch {}).args cores).1
  | none => s

/-- The end of a block has somewhere to go: a failed second run needs cores that can run it again. -/
def State.mayEnd (s : State) (id : Nat) : Bool :=
  let b := s.block id
  decide (b.sample ≠ some 1) || b.failed.isNone || (s.launches.getD b.launch {}).ending.isSome || (s.secondCores b).isSome

/-- The ending of a launch none of whose threads ended in a trap (R252). -/
def plainEnding (cause : BitVec 10) (detail : Nat) : Ending := ⟨2, cause, 0, 0, 0, detail⟩

/-- A block ends: its resources return, and its task ends, is made again, or ends with its launch. -/
def State.endBlock (s : State) (id : Nat) : State :=
  let b := s.block id
  let ending := (s.launches.getD b.launch {}).ending.isSome
  let t := s.tasks.getD b.task {}
  let s := (s.releaseBlock id)
  let s :=
    if b.sample = some 1 then
      if ending then s
      else if b.failed.isSome then s.rerunSecond b
      else s.updLaunch b.launch (fun q => { q with second := q.second.set b.index (b.scratchCore, streamOrder b.stage) })
    else if ending then s.updTask b.task (fun t => { t with phase := .closed, block := none })
    else if b.failed.isSome then s.restartTask b
    else if (s.commitError b).isSome then
      if t.runs < 3 then s.restartTask b else s.endInTrap b.launch (plainEnding ((s.commitError b).getD 0x105) 0)
    else
      let s := s.keepStream b
      let s := match t.record with
        | some (k, r) => s.closeTrace k r t.byProp
        | none => s
      s.endTask b.task
  s.sweepFaults

/-- BLOCK_END (R150). -/
def execBlockEnd (block : Nat) (s : State) : Host.Outcome State Fault Refusal :=
  next (if s.blockOver block && s.mayEnd block then s.endBlock block else s)

/-! ## Failures -/

/-- Every live thread of a block is stopped at once, with no handler, and a save of it that was under way is abandoned
(R237, R243). -/
def State.stopBlock (s : State) (b : Nat) : State :=
  let ids := (s.blockCtxs b).filter (fun id => (s.ctx id).live)
  let s := (ids.foldl State.leaveRun s).mapCtxs ids (fun c => { c.land with status := .stopped })
  { s with groups := s.groups.map (fun (p : Nat × Group) => if p.2.block = b then (p.1, { p.2 with preempt := false }) else p) }

/-- A block ends in a failure (R237, R238): its task is made again if it is restartable and has not failed three times,
else its launch ends. -/
def State.failBlock (s : State) (b : Nat) (cause : BitVec 10) (e : Ending) : State :=
  let k := s.block b
  let t := s.tasks.getD k.task {}
  let s := s.stopBlock b
  let s := s.updBlock b (fun k => { k with failing := none })
  if k.restart ∧ (if k.sample = some 1 then k.runs else t.runs) < 3 then s.updBlock b (fun k => { k with failed := some cause })
  else s.endInTrap k.launch e

/-- An error of an access of a restartable task (R238): no thread takes a trap. -/
def State.failAccess (s : State) (o : Op) (cause : BitVec 10) : State := s.failBlock o.block cause (plainEnding cause 0)

/-- The blocks that an access of their own has failed end (R238). -/
def State.settleFailing (s : State) : State :=
  s.blocks.foldl (fun s b => match b.2.failing with
    | some cause => s.failBlock b.1 cause (plainEnding cause 0)
    | none => s) s

/-- The target bytes of a load or an atomic without a response are undefined (R63). -/
def State.undefineTarget (s : State) (o : Op) : State :=
  match o.kind with
  | .load pa n _ => s.undefine pa n
  | .value pa vals => s.undefine pa (4 * vals.length)
  | _ => s

/-- The end of a load or an atomic in an error: a restart, where R238 gives one, or the precise trap
(DEDUCED, log entry 71). -/
def State.badLoad (s : State) (k : Nat) (o : Op) (cause : BitVec 10) : State :=
  let s := s.returnLoads o.ctx k
  let s := if cause = 0x105 then s.undefineTarget o else s
  if s.restartable o && (cause == 0x104 || cause == 0x105) then (s.dropOp k).failAccess o cause else s.failLoad k o cause

/-- Memory is found to hold an uncorrectable error where a load reads; an atomic has met its own where it acted
(DESIGN CHOICE, log entry 108). -/
def State.addEcc (s : State) (o : Op) : State :=
  match o.kind with
  | .load pa _ _ => { s with ecc := memKey o.core pa :: s.ecc }
  | _ => s

/-- The address of a load that gets an error response is logged (R11 to R14). -/
def State.logLoad (s : State) (o : Op) (cause : BitVec 10) : State :=
  match o.kind with
  | .load pa _ _ => s.logError cause (logCore o.core) (s.partOf (s.ctx o.ctx)) o.info.toNat pa
  | _ => s

/-- DATA_RETURN (R132, R137): the data of the thread's loads up to this one; ecc says that memory holds an uncorrectable
error there. An error is a precise trap (R128) or restarts a restartable task (R238) (DESIGN CHOICE, log entry 98). -/
def execDataReturn (op : Nat) (ecc : Bool) (s : State) : Host.Outcome State Fault Refusal :=
  next (match s.ops.get? op with
    | some o =>
      if !o.isLoad then s
      else
        let s := if ecc then s.addEcc o else s
        match s.loadError o with
        | some (cause, logged) => (if logged then s.logLoad o cause else s).badLoad op o cause
        | none => s.returnLoads o.ctx (op + 1)
    | none => s)

/-- An error response to a store or reduction: what its core issued before it is performed first (R128). One that is held
back has not been sent. -/
def State.badStore (s : State) (k : Nat) (o : Op) (cause : BitVec 10) : State :=
  let s := if k = 0 then s else s.settleCore o.core (k - 1)
  let s := s.returnLoads o.ctx k
  if s.storeHeld k o then s
  else if s.restartable o && (cause == 0x104 || cause == 0x105) then (s.dropOp k).failAccess o cause
  else s.deferStore k o cause

/-- DEFERRED_STORE_ERROR (R128). -/
def execDeferredStoreError (op : Nat) (cause : BitVec 10) (s : State) : Host.Outcome State Fault Refusal :=
  next (match s.ops.get? op with
    | some o => if o.isStore then s.badStore op o cause else s
    | none => s)

/-- REMOTE_TIMEOUT (R63, R128, R171, R178, R238): a remote access that gets no response. -/
def execRemoteTimeout (op : Nat) (s : State) : Host.Outcome State Fault Refusal :=
  next (match s.ops.get? op with
    | some o =>
      if o.isLoad then s.badLoad op o 0x105
      else if o.isStore then s.badStore op o 0x105
      else match o.kind with
        | .copy c => if o.fault = none then s.finishCopy op o c none true else s
        | .matrix m => if o.fault = none ∧ m.drain ∧ !s.matBlocked op o m then s.completeMat op o m none true else s
        | _ => s
    | none => s)

/-- MACHINE_CHECK (R237, R238): a structure of a core, or of none (255), that held state of a block. Engine work already
issued completes with undefined results. -/
def execMachineCheck (block core code : Nat) (s : State) : Host.Outcome State Fault Refusal :=
  next (match s.blocks.get? block with
    | some b =>
      let detail := code % 256 + core % 256 * 2 ^ 8
      let s : State := { s with ops := s.ops.map (fun (p : Nat × Op) =>
        match p.2.kind with
        | .matrix m => if p.2.block = block then (p.1, { p.2 with kind := .matrix { m with seen := [] } }) else p
        | _ => p) }
      (s.logError 0x106 (if core < 192 then core else 255) (s.launches.getD b.launch {}).part detail 0).failBlock block 0x106
        (plainEnding 0x106 detail)
    | none => s)

/-- FRESP_REPLAY (R236). -/
def execFrespReplay (core entry : Nat) (s : State) : Host.Outcome State Fault Refusal :=
  next (if (s.faults.get? (core * 256 + entry)).isSome then s.answerFault core entry false else s)

/-- FRESP_FAIL (R236). -/
def execFrespFail (core entry : Nat) (s : State) : Host.Outcome State Fault Refusal :=
  next (if (s.faults.get? (core * 256 + entry)).isSome then s.answerFault core entry true else s)

/-! ## The watchdog and the deadlock check -/

/-- The cycles a parked thread has waited (R38). -/
def Ctx.count (c : Ctx) : Nat :=
  match c.status with
  | .parked _ _ _ n => n
  | _ => 0

/-- The watchdog counts a thread parked so, with the scope its trap reports (R38); an MWAIT only while the thread's own
signature stands under its convergence register, so that its operation still misses one (R170). -/
def State.watched (s : State) (id : Nat) : Option Nat :=
  let c := s.ctx id
  match c.status with
  | .parked p _ scope _ =>
    match p with
    | .join _ => some scope
    | .tagged _ _ _ _ => some scope
    | .waitv _ => some scope
    | .qlock _ _ => some scope
    | .bar _ => some scope
    | .regrp _ => some scope
    | .ring _ _ _ _ _ _ => some scope
    | .prop _ _ _ => some scope
    | .mwait n => if ((s.block c.block).conv n).signed.contains id then some scope else none
    | _ => none
  | _ => none

/-- The entry of a thread that its watchdog takes out of its wait is removed (R129): its arrival at a rejoin mask; its
place in a ring's queue, whose next participant may then go on (DEDUCED, log entry 54). -/
def State.removeEntry (s : State) (c : Ctx) : State :=
  match c.parkKind with
  | some (.join n) => s.updGroup (groupKey c.core c.slot) (fun g =>
      { g with arrived := g.arrived.set n (g.arrived.getD n 0 &&& ~~~(laneBit c.lane)) })
  | some (.ring pa _ _ _ _ _) => s.serveRing pa
  | _ => s

/-- A thread stands in the core's group that it belongs to: neither saved nor swapped out (R240). -/
def State.resident (s : State) (id : Nat) : Bool :=
  (s.groups.get? (groupKey (s.ctx id).core (s.ctx id).slot)).any (fun g => g.saved.isNone && g.members.contains id)

/-- The watchdog's trap is due in a thread: its count has reached the launch's 2 ^ k cycles while it waits so (R38). The
scope it reports. -/
def State.barks (s : State) (id : Nat) : Option Nat :=
  let c := s.ctx id
  let k := (s.launchFor c).watchdog
  if !isSteward c.core && decide (k ≠ 0) && decide (2 ^ k ≤ c.count) && s.resident id then s.watched id else none

/-- The threads of a watched thread's issue that wait with it: those of the participant set a ring word parked (R194). -/
def State.barkers (s : State) (id : Nat) : List Nat :=
  match (s.ctx id).parkKind with
  | some (.ring pa _ _ _ _ _) => (s.ringParty id pa).filter (fun j => (s.barks j).isSome)
  | _ => [id]

/-- WAIT_WATCHDOG (R38): a watched thread's count has reached the launch's 2 ^ k cycles. -/
def execWaitWatchdog (ctx : Nat) (s : State) : Host.Outcome State Fault Refusal :=
  let c := s.ctx ctx
  next (match s.barks ctx with
    | some scope => ((s.barkers ctx).foldl (fun s id =>
        s.trapThread id (s.ctx id).pc (s.ctx id).pc ⟨0x201, (s.ctx id).pc, BitVec.ofNat 32 scope⟩) s).removeEntry c
    | none => s)

/-- The groups resident on a core. -/
def State.coreGroups (s : State) (core : Nat) : Store Group :=
  s.groups.filter (fun g => decide (g.1 / 128 = core) && g.2.saved.isNone)

/-- None of a group's live threads can issue (R31): each is parked, or lies in a run that waits in place. -/
def State.groupStuck (s : State) (g : Group) : Bool :=
  g.members.all (fun id => !(s.ctx id).live || (s.ctx id).parkKind.isSome ||
    (g.run.any (fun r => r.held && r.mem.contains id)))

/-- A physical address lies in the window of a core (R13). -/
def inWindow (core pa : Nat) : Bool := decide (windowBase + core * 0x4000000 ≤ pa ∧ pa < windowBase + (core + 1) * 0x4000000)

/-- A virtual address of a partition that translates into the window of a core. -/
def State.reachesWindow (s : State) (core part va : Nat) : Bool :=
  match s.translate part va ⟨false, false, false⟩ with
  | .ok pa _ _ => inWindow core pa
  | _ => false

/-- A copy of a partition, for a group slot, is aimed at a core: by an access to its window, or by a tag or a barrier
object held there (R210). -/
def State.copyAims (s : State) (core grp : Nat) (c : CopyRec) : Bool :=
  (decide (c.kind = 0) && decide (grp / 128 = core)) || (decide (c.kind = 1) && s.reachesWindow core c.part c.caddr.toNat) ||
    c.cells.any (fun p => s.reachesWindow core c.part p.1 || s.reachesWindow core c.part p.2)

/-- An operation in flight of another core is aimed at this one (R210). -/
def State.opAims (s : State) (core : Nat) (o : Op) : Bool :=
  match o.kind with
  | .load pa _ _ => inWindow core pa
  | .store pa _ _ => inWindow core pa
  | .reduce pa _ _ => inWindow core pa
  | .value pa _ => inWindow core pa
  | .copy c => s.copyAims core o.grp c
  | _ => false

/-- A channel with a record under way is aimed at a core (R181, R210). -/
def State.channelAims (s : State) (core : Nat) (ch : Channel) : Bool :=
  ch.busy && s.copyAims core ch.grp (s.recordCopyOf ch)

/-- An operation that counts as activity of its own core: an access to memory or one of an engine (R210). -/
def Op.counts (o : Op) : Bool :=
  match o.kind with
  | .result _ _ _ => false
  | .rows _ _ => false
  | _ => true

/-- What R210 counts as activity of a core. -/
def State.coreBusy (s : State) (core : Nat) : Bool :=
  s.ops.any (fun p => (decide (p.2.core = core) && p.2.counts) || s.opAims core p.2) ||
  s.cores.any (fun c => c.2.channels.any (fun h => (decide (c.1 = core) && h.2.busy) || s.channelAims core h.2)) ||
  s.faults.any (fun f => decide (f.1 / 256 = core))

/-- The conditions of the GROW deadlock check hold on a core (R31). -/
def State.deadlockHolds (s : State) (core : Nat) : Bool :=
  (s.coreGroups core).all (fun g => s.groupStuck g.2) && !s.coreBusy core &&
    (s.core core).growQ.any (fun q => decide (s.budget core (s.groupLaunch q.1) < q.2) && (s.group q.1).saved.isNone)

/-- The trap of one group parked in GROW; its request leaves the queue. -/
def State.deadlockGroup (s : State) (core : Nat) (q : Nat × Nat) : State :=
  let s := s.updCore core (fun c => { c with growQ := c.growQ.filter (· ≠ q) })
  ((s.group q.1).members.filter (fun id => (s.ctx id).parkKind == some (.grow q.2))).foldl (fun s id =>
    let c := s.ctx id
    let l := (s.block c.block).launch
    let e : Ending := ⟨2, 0x280, (s.block c.block).index, c.tid, c.pc, core⟩
    let s := s.enterOnly id c.pc c.pc ⟨0x280, c.pc, BitVec.ofNat 32 q.2⟩
    s.updLaunch l (fun k =>
      { k with
        deadlocked := if (s.ctx id).live then id :: k.deadlocked else k.deadlocked
        deadlock := match k.deadlock with
          | some d => if d.block < e.block ∨ (d.block = e.block ∧ d.tid ≤ e.tid) then some d else some e
          | none => some e })) s

/-- The conditions have held for 65,536 consecutive cycles (R31). -/
def State.deadlockFires (s : State) (core : Nat) : Bool := decide (65536 ≤ (s.core core).quiet) && s.deadlockHolds core

/-- GROW_DEADLOCK_CHECK (R31, R210): every group of the core parked in GROW traps; a launch whose trapped threads have
all ended in the trap is aborted at once. -/
def execGrowDeadlockCheck (core : Nat) (s : State) : Host.Outcome State Fault Refusal :=
  next (if s.deadlockFires core then
      let qs := (s.core core).growQ.filter (fun q => (s.group q.1).saved.isNone)
      let ls := qs.map (fun q => s.groupLaunch q.1)
      let s := (qs.foldl (fun s q => s.deadlockGroup core q) s).updCore core (fun c => { c with quiet := 0 })
      ls.foldl (fun s l =>
        match s.launches.get? l with
        | some q =>
          match q.deadlocked, q.deadlock with
          | [], some e => s.endInTrap l e
          | _, _ => s
        | none => s) s
    else s)

end Sys2Proof.Machine
end

