-- ==== Sys2Proof/Machine/Preempt.lean ====
section
/-!
DEFINITION. Pre-emption: requests, saving and restoring contexts, partition swap, and the starvation timer
(R18, R129, R194, R239 to R243).
What a saved block or a swapped partition held on its cores stands meanwhile at addresses and keys of its own, outside
the machine's ranges.
-/
namespace Sys2Proof.Machine

/-! ## Moving what lies at addresses -/

/-- An address lies among the n from lo. -/
def within (lo n a : Nat) : Bool := decide (lo ≤ a ∧ a < lo + n)

/-- The memory with the n bytes from lo moved to another place, whose bytes they replace. -/
def Memory.relocate (m : Memory) (lo n dst : Nat) : Memory :=
  (m.filter (fun c => within lo n c.1)).foldl (fun m c => m.write (c.1 - lo + dst) c.2)
    (m.filter (fun c => !within lo n c.1 && !within dst n c.1))

/-- A map with the n keys from lo moved to another place, whose entries they replace. -/
def Store.relocate {α : Type} (m : Store α) (lo n dst : Nat) : Store α :=
  (m.filter (fun c => within lo n c.1)).foldl (fun m c => m.set (c.1 - lo + dst) c.2)
    (m.filter (fun c => !within lo n c.1 && !within dst n c.1))

/-- A wait whose word or object lies in moved memory. -/
def Park.relocate (p : Park) (lo n dst : Nat) : Park :=
  let f := fun a => if lo ≤ a ∧ a < lo + n then a - lo + dst else a
  match p with
  | .tagged pa k d w => .tagged (f pa) k d w
  | .waitv pa => .waitv (f pa)
  | .qlock pa v => .qlock (f pa) v
  | .bar pa => .bar (f pa)
  | .ring pa k i d l c => .ring (f pa) k i d l c
  | p => p

/-- A thread parked at moved memory keeps its wait. -/
def Ctx.relocate (c : Ctx) (lo n dst : Nat) : Ctx :=
  match c.status with
  | .parked p a sc k => { c with status := .parked (p.relocate lo n dst) a sc k }
  | _ => c

/-- Memory moved, with its tags, locks, barriers, ring headers, errors and waiters. -/
def State.relocate (s : State) (lo n dst : Nat) : State :=
  { s with
    mem := s.mem.relocate lo n dst
    full := s.full.relocate lo n dst
    locks := s.locks.relocate lo n dst
    bars := s.bars.relocate lo n dst
    barFaults := s.barFaults.relocate lo n dst
    rings := s.rings.relocate lo n dst
    ecc := (s.ecc.filter (fun a => !within dst n a)).map (fun a => if within lo n a then a - lo + dst else a)
    ctxs := s.ctxs.map (fun p => (p.1, p.2.relocate lo n dst)) }

/-! ## Save areas -/

/-- The kind of Table 26.2 for a wait (DESIGN CHOICE, log entry 53). -/
def Park.kind : Park → Nat
  | .join _ => 1
  | .tagged _ _ _ _ => 2
  | .waitv _ => 3
  | .qlock _ _ => 4
  | .bar _ => 5
  | .grow _ => 6
  | .regrp _ => 7
  | .ring _ _ _ _ _ _ => 8
  | .mwait _ => 9
  | .late _ => 10
  | .xfault _ _ _ => 11
  | .tagWait _ _ => 0
  | .prop _ _ _ => 0
  | .wfe => 0
  | .boot => 0

/-- Bytes brought to a length. -/
def fitBytes (n : Nat) (l : List Byte) : List Byte := l.take n ++ List.replicate (n - l.length) 0

/-- The thread save area of a context (Table 26.2). -/
def State.threadArea (s : State) (alloc id : Nat) : List Byte :=
  let c := s.ctx id
  let b := s.block c.block
  let signed := (List.range 16).foldl (fun n v => if (b.conv v).signed.contains id then n + 2 ^ (16 + v) else n) 0
  let state := (!c.live).toNat + 2 * c.handler.toNat + 4 * c.deferred.isSome.toNat +
    16 * (c.parkKind.elim 0 Park.kind) + signed
  let regs := fun (m : Store Word) n => (List.range n).flatMap (fun k => toBytes 4 (m.getD k 0).toNat)
  fitBytes 0x400 (regs c.v alloc) ++ toBytes 8 c.pc.toNat ++ toBytes 8 c.tpc.toNat ++ toBytes 8 c.faddr.toNat ++
    toBytes 4 c.fcause.toNat ++ toBytes 4 c.finfo.toNat ++ toBytes 4 c.fmode.toNat ++ toBytes 4 c.fstat.toNat ++
    regs c.x 4 ++ regs c.path 4 ++ toBytes 4 state ++ toBytes 4 c.cycHi.toNat ++
    toBytes 8 (c.parkKind.elim 0 Park.address) ++ toBytes 4 (c.hw.length + 16 * c.spilled) ++ toBytes 4 c.count ++
    fitBytes 64 (c.hw.flatMap (fun w => toBytes 8 w.toNat)) ++ toBytes 8 (c.deferred.elim 0 (fun t => t.addr.toNat)) ++
    toBytes 4 (c.deferred.elim 0 (fun t => t.cause.toNat)) ++ toBytes 84 0

/-- The group save area (Table 26.3): a group has arrived at REGRP when its last live thread has (R154). -/
def State.groupArea (s : State) (key : Nat) : List Byte :=
  let g := s.group key
  let regs := fun (m : Store Word) => (List.range 8).flatMap (fun k => toBytes 4 (m.getD k 0).toNat)
  let faults := g.tagFaults.foldl (fun n p => n + 2 ^ p.1) 0
  let grow := ((s.core g.core).growQ.find? (fun q => q.1 = key)).elim 0 (fun q => 1 + q.2 / 4 * 2 ^ 8)
  let live := g.members.filter (fun id => (s.ctx id).live)
  let regrp := !live.isEmpty &&
    live.all (fun id => match (s.ctx id).parkKind with | some (.regrp _) => true | _ => false)
  regs g.rj ++ regs g.arrived ++ toBytes 4 g.alloc ++ toBytes 4 g.slot ++ toBytes 8 g.tags.toNat ++ toBytes 8 faults ++
    toBytes 4 grow ++ toBytes 4 regrp.toNat ++ toBytes 160 0

/-- A group area with the thread areas of its 32 lanes. -/
def State.groupImage (s : State) (key : Nat) : List Byte :=
  let g := s.group key
  s.groupArea key ++ (List.range 32).flatMap (fun l =>
    match s.memberAt g l with
    | some id => s.threadArea g.alloc id
    | none => toBytes 1280 0)

/-- The accumulator rows that a block's space-4 descriptors name, ascending (Table 26.4). -/
def accumulatorRows (b : Block) : List Nat :=
  (List.range 1024).filter (fun r => b.td.any (fun p =>
    let t := tileOf p.2
    decide (t.space = 4) && decide (t.base ≤ r) && decide (r < t.base + t.rows)))

/-- The buffer ranges of a block's active records: their address on a core and their length. -/
def recordRanges (b : Block) (core : Nat) : List (Nat × Nat) :=
  b.recs.map (fun p =>
    let r := recordFields p.2
    ((if r.weight then wbBase core else obBase core) + r.base, r.len))

/-- Bits as bytes, lowest first. -/
def bitBytes (l : List Bool) : List Byte :=
  (List.range ((l.length + 7) / 8)).map (fun i =>
    BitVec.ofNat 8 ((List.range 8).foldl (fun n j => if l.getD (8 * i + j) false then n + 2 ^ j else n) 0))

/-- The block save area (Table 26.4); of a block of several cores it holds the rows and the ranges of each in turn
(DESIGN CHOICE, log entry 96). -/
def State.blockArea (s : State) (id : Nat) : List Byte :=
  let b := s.block id
  let lo := scratchBase b.scratchCore + b.scratchOff
  let n := b.kernel.scratch
  let scratch := s.mem.readBytes lo n ++ bitBytes ((List.range (n / 4)).map (fun i => s.full.getD (lo + 4 * i) false))
  let rows := b.cores.flatMap (fun core => (accumulatorRows b).flatMap (fun r =>
    s.mem.readBytes (accBase core + 512 * r) 512 ++ toBytes 4 (s.sat.getD (core * 1024 + r) false).toNat))
  let bufs := b.cores.flatMap (fun core => (recordRanges b core).flatMap (fun p => s.mem.readBytes p.1 p.2))
  let words := fun (l : List Word) => fitBytes 16 (l.flatMap (fun w => toBytes 4 w.toNat))
  let cvs := (List.range 16).flatMap (fun v =>
    let cv := b.conv v
    toBytes 16 cv.groups.toNat ++ toBytes 4 cv.lanes.toNat ++ toBytes 4 (s.cvBits id v s.nextOp cv).toNat ++
      toBytes 4 cv.packed.toNat ++ toBytes 4 cv.modes)
  let recs := (List.range 16).flatMap (fun r => match b.recs.get? r with
    | some l => words (l.set 2 ((l.getD 2 0) ||| 0x80))
    | none => toBytes 16 0)
  fitBytes 64 (toBytes 4 b.kernel.tiles ++ toBytes 4 n ++ toBytes 4 0x600 ++ toBytes 4 (0x600 + scratch.length) ++
      toBytes 4 (0x600 + scratch.length + rows.length)) ++
    (List.range 32).flatMap (fun t => words (b.td.getD t [])) ++ cvs ++ recs ++ toBytes 192 0 ++ scratch ++ rows ++ bufs

/-- The save region of a block: group areas of 2 ^ 16 bytes by group index, then the block area (DESIGN CHOICE, log entry 24). -/
def State.saveBase (s : State) (b : Nat) : Nat := (s.launches.getD (s.block b).launch {}).save.toNat + 2 ^ 26 * b

/-- Bytes written at virtual addresses of a partition, in pieces of 64; a piece that has no page is left out. -/
def State.writeArea (s : State) (part : Nat) (va : Nat) (l : List Byte) : State :=
  (List.range ((l.length + 63) / 64)).foldl (fun s i =>
    match s.translate part (va + 64 * i) ⟨false, false, false⟩ with
    | .ok pa _ _ => s.pokeMem pa ((l.drop (64 * i)).take 64)
    | _ => s) s

/-- What n bytes at virtual addresses of a partition hold now. -/
def State.readArea (s : State) (part : Nat) (va n : Nat) : List Byte :=
  (List.range ((n + 63) / 64)).flatMap (fun i =>
    match s.translate part (va + 64 * i) ⟨false, false, false⟩ with
    | .ok pa _ _ => s.mem.readBytes pa 64
    | _ => [])

/-! ## Requests -/

/-- The groups that are saved and restored together with one (R239): those of its gang or its class C launch, those of
its block under group class C, or itself. -/
def State.unitKeys (s : State) (key : Nat) : List Nat :=
  let g := s.group key
  let b := s.block g.block
  let q := s.launches.getD b.launch {}
  s.groups.keysWhere (fun k h =>
    let c := s.block h.block
    decide (k < 192 * 128 ∨ 2 ^ 20 ≤ k) &&
    (match q.gang with
     | some n => (s.launches.getD c.launch {}).gang == some n
     | none =>
       if q.kernel.bclass = 0 then decide (c.launch = b.launch)
       else if b.kernel.gclass = 0 then decide (h.block = g.block)
       else decide (k = key)))

/-- PREEMPTION_REQUEST (R239): cohorts of the unit stop at the end of their runs. -/
def execPreemptionRequest (core slot : Nat) (s : State) : Host.Outcome State Fault Refusal :=
  let key := groupKey core slot
  next (if core < 192 ∧ (s.groups.get? key).isSome then
      { s with groups := s.groups.mapKeys (s.unitKeys key) (fun g => { g with preempt := true }) }
    else s)

/-! ## Saving -/

/-- Nothing of a block is in flight (R239). -/
def State.blockQuiet (s : State) (b : Nat) : Bool :=
  !s.ops.any (fun p => decide (p.2.block = b)) &&
    !s.cores.any (fun c => c.2.channels.any (fun h => h.2.busy && decide ((s.ctx h.2.ctx).block = b)))

/-- A group may be saved: it was asked to, no run of it goes on, nothing is in flight, and no watchdog's trap is due, which
is taken first (R239, R243). -/
def State.groupQuiet (s : State) (key : Nat) : Bool :=
  let g := s.group key
  g.preempt && g.run.isNone && g.saved.isNone && s.blockQuiet g.block && !g.members.any (fun id => (s.barks id).isSome)

/-- A saved thread: a fault it waits for is discarded, and its word issues again (R240). -/
def Ctx.saved (c : Ctx) : Ctx :=
  match c.status with
  | .parked (.xfault _ _ _) _ _ _ => { c.land with status := .running }
  | _ => c.land

/-- A group is saved, its results landed first (R240, R241): it keeps its slot. -/
def State.saveGroup (s : State) (key : Nat) : State :=
  let g := s.group key
  let s := s.mapCtxs g.members Ctx.land
  let part := (s.launches.getD (s.block g.block).launch {}).part
  let va := s.saveBase g.block + 2 ^ 16 * g.index
  let image := s.groupImage key
  let s := s.writeArea part va image
  (s.updGroup key (fun g =>
    { g with saved := some (va, s.readArea part va image.length), pcSince := [], starved := [], since := none, preempt := false })).mapCtxs
    g.members Ctx.saved

/-- Where what a saved block held on its j-th core stands meanwhile: the scratchpad there, rows and buffers behind it. -/
def stashScratch (b j : Nat) : Nat := 2 ^ 64 + 2 ^ 26 * b + 2 ^ 24 * j

/-- A block's accumulator rows, saturation bits and buffer ranges moved between its j-th core and its stash. -/
def State.moveMatrix (s : State) (id core j : Nat) (out : Bool) : State :=
  let b := s.block id
  let at' := stashScratch id j
  let go := fun (s : State) (a n z : Nat) => if out then s.relocate a n z else s.relocate z n a
  let s := (accumulatorRows b).foldl (fun s r =>
    { go s (accBase core + 512 * r) 512 (at' + 2 ^ 22 + 512 * r) with
      sat := if out then s.sat.relocate (core * 1024 + r) 1 (at' + r) else s.sat.relocate (at' + r) 1 (core * 1024 + r) }) s
  (recordRanges b core).foldl (fun s p =>
    go s p.1 p.2 (at' + 2 ^ 23 + (p.1 - (windowBase + core * 0x4000000)) % 2 ^ 23)) s

/-- A block saved whole leaves its cores (R240): its groups stand under keys of their own, its scratchpad, accumulator
rows and buffers at addresses of their own (DESIGN CHOICE, log entry 96). -/
def State.saveBlock (s : State) (id : Nat) : State :=
  let b := s.block id
  let part := (s.launches.getD b.launch {}).part
  let va := s.saveBase id + 2 ^ 25
  let area := s.blockArea id
  let s := s.writeArea part va area
  let keys := s.groups.keysWhere (fun _ g => decide (g.block = id))
  let s := keys.foldl State.saveGroup s
  let s := s.updBlock id (fun b => { b with saved := some (va, s.readArea part va area.length) })
  let core := b.scratchCore
  let s := s.relocate (scratchBase core + b.scratchOff) b.kernel.scratch (stashScratch id 0)
  let s := (b.cores.zip (List.range b.cores.length)).foldl (fun s p => s.moveMatrix id p.1 p.2 true) s
  keys.foldl (fun s k =>
    let g := s.group k
    let stash := 2 ^ 40 * (id + 1) + g.index
    let s : State := { s with groups := (s.groups.erase k).set stash g }
    let s := s.mapCtxs g.members (fun c => { c with slot := stash - c.core * 128 })
    (s.updCore (k / 128) (fun c =>
      { c with growQ := c.growQ.filter (fun q => q.1 ≠ k), freeRows := c.freeRows + g.alloc })).considerQueue (k / 128)) s

/-- A block ends in a failure, so that its save is abandoned (R243). -/
def Block.failingNow (b : Block) : Bool := b.failed.isSome || b.failing.isSome

/-- CONTEXT_SAVE (R239 to R241): the unit of a group, once all of it is quiet and no block of it has failed. -/
def execContextSave (core slot : Nat) (s : State) : Host.Outcome State Fault Refusal :=
  let key := groupKey core slot
  let keys := s.unitKeys key
  let blocks := (keys.map (fun k => (s.group k).block)).eraseDups
  next (if core < 192 ∧ (s.groups.get? key).isSome ∧ keys.all s.groupQuiet ∧ !blocks.any (fun b => (s.block b).failingNow) then
      (blocks.foldl (fun s b =>
        if (s.block b).kernel.gclass = 0 then s.saveBlock b
        else (keys.filter (fun k => (s.group k).block = b)).foldl State.saveGroup s) s).sweepFaults
    else s)

/-! ## Restoring -/

/-- A wait that a written save area of a context may give it: in its core, or at a word of its block's scratchpad, so that
what is undefined stays confined to it (R241). -/
def State.freePark (s : State) (id n : Nat) : Park :=
  let b := s.block (s.ctx id).block
  let f := fun i => Config.freeNat (n + i)
  let words := b.kernel.scratch / 4
  let pa := scratchBase b.scratchCore + b.scratchOff + 4 * (f 1 % words)
  match f 0 % (if words = 0 then 5 else 10) with
  | 0 => .join (f 2 % 8)
  | 1 => .grow (4 * (f 2 % 64))
  | 2 => .regrp (Config.freeWord (n + 2))
  | 3 => .mwait (f 2 % 16)
  | 4 => .late (f 2)
  | 5 => .tagged pa (f 2 % 3) (f 3 % 256) (Config.freeWord (n + 4))
  | 6 => .waitv pa
  | 7 => .qlock pa (f 2 % 2 ^ 32)
  | 8 => .bar pa
  | _ => .ring pa (f 2 % 4) (f 3) (f 4 % 256) (f 5) (f 6)

/-- What a written save area makes of a context's state word, park address and watchdog count (Table 26.2): exited, running,
in its wait, or in another. -/
def State.freeStatus (s : State) (id n : Nat) : Status :=
  let count := Config.freeNat (n + 1) % 2 ^ 32
  match Config.freeNat n % 4, (s.ctx id).status with
  | 0, _ => .exited
  | 1, _ => .running
  | 2, .parked p a sc _ => .parked p a sc count
  | _, _ => .parked (s.freePark id (n + 2)) s.seq 0 count

/-- The signature of a context under a convergence register, as a written save area leaves it. -/
def Conv.resign (cv : Conv) (id : Nat) (on : Bool) : Conv :=
  { cv with signed := if on then (if cv.signed.contains id then cv.signed else cv.signed ++ [id]) else cv.signed.filter (· ≠ id) }

/-- A context whose save area was written: undefined (R241). -/
def State.scramble (s : State) (id alloc : Nat) : State :=
  let c := s.ctx id
  let s := s.updBlock c.block (fun b =>
    { b with cv := b.cv.map (fun p => (p.1, p.2.resign id (decide (Config.freeNat (s.free + 320 + p.1) % 2 = 1)))) })
  { s.updCtx id (fun _ =>
      { c with
        status := s.freeStatus id (s.free + 300)
        v := (List.range alloc).map (fun k => (k, Config.freeWord (s.free + k)))
        x := (List.range 4).map (fun k => (k, Config.freeWord (s.free + 256 + k)))
        path := (List.range 4).map (fun k => (k, Config.freeWord (s.free + 260 + k)))
        fmode := Config.freeWord (s.free + 264) &&& 7, fstat := Config.freeWord (s.free + 265) &&& 63
        fcause := Config.freeWord (s.free + 266), finfo := Config.freeWord (s.free + 267)
        pc := (Config.freeWord (s.free + 268) ++ Config.freeWord (s.free + 269)) <<< 2
        tpc := Config.freeWord (s.free + 270) ++ Config.freeWord (s.free + 271)
        faddr := Config.freeWord (s.free + 272) ++ Config.freeWord (s.free + 273)
        cycHi := Config.freeWord (s.free + 274)
        handler := decide (Config.freeNat (s.free + 275) % 2 = 1)
        hw := (List.range (Config.freeNat (s.free + 276) % 9)).map (fun k =>
          Config.freeWord (s.free + 277 + 2 * k) ++ Config.freeWord (s.free + 278 + 2 * k))
        spilled := Config.freeNat (s.free + 293) % 2 ^ 13
        deferred := if Config.freeNat (s.free + 294) % 2 = 1 then
            some ⟨BitVec.ofNat 10 (Config.freeNat (s.free + 295)),
              Config.freeWord (s.free + 296) ++ Config.freeWord (s.free + 297), Config.freeWord (s.free + 298)⟩
          else none
        due := decide (Config.freeNat (s.free + 294) % 2 = 1) }) with free := s.free + 340, seq := s.seq + 1 }

/-- The n bytes from an offset of a save area still hold what was saved. -/
def State.areaKept (s : State) (part : Nat) (saved : Option (Nat × List Byte)) (off n : Nat) : Bool :=
  match saved with
  | some (va, l) => ((s.readArea part va l.length).drop off).take n == (l.drop off).take n
  | none => true

/-- A group whose area was written: its rejoin masks, arrival sets, tags with their faults, allocation and grant request are
undefined (R241); it holds no rows but those it held. -/
def State.scrambleGroup (s : State) (key : Nat) : State :=
  let w := fun i => Config.freeWord (s.free + i)
  let f := fun i => Config.freeNat (s.free + i)
  let g := s.group key
  let alloc := if g.alloc < 4 then g.alloc else 4 * (1 + f 18 % (g.alloc / 4))
  let faults := (List.range 64).filterMap (fun i =>
    if f (20 + i) % 2 = 1 then some (i, (⟨0x303, w (100 + 3 * i) ++ w (101 + 3 * i), w (102 + 3 * i)⟩ : Trap)) else none)
  let queue := fun (l : List (Nat × Nat)) =>
    l.filter (fun q => q.1 ≠ key) ++ (if f 19 % 2 = 1 then [(key, 4 * (f 84 % 64))] else [])
  let s := s.updCore (key / 128) (fun c => { c with growQ := queue c.growQ, freeRows := c.freeRows + (g.alloc - alloc) })
  { s.updGroup key (fun g => { g with
      rj := (List.range 8).map (fun k => (k, w k)), arrived := (List.range 8).map (fun k => (k, w (8 + k)))
      tags := w 16 ++ w 17, tagFaults := faults, alloc := alloc }) with free := s.free + 300 }

/-- A convergence register restored from a written area; ids are the contexts of its block. -/
def Conv.scramble (c : Conv) (n : Nat) (ids : List Nat) : Conv :=
  { c with
    signed := ids.filter (fun id => Config.freeNat (n + 16 + id) % 2 = 1)
    declared := decide (Config.freeNat n % 2 = 1)
    groups := Config.freeWord (n + 1) ++ Config.freeWord (n + 2) ++ Config.freeWord (n + 3) ++ Config.freeWord (n + 4)
    lanes := Config.freeWord (n + 5), packed := Config.freeWord (n + 6), modes := Config.freeNat (n + 7) % 2 ^ 32
    drain := decide (Config.freeNat (n + 8) % 2 = 1) }

/-- A block whose area was written (R241): its scratchpad with the tags, its accumulator rows and buffer ranges, its
descriptors, convergence registers and records are undefined. -/
def State.scrambleBlock (s : State) (id : Nat) : State :=
  let b := s.block id
  let lo := scratchBase b.scratchCore + b.scratchOff
  let f := s.free + 4096
  let s := s.undefine lo b.kernel.scratch
  let s := b.cores.foldl (fun s core =>
    let s := (accumulatorRows b).foldl (fun s r =>
      { s.undefine (accBase core + 512 * r) 512 with
        sat := s.sat.set (core * 1024 + r) (decide (Config.freeNat (s.free + 512) % 2 = 1)) }) s
    (recordRanges b core).foldl (fun s p => s.undefine p.1 p.2) s) s
  let words := fun (i : Nat) (l : List Word) => (List.range l.length).map (fun k => Config.freeWord (f + 8 * i + k))
  { s.updBlock id (fun b => { b with
      td := b.td.map (fun p => (p.1, words p.1 p.2))
      cv := b.cv.map (fun p => (p.1, p.2.scramble (f + 2 ^ 21 + 2 ^ 32 * p.1) (s.blockCtxs id)))
      recs := b.recs.map (fun p => (p.1, words (256 + p.1) p.2)) }) with
    full := (List.range (b.kernel.scratch / 4)).foldl (fun m i =>
      m.set (lo + 4 * i) (decide (Config.freeNat (s.free + 8192 + i) % 2 = 1))) s.full
    free := s.free + 2 ^ 37 }

/-- A saved group resumes (R240): its threads in new runs or in their waits; a deferred error is taken at the first
word (R128). -/
def State.resumeGroup (s : State) (key : Nat) : State :=
  let g := s.group key
  let part := (s.launches.getD (s.block g.block).launch {}).part
  let whole := s.areaKept part g.saved 0 256
  let lost := g.members.filter (fun id => !s.areaKept part g.saved (256 + 1280 * (s.ctx id).lane) 1280)
  let s := (s.updGroup key (fun g =>
    { g with saved := none, preempt := false, lastPc := none, yielded := none, since := none, pcSince := [], starved := [] })).mapCtxs
    g.members (fun c => { c with due := c.deferred.isSome })
  lost.foldl (fun s id => s.scramble id g.alloc) (if whole then s else s.scrambleGroup key)

/-- Group masks of a convergence register after its block's groups have taken new slots. -/
def moveMask (m : BitVec 128) (l : List (Nat × Nat)) : BitVec 128 :=
  l.foldl (fun r p => if m.getLsbD p.1 then r ||| ((1 : BitVec 128) <<< p.2) else r) 0

/-- A block saved whole returns to cores that can enroll it (R240). -/
def State.restoreBlock (s : State) (id : Nat) (cores : List Nat) : State :=
  let b := s.block id
  let gs := s.groups.filter (fun g => decide (g.2.block = id))
  let slots := s.slotsFor cores gs.length
  let core := cores.headD 0
  let off := if core = b.scratchCore ∧ scratchFree (s.chargedTo core) b.kernel.scratch b.scratchOff then b.scratchOff
    else (s.scratchRoom core b.kernel.scratch).getD 0
  let part := (s.launches.getD b.launch {}).part
  let kept := s.areaKept part b.saved 0 (b.saved.elim 0 (·.2.length))
  let s := s.relocate (stashScratch id 0) b.kernel.scratch (scratchBase core + off)
  let s := (cores.zip (List.range cores.length)).foldl (fun s p => s.moveMatrix id p.1 p.2 false) s
  let pairs := gs.zip slots
  let renamed := fun (c : Nat) => (pairs.filter (fun p => p.1.2.core = c)).map (fun p => (p.1.2.slot, p.2.2))
  let s := pairs.foldl (fun (s : State) p =>
    let g : Group := { p.1.2 with core := p.2.1, slot := p.2.2 }
    let key := groupKey p.2.1 p.2.2
    let s : State := { s with groups := (s.groups.erase p.1.1).set key g }
    let s := s.mapCtxs g.members (fun c => { c with core := p.2.1, slot := p.2.2 })
    let asked := g.members.findSome? (fun id => match (s.ctx id).parkKind with | some (.grow n) => some n | _ => none)
    s.updCore p.2.1 (fun c =>
      { c with freeRows := c.freeRows - g.alloc, growQ := c.growQ ++ (asked.map (fun n => (key, n))).toList })) s
  let s := s.updBlock id (fun b =>
    { b with
      saved := none, cores := cores, scratchCore := core, scratchOff := off
      cv := b.cv.map (fun p => (p.1, { p.2 with
        core := ((b.cores.zip cores).find? (fun q => q.1 = p.2.core)).elim core (·.2)
        groups := moveMask p.2.groups (renamed p.2.core) })) })
  let s := if kept then s else s.scrambleBlock id
  let s := slots.foldl (fun s p => s.resumeGroup (groupKey p.1 p.2)) s
  cores.foldl (fun s c => (s.considerQueue c).judgeRegrp id c) s

/-- The saved blocks of a unit placed one after another, with the rows that their groups held (R240): each from a core given,
else from the core that it was saved on, else elsewhere; none where one finds no room. -/
def State.restoreBlocks (s : State) (toCore : Option Nat) : List Nat → Option State
  | [] => some s
  | b :: rest =>
    let k := s.block b
    let part := (s.launches.getD k.launch {}).part
    let at' := s.placeGroups k.launch k.kernel (s.groups.valuesWhere (fun g => decide (g.block = b)) |>.map (·.alloc))
    match (toCore.toList ++ [k.cores.headD 0] ++ s.coresOf part).findSome? (fun c =>
      if (s.coresOf part).contains c then at' c else none) with
    | some cores => (s.restoreBlock b cores).restoreBlocks toCore rest
    | none => none

/-- The unit of a saved group resumes as a whole (R239, R240): groups in their own slots, blocks on cores that can enroll
them; none where one finds no room. -/
def State.restoreUnit (s : State) (toCore : Option Nat) (key : Nat) : Option State :=
  let keys := (s.unitKeys key).filter (fun k => (s.group k).saved.isSome)
  let blocks := ((keys.filter (fun k => decide (2 ^ 40 ≤ k))).map (fun k => (s.group k).block)).eraseDups
  (s.restoreBlocks toCore blocks).map (fun s =>
    let alone := keys.filter (fun k => decide (k < 192 * 128))
    let s := alone.foldl State.resumeGroup s
    alone.foldl (fun s k => s.judgeRegrp (s.group k).block (k / 128)) s)

/-- The key of a saved group: its slot's, or that of a block saved from there. -/
def State.savedKey (s : State) (core slot : Nat) : Option Nat :=
  if ((s.groups.get? (groupKey core slot)).any (fun g => g.saved.isSome)) then some (groupKey core slot)
  else (s.groups.keysWhere (fun k g => decide (2 ^ 40 ≤ k) && decide (g.core = core) && decide (g.slot = slot))).head?

/-- CONTEXT_RESTORE (R239, R240): the unit of the group saved from a slot resumes; groups in their own slots, blocks from a
core on. -/
def execContextRestore (core slot toCore : Nat) (s : State) : Host.Outcome State Fault Refusal :=
  next (match s.savedKey core slot with
    | some key => (s.restoreUnit (some toCore) key).getD s
    | none => s)

/-! ## Partition swap -/

/-- Everything a core holds stands under other keys and addresses, or returns from there: from and to are the offsets
of the two places. -/
def State.moveCore (s : State) (core src dst : Nat) : State :=
  let win := windowBase + core * 0x4000000
  let s := s.relocate (src * 2 ^ 56 + win) 0x4000000 (dst * 2 ^ 56 + win)
  { s with
    sat := s.sat.relocate (src * 2 ^ 20 + core * 1024) 1024 (dst * 2 ^ 20 + core * 1024)
    groups := s.groups.relocate (src * 2 ^ 20 + core * 128) 128 (dst * 2 ^ 20 + core * 128)
    cores := s.cores.relocate (src * 2 ^ 20 + core) 1 (dst * 2 ^ 20 + core) }

/-- Everything of a partition's cores has been saved (R239). -/
def State.partSaved (s : State) (part : Nat) : Bool :=
  let cores := s.coresOf part
  s.groups.all (fun g => !cores.contains (g.1 / 128) || g.2.saved.isSome) &&
    !s.ops.any (fun p => cores.contains p.2.core)

/-- PARTITION_SWAP (R242): once the outgoing partition is saved, each core's state is exchanged with the incoming one's, but
for its cycle counter, and that resumes unit by unit: a unit that had been saved before and finds no room stays saved. -/
def execPartitionSwap (outgoing incoming : Nat) (s : State) : Host.Outcome State Fault Refusal :=
  next (match s.parts.get? outgoing, s.parts.get? incoming with
    | some p, some q =>
      if outgoing ≠ incoming ∧ !p.swapped ∧ q.swapped ∧ s.partSaved outgoing ∧ q.quads.all p.quads.contains then
        let cores := s.coresOf outgoing
        let clocks := cores.map (fun c => (c, s.now c))
        let s := cores.foldl (fun s c => s.moveCore c 0 (outgoing + 1)) s
        let s := (s.updPart outgoing (fun p => { p with swapped := true })).updPart incoming (fun p => { p with swapped := false })
        let back := s.coresOf incoming
        let s := back.foldl (fun s c => s.moveCore c (incoming + 1) 0) s
        let s := clocks.foldl (fun s p => s.updCore p.1 (fun k => { k with cycle := p.2 })) s
        let keys := s.groups.keysWhere (fun k g => g.saved.isSome && decide (k < 192 * 128 ∨ 2 ^ 40 ≤ k) &&
          decide ((s.launches.getD (s.block g.block).launch {}).part = incoming))
        keys.foldl (fun s k => if (s.group k).saved.isSome then (s.restoreUnit none k).getD s else s) s
      else s
    | _, _ => s)

/-! ## Starvation -/

/-- The starvation time of a group's launch (R18). -/
def State.starveTime (s : State) (g : Group) : Nat := (s.launches.getD (s.block g.block).launch {}).starve

/-- A PC of a group has been runnable and not issued for the starvation time (R18). -/
def Group.isStarved (g : Group) (now starve : Nat) (pc : DWord) : Bool :=
  g.pcSince.any (fun p => p.1 == pc && decide (p.2 + starve ≤ now))

/-- STARVATION_TIME_EXPIRY (R18): a PC of a class C group that has been runnable but not issued for the starvation time
goes to the front of the rotation. -/
def execStarvationTimeExpiry (core slot : Nat) (pc : DWord) (s : State) : Host.Outcome State Fault Refusal :=
  let g := s.group (groupKey core slot)
  next (if (s.block g.block).kernel.tclass = 0 ∧ !g.starved.contains pc ∧
      g.isStarved (s.now core) (s.starveTime g) pc then
      s.updGroup (groupKey core slot) (fun g => { g with starved := g.starved ++ [pc] })
    else s)

end Sys2Proof.Machine
end

