-- ==== Sys2Proof/Machine/Commands.lean ====
section
/-!
DEFINITION. User queues, hardware slots and their commands, and the admission of launches and gangs
(R35, R36, R196, R209, R212, R213, R244 to R250, R255).
Queue tables and control blocks lie at physical addresses; rings, descriptors and the addresses in commands are virtual
in the queue's partition (DESIGN CHOICE, log entry 25).
-/
namespace Sys2Proof.Machine

/-! ## Queues -/

/-- WRITE of a slot's queue (Table 28.1). -/
def State.queueWrite (s : State) (q : Slot) : Nat := s.deviceNat (q.qcb + 16) 4

/-- Word 2 of a queue control block. -/
def State.queueFlags (s : State) (q : Slot) : Nat := s.deviceNat (q.qcb + 8) 4

/-- The virtual address of the entry at READ (R244). -/
def State.entryAddress (s : State) (q : Slot) : Nat :=
  s.deviceNat q.qcb 8 + 64 * (q.read.toNat % 2 ^ (s.queueFlags q % 32))

/-- A slot that has a command to look at: mapped, or finishing one, enabled, not stopped, and its queue not empty. -/
def State.slotReady (s : State) (q : Slot) : Bool :=
  (q.map || q.running) && !q.stopped && decide (s.queueFlags q / 2 ^ 31 % 2 = 1) && decide (q.read.toNat ≠ s.queueWrite q)

/-- The sixteen words of the command at READ, of a slot that has one to look at. -/
def State.command (s : State) (slot : Nat) : Option (List Word) :=
  let q := s.slots.getD slot {}
  if s.slotReady q then s.virtWords q.part (s.entryAddress q) 16 else none

/-- The slot's entry at READ cannot be read. -/
def State.commandLost (s : State) (slot : Nat) : Bool := s.slotReady (s.slots.getD slot {}) && (s.command slot).isNone

/-- A launch of the slot's queue has not completed (R248). -/
def State.earlierLaunch (s : State) (q : Slot) : Bool :=
  s.launches.any (fun p => p.2.prop.isNone && decide (p.2.part = q.part) && decide (p.2.queue = q.queue) && p.2.slot.isSome)

/-- A 64-bit operand in two words of a command. -/
def operand64 (l : List Word) (i : Nat) : Nat := wordAt l i + wordAt l (i + 1) * 2 ^ 32

/-- The command breaks a limit (R248, Table 28.2). -/
def commandBad (l : List Word) : Bool :=
  let op := wordAt l 0 % 256
  decide (512 ≤ wordAt l 0) || wordAt l 1 != 0 ||
    (if op = 1 then decide (operand64 l 2 % 64 ≠ 0)
     else if op = 2 then decide (wordAt l 4 < 2 ∨ 16 < wordAt l 4)
     else if op = 3 then false
     else if op = 4 then decide (operand64 l 2 % 4 ≠ 0) || decide (1 < wordAt l 6)
     else if op = 5 then decide (operand64 l 2 % 4 ≠ 0)
     else true)

/-- What a step of a slot finds. -/
inductive Judged where
  /-- Nothing to do. -/
  | idle
  /-- A command that breaks a limit, or an entry that cannot be read. -/
  | bad
  | ok (l : List Word)
  deriving DecidableEq, Repr

/-- The command at READ, if it is op and may begin or go on; one that cannot be read is invalid
(DESIGN CHOICE, log entry 32). -/
def State.judge (s : State) (slot op : Nat) : Judged :=
  let q := s.slots.getD slot {}
  match s.command slot with
  | none => if s.commandLost slot then .bad else .idle
  | some l =>
    if commandBad l then .bad
    else if wordAt l 0 % 256 ≠ op then .idle
    else if wordAt l 0 / 256 % 2 = 1 ∧ !q.begun ∧ !q.running ∧ s.earlierLaunch q then .idle
    else .ok l

/-- The queue stops at an invalid command, which is logged, with an entry's address that gives an error response
(R11, R248). -/
def State.stopQueue (s : State) (slot : Nat) : State :=
  let q := s.slots.getD slot {}
  ((s.logReads q.part (s.entryAddress q) 16).updSlot slot (fun q => { q with stopped := true })).logError 0x391 255 q.part 0 (s.entryAddress q)

/-- A command begins: the queue's AGE returns to 0 (R247). -/
def State.beginCommand (s : State) (slot : Nat) : State := s.updSlot slot (fun q => { q with age := 0 })

/-- A command has finished its step: READ advances, and an unmapping that waited for it takes effect (R246, R248). -/
def State.endCommand (s : State) (slot : Nat) : State :=
  let s := s.updSlot slot (fun q => { q with read := q.read + 1, begun := false, running := false, result := none })
  let q := s.slots.getD slot {}
  if q.map then s.updSlot slot (fun q => { q with awake := decide (q.read.toNat ≠ s.queueWrite q) }) else s.writeBack slot

/-! ## Descriptors -/

/-- The fields of a launch descriptor (Table 28.3). -/
def descriptorLaunch (l : List Word) : Launch :=
  let a := fun i => BitVec.ofNat 64 (operand64 l i)
  let w10 := wordAt l 10
  let w11 := wordAt l 11
  { code := a 0, handler := a 2, kid := wordAt l 4 % 2 ^ 16, nbx := wordAt l 5, nby := wordAt l 6, nbz := wordAt l 7
    nthr := wordAt l 8, step := wordAt l 9 % 2 ^ 16
    starve := if w10 % 2 ^ 16 = 0 then 2048 else w10 % 2 ^ 16
    watchdog := w10 / 2 ^ 16 % 32, checking := decide (w10 / 2 ^ 24 % 2 = 1)
    spill := if w11 / 16 % 2 ^ 13 = 0 then 56 else w11 / 16 % 2 ^ 13 - 1
    replay := if w11 / 2 ^ 17 % 2 = 1 then w11 % 16 else 3
    consts := a 12, compl := a 14, save := a 20, restart := a 22, seed := a 24, stage := a 26 }

/-- A descriptor breaks a limit (Table 28.3). -/
def descriptorBad (l : List Word) (k : Kernel) : Bool :=
  let w10 := wordAt l 10
  let w11 := wordAt l 11
  let start := w10 % 2 ^ 16
  let dog := w10 / 2 ^ 16 % 32
  decide (operand64 l 0 % 64 ≠ 0) || decide (2 ^ 16 ≤ wordAt l 4) || decide (wordAt l 5 = 0) || decide (wordAt l 6 = 0) ||
    decide (wordAt l 7 = 0) || decide (wordAt l 8 = 0) || decide (16384 < wordAt l 8) || decide (2 ^ 16 ≤ wordAt l 9) ||
    decide (2 ^ 25 ≤ w10) || decide (w10 / 2 ^ 21 % 8 ≠ 0) || decide (0 < dog ∧ dog < 16) || decide (0 < start ∧ start < 256) ||
    decide (2 ^ 18 ≤ w11) || decide (4097 < w11 / 16 % 2 ^ 13) || decide (w11 / 2 ^ 17 % 2 = 0 ∧ w11 % 16 ≠ 0) ||
    decide (operand64 l 14 % 64 ≠ 0) ||
    (k.traced && (decide (wordAt l 18 % 2 ^ 16 = 0) || decide (32768 < wordAt l 18 % 2 ^ 16) ||
      decide (operand64 l 16 % 2 ^ 21 ≠ 0))) ||
    decide (2 ^ 16 ≤ wordAt l 18) || decide (operand64 l 28 % 8 ≠ 0) || decide (operand64 l 30 % 8 ≠ 0)

/-- A launch prepared from a descriptor, before anything is reserved for it; or how it is rejected, if a record can say
so. -/
inductive Prepared where
  | ok (q : Launch) (region size : Nat)
  | reject (q : Launch) (cause : BitVec 10)
  /-- The descriptor itself cannot be read. -/
  | none
  deriving DecidableEq, Repr

/-- The header addresses of a kernel's named rings, in the ring words of the constant block (R211). -/
def State.ringWords (s : State) (part consts : Nat) (k : Kernel) : Option (List DWord) :=
  (s.virtWords part (consts + 4 * 1008) (2 * k.rings.length)).map (fun l =>
    (List.range k.rings.length).map (fun i => BitVec.ofNat 64 (operand64 l (2 * i))))

/-- What admission reads for a descriptor: addresses, and words from each. -/
def State.descriptorReads (s : State) (part va : Nat) : List (Nat × Nat) :=
  match s.virtWords part va 32 with
  | none => [(va, 32)]
  | some l =>
    let q : Launch := { descriptorLaunch l with part := part }
    match s.kernelOf q q.kid with
    | none => []
    | some k =>
      (if operand64 l 28 = 0 then [] else [(operand64 l 28, 16)]) ++ (if operand64 l 30 = 0 then [] else [(operand64 l 30, 8)]) ++
        [(q.consts.toNat, k.consts), (q.consts.toNat + 4 * 1008, 2 * k.rings.length)]

/-- Those of the reads that give an error response are logged (R11). -/
def State.logDescriptor (s : State) (part va : Nat) : State :=
  (s.descriptorReads part va).foldl (fun s r => s.logReads part r.1 r.2) s

/-- The descriptor at an address read and checked, with the constants, arguments and ranges it names; a launch one of whose
words cannot be read is not admitted (R72, R211, R249, R250) (DESIGN CHOICE, log entry 103). -/
def State.prepare (s : State) (part va : Nat) : Prepared :=
  match s.virtWords part va 32 with
  | none => .none
  | some l =>
    let q : Launch := { descriptorLaunch l with part := part }
    match s.kernelOf q q.kid with
    | none => .reject q 0x391
    | some k =>
      let args := if operand64 l 28 = 0 then some (List.replicate 16 0) else s.virtWords part (operand64 l 28) 16
      let words := if operand64 l 30 = 0 then some [] else s.virtWords part (operand64 l 30) 8
      if descriptorBad l k || decide (va % 64 ≠ 0) then .reject q 0x391
      else
        match args, words.bind rangesOf, s.virtWords part q.consts.toNat k.consts, s.ringWords part q.consts.toNat k with
        | some a, some r, some w, some h =>
          .ok { q with kernel := k, args := a, ranges := r, constants := w, rings := h } (operand64 l 16)
            (wordAt l 18 % 2 ^ 16 * 2 ^ 21)
        | _, _, _, _ => .reject q 0x391

/-- A rejected launch's record: status 3 (R248, R249), at COMPL even where that breaks its alignment
(DESIGN CHOICE, log entry 30) (DEDUCED, log entry 31). -/
def State.rejectLaunch (s : State) (q : Launch) (cause : BitVec 10) (detail : Nat) : State :=
  s.writeRecord 0 q ⟨3, cause, 0, 0, 0, detail⟩

/-! ## Admission -/

/-- The lowest trace number free in a partition (R196). -/
def State.freeTrace (s : State) (part : Nat) : Option Nat :=
  (List.range 16).find? (fun n => (s.traces.get? (part * 16 + n)).isNone)

/-- A page of 64 KiB behind others, newest first, joined to one that ends where it starts. -/
def joinFrame (l : List (Nat × Nat)) (pa : Nat) : List (Nat × Nat) :=
  match l with
  | (a, n) :: t => if a + n = pa then (a, n + 2 ^ 16) :: t else (pa, 2 ^ 16) :: l
  | [] => [(pa, 2 ^ 16)]

/-- Where the pages of a region lie in HBM; none where one lies elsewhere or in the region of another trace, so that the
region cannot be reserved (R196) (DEDUCED, log entry 19). -/
def State.framesOf (s : State) (part region size : Nat) : Option (List (Nat × Nat)) :=
  (List.range (size / 2 ^ 16)).foldl (fun r i => r.bind (fun l =>
    match s.translate part (region + 2 ^ 16 * i) ⟨false, false, false⟩ with
    | .ok pa _ _ => if region + size ≤ 2 ^ 56 ∧ pa < 0x8000000000 then some (joinFrame l pa) else none
    | _ => none)) (some [])

/-- The number of the next launch (R250): above every live one's, a free one of those that the rule leaves (DESIGN CHOICE,
log entry 128). -/
def State.launchNumber (s : State) : Nat := Nat.max 1 s.launches.nextKey

/-- A block's groups are within the budget on every core it would take (R209). -/
def withinBudget (k : Kernel) (n : Nat) : Bool :=
  match k.budget with
  | some b => decide (Nat.min 128 (groupCount n) * k.regs ≤ b)
  | none => true

/-- A prepared launch admitted (R35, R36, R196, R209, R213): a class C launch and a gang's member with all its blocks; none
if it is rejected with CAPACITY. -/
def State.enroll (s : State) (q : Launch) (region size : Nat) : Option (State × Nat) :=
  let l := s.launchNumber
  let q : Launch := { q with order := s.seq, image := some s.mem }
  if !withinBudget q.kernel q.nthr then none
  else
    let base : Option State :=
      if q.kernel.traced then
        match s.freeTrace q.part, s.framesOf q.part region size with
        | some n, some fs =>
          let t : Trace := { launch := l, code := q.code, region := region, size := size, frames := fs }
          some { s with
            traces := s.traces.set (q.part * 16 + n) t
            launches := s.launches.set l { q with trace := some n }
            seq := s.seq + 1 }
        | _, _ => none
      else some { s with launches := s.launches.set l q, seq := s.seq + 1 }
    match base with
    | none => none
    | some s =>
      if q.reserved then (s.reserve l q.total 0).map (fun s => (s, l)) else some (s, l)

/-- LAUNCH (R248, R249): the command at READ of a slot; a command that breaks a limit stops the queue
(DESIGN CHOICE, log entry 32). -/
def execLaunch (slot : Nat) (s : State) : Host.Outcome State Fault Refusal :=
  let q := s.slots.getD slot {}
  next (match s.judge slot 1 with
    | .idle => s
    | .bad => s.stopQueue slot
    | .ok l =>
      let s := (s.beginCommand slot).logDescriptor q.part (operand64 l 2)
      match s.prepare q.part (operand64 l 2) with
      | .none => s.stopQueue slot
      | .reject r cause => (s.rejectLaunch r cause 0).endCommand slot
      | .ok r region size =>
        let r : Launch := { r with slot := some slot, queue := q.queue, prio := s.slotPriority (s.slots.getD slot {}) }
        match s.enroll r region size with
        | some p => p.1.endCommand slot
        | none => (s.rejectLaunch r 0x386 (s.dev * 2 ^ 32)).endCommand slot)

/-! ## Gangs -/

/-- Descriptors prepared, with their addresses' order kept. -/
def State.prepareAll (s : State) (part : Nat) (l : List Nat) : List Prepared := l.map (s.prepare part)

/-- The members admitted one after another, or none (R213). -/
def State.admitAll (s : State) (g : Nat) (held : Bool) : List (Launch × Nat × Nat) → Option (State × List Nat)
  | [] => some (s, [])
  | (q, region, size) :: rest =>
    match s.enroll { q with gang := some g, held := held } region size with
    | none => none
    | some (s, l) => (s.admitAll g held rest).map (fun p => (p.1, l :: p.2))

/-- The members whose descriptors can be admitted. -/
def goodMembers (l : List Prepared) : List (Launch × Nat × Nat) :=
  l.filterMap (fun p => match p with | .ok q r z => some (q, r, z) | _ => none)

/-- Every member's record says that the gang is rejected; one that broke a limit has a cause of its own (R213, R249). -/
def State.rejectAll (s : State) (l : List Prepared) (detail : Nat) : State :=
  l.foldl (fun s p => match p with
    | .ok q _ _ => s.rejectLaunch q 0x386 detail
    | .reject q cause => s.rejectLaunch q cause 0
    | .none => s) s

/-- The members an issuing device keeps and the devices of the others (Table 28.2). -/
def splitMembers (l : List (Nat × Nat)) : List Nat × List Nat :=
  ((l.filter (fun p => p.2 = 0)).map (·.1), ((l.filter (fun p => p.2 ≠ 0)).map (·.2)).eraseDups)

/-- The first of the named devices that refuses its reservation: one that cannot be reached, or by the answer it gives,
which no rule settles here (R255) (DESIGN CHOICE, log entry 33). -/
def State.refuser (s : State) (devices : List Nat) : Option Nat :=
  devices.find? (fun d => !s.peerReachable d || decide (Config.freeNat (s.free + d) % 2 = 1))

/-- The number of the next gang issued here, below those of other devices' gangs. -/
def State.localGang (s : State) : Nat := Store.nextKey (s.gangs.filter (fun p => decide (p.1 < 2 ^ 32)))

/-- GANG (R212, R213, R255): reserved whole, here and on the devices named, or rejected. -/
def execGang (slot : Nat) (s : State) : Host.Outcome State Fault Refusal :=
  let q := s.slots.getD slot {}
  next (match s.judge slot 2 with
    | .idle => s
    | .bad => s.stopQueue slot
    | .ok l =>
      let s := s.beginCommand slot
      let n := wordAt l 4 % 32
      let list := s.virtWords q.part (operand64 l 2) (2 * n)
      let devices := if wordAt l 5 = 0 then some (List.replicate n 0)
        else (s.virtWords q.part (wordAt l 5) ((n + 3) / 4)).map (fun ws => (List.range n).map (fun i =>
          (ws.getD (i / 4) 0).toNat / 2 ^ (8 * (i % 4)) % 256))
      let s := (s.logReads q.part (operand64 l 2) (2 * n)).logReads q.part (wordAt l 5) (if wordAt l 5 = 0 then 0 else (n + 3) / 4)
      match list, devices with
      | some ws, some ds =>
        let all := (List.range n).map (fun i => (operand64 ws (2 * i), ds.getD i 0))
        let (mine, others) := splitMembers all
        let s := all.foldl (fun s p => s.logDescriptor q.part p.1) s
        let ps := s.prepareAll q.part mine
        let every := s.prepareAll q.part (all.map (·.1))
        let tag := fun (p : Launch × Nat × Nat) =>
          ({ p.1 with slot := some slot, queue := q.queue, prio := s.slotPriority (s.slots.getD slot {}) }, p.2)
        let g := s.localGang
        let refused := s.refuser others
        let s : State := { s with free := s.free + 256 }
        if (goodMembers ps).length ≠ mine.length then (s.rejectAll every (s.dev * 2 ^ 32)).endCommand slot
        else
          match s.admitAll g false ((goodMembers ps).map tag), refused with
          | some (t, ms), none =>
            let x : Gang := { members := ms, remote := others, awaiting := others, started := true, slot := some slot }
            { t with gangs := t.gangs.set g x }.endCommand slot
          | none, none => (s.rejectAll every (s.dev * 2 ^ 32)).endCommand slot
          | _, some d => (s.rejectAll every (d * 2 ^ 32)).endCommand slot
      | _, _ => s.stopQueue slot)

/-- The key of a gang that another device issued (DEDUCED, log entry 34). -/
def remoteGang (device : BitVec 8) (gang : Nat) : Nat := (device.toNat + 1) * 2 ^ 32 + gang % 2 ^ 32

/-- A member admitted for another device's gang that has not started leaves with all it held; its record says that the
device refuses (R255). -/
def State.releaseMember (s : State) (refuser l : Nat) : State :=
  match s.launches.get? l with
  | none => s
  | some q =>
    let s := (s.blocks.keysWhere (fun _ b => decide (b.launch = l))).foldl State.releaseBlock s
    let s : State := match q.trace with
      | some n => { s with traces := s.traces.erase (q.part * 16 + n) }
      | none => s
    (s.rejectLaunch { q with trace := none } 0x386 (refuser * 2 ^ 32)).dropLaunch l q

/-- A reservation held for another device's gang is released, where it has not started (R255). -/
def State.releaseGang (s : State) (g refuser : Nat) : State :=
  match s.gangs.get? g with
  | some x => if x.started then s else x.members.foldl (fun s l => s.releaseMember refuser l) s
  | none => s

/-- GANG_RESERVATION (R213, R255): the members meant for this device are admitted whole and wait for the start, or are
refused; descriptors are addresses in a partition here. Where a device has refused, the reservation made before is
released (DEDUCED, log entry 34). -/
def execGangReservation (device : BitVec 8) (gang : Nat) (descriptors : List Nat) (what : Nat ⊕ BitVec 8) (s : State) :
    Host.Outcome State Fault Refusal :=
  let g := remoteGang device gang
  next (match what with
    | .inr refuser => s.releaseGang g refuser.toNat
    | .inl part =>
      let s := descriptors.foldl (fun s va => s.logDescriptor part va) s
      let ps := s.prepareAll part descriptors
      if (goodMembers ps).length ≠ descriptors.length ∨ (s.gangs.get? g).isSome then s.rejectAll ps (s.dev * 2 ^ 32)
      else
        match s.admitAll g true (goodMembers ps) with
        | some (s, ms) => { s with gangs := s.gangs.set g { members := ms, remote := [device.toNat] } }
        | none => s.rejectAll ps (s.dev * 2 ^ 32))

/-- GANG_START (R255): the members of a reserved gang may start; the acknowledgement goes out. -/
def execGangStart (device : BitVec 8) (gang : Nat) (s : State) : Host.Outcome State Fault Refusal :=
  let g := remoteGang device gang
  next (match s.gangs.get? g with
    | some x =>
      { s with
        gangs := s.gangs.set g { x with started := true }
        launches := s.launches.mapKeys x.members (fun q => { q with held := false }) }
    | none => s)

/-- GANG_START_ACK (R255): one that comes after the abort has begun is answered with an abort and changes nothing here. -/
def execGangStartAck (device : BitVec 8) (gang : Nat) (s : State) : Host.Outcome State Fault Refusal :=
  next { s with gangs := s.gangs.adjust gang (fun x =>
    if x.aborted then x else { x with awaiting := x.awaiting.filter (· ≠ device.toNat) }) }

/-- Every member here of a gang aborts, with a device in DETAIL (R255). -/
def State.abortMembers (s : State) (g device : Nat) : State :=
  let l := (s.gangs.getD g {}).members
  let s := { s with
    gangs := s.gangs.adjust g (fun x => { x with aborted := true })
    launches := s.launches.mapKeys l (fun q => { q with held := false }) }
  l.foldl (fun s m => s.endLaunch m ⟨2, 0x387, 0, 0, 0, device * 2 ^ 32⟩) s

/-- GANG_ACK_TIMEOUT (R255): a device that has not acknowledged the start makes every member abort, with that device in
DETAIL: those of a gang issued here, and those of another issuer's gang when its abort arrives, also as the answer to this
device's late acknowledgement. -/
def execGangAckTimeout (device : BitVec 8) (gang : Nat × Option (BitVec 8)) (s : State) :
    Host.Outcome State Fault Refusal :=
  next (match gang.2 with
    | some d => s.abortMembers (remoteGang d gang.1) device.toNat
    | none =>
      if (s.gangs.getD gang.1 {}).awaiting.contains device.toNat then s.abortMembers gang.1 device.toNat else s)

/-! ## The other commands -/

/-- PROP_COMMAND (R188, R248): the PROP begins, or has its result, which is written. -/
def execPropCommand (slot : Nat) (s : State) : Host.Outcome State Fault Refusal :=
  let q := s.slots.getD slot {}
  next (match s.judge slot 3 with
    | .idle => s
    | .bad => s.stopQueue slot
    | .ok l =>
      match q.running, q.result with
      | true, some w => (s.virtStore q.part (operand64 l 4) (toBytes 4 w.toNat)).endCommand slot
      | true, none => s
      | false, _ =>
        let s := s.beginCommand slot
        let k := q.part * 16 + wordAt l 2
        match if 15 < wordAt l 2 then none else s.traces.get? k with
        | none => (s.virtStore q.part (operand64 l 4) (toBytes 4 0xFFFFFFFF)).endCommand slot
        | some t =>
          if t.dead ∨ !t.done then (s.virtStore q.part (operand64 l 4) (toBytes 4 0xFFFFFFFF)).endCommand slot
          else
            ((s.updSlot slot (fun q => { q with running := true })).updTrace k (fun t =>
              { t with props := t.props ++ [⟨propSlotId slot, 0, s.mem, []⟩] })).stepProp k)

/-- The relation of a WAITW holds in what a read finds (Table 28.2); a word that cannot be read meets none
(DESIGN CHOICE, log entry 46). -/
def State.waitwHolds (s : State) (part : Nat) (l : List Word) : Bool :=
  match s.virtWord part (operand64 l 2) with
  | some w =>
    let equal := decide (w &&& l.getD 5 0 = l.getD 4 0)
    if wordAt l 6 % 2 = 0 then equal else !equal
  | none => false

/-- A WAITW reads its word. -/
def State.readWaitw (s : State) (slot : Nat) (l : List Word) : State :=
  let s := s.logReads (s.slots.getD slot {}).part (operand64 l 2) 1
  if s.waitwHolds (s.slots.getD slot {}).part l then s.endCommand slot
  else s.updSlot slot (fun q => { q with begun := true, awake := false })

/-- WAITW (R248): the command begins, or reads its word again after a write to it. -/
def execWaitw (slot : Nat) (s : State) : Host.Outcome State Fault Refusal :=
  let q := s.slots.getD slot {}
  next (match s.judge slot 4 with
    | .idle => s
    | .bad => s.stopQueue slot
    | .ok l =>
      if q.begun then if q.awake then s.readWaitw slot l else s
      else (s.beginCommand slot).readWaitw slot l)

/-- WAITW_POLL (R248): the read a waiting WAITW makes every microsecond. -/
def execWaitwPoll (slot : Nat) (s : State) : Host.Outcome State Fault Refusal :=
  next (match s.judge slot 4 with
    | .ok l => if (s.slots.getD slot {}).begun then s.readWaitw slot l else s
    | _ => s)

/-- SIGW (R248): the command begins, and once every earlier launch of the queue has completed, the value is stored as a
release at DEV scope; an unmapping waits for it (DEDUCED, log entry 59). -/
def execSigw (slot : Nat) (s : State) : Host.Outcome State Fault Refusal :=
  let q := s.slots.getD slot {}
  next (match s.judge slot 5 with
    | .idle => s
    | .bad => s.stopQueue slot
    | .ok l =>
      let s := if q.running then s else (s.beginCommand slot).updSlot slot (fun q => { q with running := true })
      if s.earlierLaunch q then s
      else (s.virtStore q.part (operand64 l 2) (toBytes 4 (wordAt l 4))).endCommand slot)

/-! ## Kicks, slots and ages -/

/-- KICK (R245): by a core's control block, or by the doorbell of a virtual function, which
sets the stewards' latches whatever it names (R157). -/
def execKick (byHost : Bool) (source : Nat) (queue : BitVec 16) (s : State) : Host.Outcome State Fault Refusal :=
  next (if byHost then if source = 0 then s else (s.kickQueue (source - 1) 255 queue.toNat).setLatches
    else s.kickQueue (s.partOfCore source) source queue.toNat)

/-- SLOT_MAP (R246). -/
def execSlotMap (slot : Nat) (s : State) : Host.Outcome State Fault Refusal := next (s.mapSlot slot)

/-- SLOT_UNMAP (R246). -/
def execSlotUnmap (slot : Nat) (s : State) : Host.Outcome State Fault Refusal := next (s.unmapSlot slot)

/-- QUEUE_AGE_TICK (R247): a millisecond passes for every mapped queue whose head command has not begun. -/
def execQueueAgeTick (s : State) : Host.Outcome State Fault Refusal :=
  next { s with slots := s.slots.map (fun (p : Nat × Slot) =>
    let q := p.2
    if q.map && !q.begun && !q.running && decide (q.read.toNat ≠ s.queueWrite q) then
      (p.1, { q with age := Nat.min 65280 (q.age + 1) })
    else p) }

end Sys2Proof.Machine
end

