-- ==== Sys2Proof/Machine/Approx.lean ====
section
/-!
DEFINITION. The approximated functions of class F (R124, Tables 13.1 and 13.2): every result is the exact value rounded
once to FP32 under RNE. Transcendental values are bounded in fixed point with 320 fraction bits; where both bounds round
alike that is the result, and where they do not, a free value stands (DESIGN CHOICE, log entry 14).
-/
namespace Sys2Proof.Machine

/-- Fraction bits of the fixed-point bounds. -/
def fixBits : Nat := 320

/-- The error allowed on either side of a fixed-point value, in units of its last bit: far above the truncations of the
series below, each of which makes fewer than 1,000 of them, scaled by less than 2^30. -/
def fixSlack : Nat := 2 ^ 60

/-- Product of two fixed-point numbers, truncated. -/
def fixMul (a b : Nat) : Nat := a * b / 2 ^ fixBits

/-- ln 2, as the sum of 1 / (k 2^k). -/
def fixLn2 : Nat := (List.range 330).foldl (fun s k => s + 2 ^ fixBits / ((k + 1) * 2 ^ (k + 1))) 0

/-- The arctangent of 1/n, by its series. -/
def fixAtanInv (n : Nat) : Nat :=
  let r := (List.range 240).foldl (fun (p : Nat × Nat × Nat) k =>
    let t := 2 ^ fixBits / n ^ (2 * k + 1) / (2 * k + 1)
    if k % 2 = 0 then (p.1 + t, p.2.1, 0) else (p.1, p.2.1 + t, 0)) (0, 0, 0)
  r.1 - r.2.1

/-- π, by Machin's formula. -/
def fixPi : Nat := 16 * fixAtanInv 5 - 4 * fixAtanInv 239

/-- e^y for a fixed-point y below 20. -/
def fixExp (y : Nat) : Nat :=
  ((List.range 260).foldl (fun (p : Nat × Nat) k =>
    let t := fixMul p.2 y / (k + 1)
    (p.1 + t, t)) (2 ^ fixBits, 2 ^ fixBits)).1

/-- ln z for a fixed-point z in [1, 2]. -/
def fixLn (z : Nat) : Nat :=
  let u := (z - 2 ^ fixBits) * 2 ^ fixBits / (z + 2 ^ fixBits)
  let u2 := fixMul u u
  2 * ((List.range 110).foldl (fun (p : Nat × Nat) k => (p.1 + p.2 / (2 * k + 1), fixMul p.2 u2)) (0, u)).1

/-- sin t for a fixed-point t in [0, π/2]. -/
def fixSin (t : Nat) : Nat :=
  let t2 := fixMul t t
  let r := (List.range 60).foldl (fun (p : Nat × Nat × Nat) k =>
    let nt := fixMul p.2.2 t2 / ((2 * k + 2) * (2 * k + 3))
    if k % 2 = 0 then (p.1 + p.2.2, p.2.1, nt) else (p.1, p.2.1 + p.2.2, nt)) (0, 0, t)
  r.1 - r.2.1

/-- A result under RNE with the flags of Table 13.2 only: UF when it is flushed (R124). -/
def approxOut (md : FMode) (neg : Bool) (m : Nat) (e : Int) : FRes :=
  if m = 0 then ⟨fp32.zero neg, 0⟩
  else if md.ftz && isTiny fp32 0 neg m e then ⟨fp32.zero neg, flagUF⟩
  else ⟨(roundTo fp32 rne neg m e).bits, 0⟩

/-- A bounded value ±a × 2^e: its rounding where both bounds agree, else the free value of the function. -/
def approxBounded (fn : Nat) (b : Word) (md : FMode) (neg : Bool) (a : Nat) (e : Int) : FRes :=
  let lo := approxOut md neg (a - fixSlack) e
  let hi := approxOut md neg (a + fixSlack) e
  if lo = hi then lo else ⟨(Config.approx (2 * fn + md.ftz.toNat) b).toNat, lo.flags ||| hi.flags⟩

/-- m × 2^e as a fixed-point number, for a value it holds exactly or truncates. -/
def toFix (m : Nat) (e : Int) : Nat := (roundAt 1 false m e (-(fixBits : Int))).1

/-- FRCP. -/
def fRcp (md : FMode) (b : Word) : FRes :=
  match fp32.read md b.toNat with
  | .nan => ⟨fp32.nan, 0⟩
  | .inf n => ⟨fp32.zero n, 0⟩
  | .fin n m e =>
    if m = 0 then ⟨fp32.inf n, flagDZ⟩
    else if leadExp m e < -128 ∨ (leadExp m e = -128 ∧ m = 2 ^ Nat.log2 m) then ⟨fp32.inf n, flagOF⟩
    else
      let q := divBits 23 1 m
      approxOut md n q.1 (q.2 - e)

/-- FRSQ. -/
def fRsq (md : FMode) (b : Word) : FRes :=
  match fp32.read md b.toNat with
  | .nan => ⟨fp32.nan, 0⟩
  | .inf n => if n then ⟨fp32.nan, flagNV⟩ else ⟨fp32.zero false, 0⟩
  | .fin n m e =>
    if m = 0 then ⟨fp32.inf n, flagDZ⟩
    else if n then ⟨fp32.nan, flagNV⟩
    else
      let m' := if e % 2 = 0 then m else 2 * m
      let e' := if e % 2 = 0 then e else e - 1
      let num := 2 ^ 120 / m'
      let r := isqrt num
      let exact := decide (r * r * m' = 2 ^ 120)
      approxOut md false (2 * r + (if exact then 0 else 1)) (-60 - 1 - e' / 2)

/-- FEX2. -/
def fEx2 (md : FMode) (b : Word) : FRes :=
  match fp32.read md b.toNat with
  | .nan => ⟨fp32.nan, 0⟩
  | .inf n => if n then ⟨fp32.zero false, 0⟩ else ⟨fp32.inf false, 0⟩
  | .fin n m e =>
    if m = 0 then ⟨0x3F800000, 0⟩
    else
      let fl : Int := if 0 ≤ e then signed n m * 2 ^ e.toNat else signed n m / 2 ^ (-e).toNat
      if 128 ≤ fl then ⟨fp32.inf false, flagOF⟩
      else if fl < -150 then ⟨fp32.zero false, 0⟩
      else
        let whole := decide (0 ≤ e) || decide (m % 2 ^ (-e).toNat = 0)
        if whole then approxOut md false 1 fl
        else
          -- the fraction x − floor x, exactly representable in fixed point down to 2^−149
          let fr := (signed n m * 2 ^ (fixBits - (-e).toNat) - fl * 2 ^ fixBits).toNat
          approxBounded 0 b md false (fixExp (fixMul fr fixLn2)) (fl - fixBits)

/-- FLG2. -/
def fLg2 (md : FMode) (b : Word) : FRes :=
  match fp32.read md b.toNat with
  | .nan => ⟨fp32.nan, 0⟩
  | .inf n => if n then ⟨fp32.nan, flagNV⟩ else ⟨fp32.inf false, 0⟩
  | .fin n m e =>
    if m = 0 then ⟨fp32.inf true, flagDZ⟩
    else if n then ⟨fp32.nan, flagNV⟩
    else
      let k := leadExp m e
      let z := m * 2 ^ (fixBits - Nat.log2 m)
      if z = 2 ^ fixBits then
        if k = 0 then ⟨0, 0⟩ else ⟨(roundTo fp32 rne (decide (k < 0)) k.natAbs 0).bits, 0⟩
      else
        let f := fixLn z * 2 ^ fixBits / fixLn2
        let t := k * 2 ^ fixBits + f
        approxBounded 1 b md (decide (t < 0)) t.natAbs (-(fixBits : Int))

/-- sin(π r) for the fixed-point r in [0, 1/2], with its sign. -/
def sinPi (fn : Nat) (b : Word) (md : FMode) (neg : Bool) (r : Nat) : FRes :=
  approxBounded fn b md neg (fixSin (fixMul r fixPi)) (-(fixBits : Int))

/-- FSINP. -/
def fSinp (md : FMode) (b : Word) : FRes :=
  match fp32.read md b.toNat with
  | .nan => ⟨fp32.nan, 0⟩
  | .inf _ => ⟨fp32.nan, flagNV⟩
  | .fin n m e =>
    if m = 0 then ⟨fp32.zero n, 0⟩
    else if 0 ≤ e ∨ m % 2 ^ (-e).toNat = 0 then ⟨fp32.zero n, 0⟩
    else
      -- |x| modulo 2 and its place in the half turn
      let r := toFix m e % (2 * 2 ^ fixBits)
      let half := 2 ^ (fixBits - 1)
      let neg := n != decide (2 ^ fixBits ≤ r)
      let h := r % 2 ^ fixBits
      if h = half then ⟨(if neg then 0xBF800000 else 0x3F800000), 0⟩
      else sinPi 2 b md neg (if h < half then h else 2 ^ fixBits - h)

/-- FCOSP. -/
def fCosp (md : FMode) (b : Word) : FRes :=
  match fp32.read md b.toNat with
  | .nan => ⟨fp32.nan, 0⟩
  | .inf _ => ⟨fp32.nan, flagNV⟩
  | .fin _ m e =>
    let r := toFix m e % (2 * 2 ^ fixBits)
    let half := 2 ^ (fixBits - 1)
    if m = 0 then ⟨0x3F800000, 0⟩
    else if 1 ≤ e then ⟨0x3F800000, 0⟩
    else if 0 ≤ e ∨ m % 2 ^ (-e).toNat = 0 then
      ⟨(if r = 0 then 0x3F800000 else 0xBF800000), 0⟩
    else
      -- cos(πr) = sin(π(1/2 − r)), by symmetry in the turn
      let h := if r ≤ 2 ^ fixBits then r else 2 * 2 ^ fixBits - r
      if h = half then ⟨0, 0⟩
      else if h < half then sinPi 3 b md false (half - h)
      else sinPi 3 b md true (h - half)

/-- FTANH. -/
def fTanh (md : FMode) (b : Word) : FRes :=
  match fp32.read md b.toNat with
  | .nan => ⟨fp32.nan, 0⟩
  | .inf n => ⟨(if n then 0xBF800000 else 0x3F800000), 0⟩
  | .fin n m e =>
    if m = 0 then ⟨fp32.zero n, 0⟩
    else if leadExp m e < -12 then ⟨fp32.readBits md b.toNat, 0⟩
    else if fLess (.fin false m e) (.fin false 9 0) then
      let y := fixExp (2 * toFix m e)
      approxBounded 4 b md n ((y - 2 ^ fixBits) * 2 ^ fixBits / (y + 2 ^ fixBits)) (-(fixBits : Int))
    else ⟨(if n then 0xBF800000 else 0x3F800000), 0⟩

end Sys2Proof.Machine
end

