-- ==== Sys2Proof/Machine/FloatWords.lean ====
section
/-!
DEFINITION. The words of class F: arithmetic, compares, approximated functions, conversions and NQ4 elements
(R118 to R127).
-/
namespace Sys2Proof.Machine

/-- A register as an operand read as float32 (R118). -/
def in32 (md : FMode) (w : Word) : FVal := fp32.read md w.toNat
/-- A pair as an operand read as float64. -/
def in64 (md : FMode) (w : DWord) : FVal := fp64.read md w.toNat

/-- A fixed-latency word of class F that writes one register: f gives the result and the flags it raises. -/
def float1 (s : State) (i : Instr) (d : RegField) (f : FMode → Nat → Ctx → FRes) : Host.Outcome State Fault Refusal :=
  next (threadWord s (wordInfo i) noneBusy (fun s is c =>
    let now := s.now is.core
    let r := f (c.mode now) now c
    (c.wr now (wordInfo i).lat d 0 (BitVec.ofNat 32 r.bits)).raise now (wordInfo i).lat r.flags))

/-- The same with a pair written. -/
def float2 (s : State) (i : Instr) (d : RegField) (f : FMode → Nat → Ctx → FRes) : Host.Outcome State Fault Refusal :=
  next (threadWord s (wordInfo i) noneBusy (fun s is c =>
    let now := s.now is.core
    let r := f (c.mode now) now c
    (c.wrPair now (wordInfo i).lat d (BitVec.ofNat 64 r.bits)).raise now (wordInfo i).lat r.flags))

/-- A variable-latency word of class F that writes one register (R118). -/
def floatX1 (s : State) (i : Instr) (d : RegField) (f : FMode → Nat → Ctx → FRes) : Host.Outcome State Fault Refusal :=
  next (resultWord s (wordInfo i) d 1 (fun s is c =>
    let now := s.now is.core
    let r := f (c.mode now) now c
    ([BitVec.ofNat 32 r.bits], r.flags)))

/-- The same with a pair written. -/
def floatX2 (s : State) (i : Instr) (d : RegField) (f : FMode → Nat → Ctx → FRes) : Host.Outcome State Fault Refusal :=
  next (resultWord s (wordInfo i) d 2 (fun s is c =>
    let now := s.now is.core
    let r := f (c.mode now) now c
    ([BitVec.ofNat 32 r.bits, BitVec.ofNat 32 (r.bits / 2 ^ 32)], r.flags)))

/-- A result that raises no flag. -/
def quiet (n : Nat) : FRes := ⟨n, 0⟩

/-- The integer result of a conversion as a pattern of 32 bits. -/
def ofToInt (r : Int × BitVec 6) : FRes := ⟨(BitVec.ofInt 32 r.1).toNat, r.2⟩

/-- FADD (R119). -/
def execFadd (ctl : Ctl) (d a b : RegField) (s : State) : Host.Outcome State Fault Refusal :=
  float1 s (.fadd ctl d a b) d (fun md t c => fAdd fp32 md (in32 md (c.rd t a 0)) (in32 md (c.rd t b 0)))

/-- FSUB (R119). -/
def execFsub (ctl : Ctl) (d a b : RegField) (s : State) : Host.Outcome State Fault Refusal :=
  float1 s (.fsub ctl d a b) d (fun md t c => fAdd fp32 md (in32 md (c.rd t a 0)) (in32 md (c.rd t b 0)).neg)

/-- FMUL (R119). -/
def execFmul (ctl : Ctl) (d a b : RegField) (s : State) : Host.Outcome State Fault Refusal :=
  float1 s (.fmul ctl d a b) d (fun md t c => fMul fp32 md (in32 md (c.rd t a 0)) (in32 md (c.rd t b 0)))

/-- FFMA (R119, fused). -/
def execFfma (ctl : Ctl) (d a b : RegField) (s : State) : Host.Outcome State Fault Refusal :=
  float1 s (.ffma ctl d a b) d (fun md t c => fFma fp32 md (in32 md (c.rd t a 0)) (in32 md (c.rd t b 0)) (in32 md (c.rd t d 0)))

/-- FMIN (R120). -/
def execFmin (ctl : Ctl) (d a b : RegField) (s : State) : Host.Outcome State Fault Refusal :=
  float1 s (.fmin ctl d a b) d (fun md t c => quiet (fMinMax fp32 md false (c.rd t a 0).toNat (c.rd t b 0).toNat))

/-- FMAX (R120). -/
def execFmax (ctl : Ctl) (d a b : RegField) (s : State) : Host.Outcome State Fault Refusal :=
  float1 s (.fmax ctl d a b) d (fun md t c => quiet (fMinMax fp32 md true (c.rd t a 0).toNat (c.rd t b 0).toNat))

/-- FABS (R120: the bit pattern only). -/
def execFabs (ctl : Ctl) (d a : RegField) (s : State) : Host.Outcome State Fault Refusal :=
  float1 s (.fabs ctl d a) d (fun _ t c => quiet ((c.rd t a 0).toNat % 2 ^ 31))

/-- FNEG (R120: the bit pattern only). -/
def execFneg (ctl : Ctl) (d a : RegField) (s : State) : Host.Outcome State Fault Refusal :=
  float1 s (.fneg ctl d a) d (fun _ t c => quiet ((c.rd t a 0).toNat ^^^ 2 ^ 31))

/-- FCMPEQ (R121). -/
def execFcmpeq (ctl : Ctl) (d a b : RegField) (s : State) : Host.Outcome State Fault Refusal :=
  float1 s (.fcmpeq ctl d a b) d (fun md t c => quiet (fCompare fp32 md 0 (c.rd t a 0).toNat (c.rd t b 0).toNat).toNat)

/-- FCMPLT (R121). -/
def execFcmplt (ctl : Ctl) (d a b : RegField) (s : State) : Host.Outcome State Fault Refusal :=
  float1 s (.fcmplt ctl d a b) d (fun md t c => quiet (fCompare fp32 md 1 (c.rd t a 0).toNat (c.rd t b 0).toNat).toNat)

/-- FCMPLE (R121). -/
def execFcmple (ctl : Ctl) (d a b : RegField) (s : State) : Host.Outcome State Fault Refusal :=
  float1 s (.fcmple ctl d a b) d (fun md t c => quiet (fCompare fp32 md 2 (c.rd t a 0).toNat (c.rd t b 0).toNat).toNat)

/-- FCMPUN (R121). -/
def execFcmpun (ctl : Ctl) (d a b : RegField) (s : State) : Host.Outcome State Fault Refusal :=
  float1 s (.fcmpun ctl d a b) d (fun md t c => quiet (fCompare fp32 md 3 (c.rd t a 0).toNat (c.rd t b 0).toNat).toNat)

/-- FDIV (R122). -/
def execFdiv (ctl : Ctl) (d a b : RegField) (s : State) : Host.Outcome State Fault Refusal :=
  floatX1 s (.fdiv ctl d a b) d (fun md t c => fDiv fp32 md (in32 md (c.rd t a 0)) (in32 md (c.rd t b 0)))

/-- FSQRT (R122). -/
def execFsqrt (ctl : Ctl) (d a : RegField) (s : State) : Host.Outcome State Fault Refusal :=
  floatX1 s (.fsqrt ctl d a) d (fun md t c => fSqrt fp32 md (in32 md (c.rd t a 0)))

/-- DADD (R119, R123). -/
def execDadd (ctl : Ctl) (d a b : RegField) (s : State) : Host.Outcome State Fault Refusal :=
  float2 s (.dadd ctl d a b) d (fun md t c => fAdd fp64 md (in64 md (c.rdPair t a)) (in64 md (c.rdPair t b)))

/-- DSUB (R119, R123). -/
def execDsub (ctl : Ctl) (d a b : RegField) (s : State) : Host.Outcome State Fault Refusal :=
  float2 s (.dsub ctl d a b) d (fun md t c => fAdd fp64 md (in64 md (c.rdPair t a)) (in64 md (c.rdPair t b)).neg)

/-- DMUL (R119, R123). -/
def execDmul (ctl : Ctl) (d a b : RegField) (s : State) : Host.Outcome State Fault Refusal :=
  float2 s (.dmul ctl d a b) d (fun md t c => fMul fp64 md (in64 md (c.rdPair t a)) (in64 md (c.rdPair t b)))

/-- DFMA (R119, R123, fused). -/
def execDfma (ctl : Ctl) (d a b : RegField) (s : State) : Host.Outcome State Fault Refusal :=
  float2 s (.dfma ctl d a b) d (fun md t c => fFma fp64 md (in64 md (c.rdPair t a)) (in64 md (c.rdPair t b)) (in64 md (c.rdPair t d)))

/-- DMIN (R120, R123). -/
def execDmin (ctl : Ctl) (d a b : RegField) (s : State) : Host.Outcome State Fault Refusal :=
  float2 s (.dmin ctl d a b) d (fun md t c => quiet (fMinMax fp64 md false (c.rdPair t a).toNat (c.rdPair t b).toNat))

/-- DMAX (R120, R123). -/
def execDmax (ctl : Ctl) (d a b : RegField) (s : State) : Host.Outcome State Fault Refusal :=
  float2 s (.dmax ctl d a b) d (fun md t c => quiet (fMinMax fp64 md true (c.rdPair t a).toNat (c.rdPair t b).toNat))

/-- DABS (R120, R123: the bit pattern only). -/
def execDabs (ctl : Ctl) (d a : RegField) (s : State) : Host.Outcome State Fault Refusal :=
  float2 s (.dabs ctl d a) d (fun _ t c => quiet ((c.rdPair t a).toNat % 2 ^ 63))

/-- DNEG (R120, R123: the bit pattern only). -/
def execDneg (ctl : Ctl) (d a : RegField) (s : State) : Host.Outcome State Fault Refusal :=
  float2 s (.dneg ctl d a) d (fun _ t c => quiet ((c.rdPair t a).toNat ^^^ 2 ^ 63))

/-- DCMPEQ (R121, R123). -/
def execDcmpeq (ctl : Ctl) (d a b : RegField) (s : State) : Host.Outcome State Fault Refusal :=
  float1 s (.dcmpeq ctl d a b) d (fun md t c => quiet (fCompare fp64 md 0 (c.rdPair t a).toNat (c.rdPair t b).toNat).toNat)

/-- DCMPLT (R121, R123). -/
def execDcmplt (ctl : Ctl) (d a b : RegField) (s : State) : Host.Outcome State Fault Refusal :=
  float1 s (.dcmplt ctl d a b) d (fun md t c => quiet (fCompare fp64 md 1 (c.rdPair t a).toNat (c.rdPair t b).toNat).toNat)

/-- DCMPLE (R121, R123). -/
def execDcmple (ctl : Ctl) (d a b : RegField) (s : State) : Host.Outcome State Fault Refusal :=
  float1 s (.dcmple ctl d a b) d (fun md t c => quiet (fCompare fp64 md 2 (c.rdPair t a).toNat (c.rdPair t b).toNat).toNat)

/-- DCMPUN (R121, R123). -/
def execDcmpun (ctl : Ctl) (d a b : RegField) (s : State) : Host.Outcome State Fault Refusal :=
  float1 s (.dcmpun ctl d a b) d (fun md t c => quiet (fCompare fp64 md 3 (c.rdPair t a).toNat (c.rdPair t b).toNat).toNat)

/-- DDIV (R122, R123). -/
def execDdiv (ctl : Ctl) (d a b : RegField) (s : State) : Host.Outcome State Fault Refusal :=
  floatX2 s (.ddiv ctl d a b) d (fun md t c => fDiv fp64 md (in64 md (c.rdPair t a)) (in64 md (c.rdPair t b)))

/-- DSQRT (R122, R123). -/
def execDsqrt (ctl : Ctl) (d a : RegField) (s : State) : Host.Outcome State Fault Refusal :=
  floatX2 s (.dsqrt ctl d a) d (fun md t c => fSqrt fp64 md (in64 md (c.rdPair t a)))

/-- FRCP (R124). -/
def execFrcp (ctl : Ctl) (d a : RegField) (s : State) : Host.Outcome State Fault Refusal :=
  floatX1 s (.frcp ctl d a) d (fun md t c => fRcp md (c.rd t a 0))

/-- FRSQ (R124). -/
def execFrsq (ctl : Ctl) (d a : RegField) (s : State) : Host.Outcome State Fault Refusal :=
  floatX1 s (.frsq ctl d a) d (fun md t c => fRsq md (c.rd t a 0))

/-- FEX2 (R124). -/
def execFex2 (ctl : Ctl) (d a : RegField) (s : State) : Host.Outcome State Fault Refusal :=
  floatX1 s (.fex2 ctl d a) d (fun md t c => fEx2 md (c.rd t a 0))

/-- FLG2 (R124). -/
def execFlg2 (ctl : Ctl) (d a : RegField) (s : State) : Host.Outcome State Fault Refusal :=
  floatX1 s (.flg2 ctl d a) d (fun md t c => fLg2 md (c.rd t a 0))

/-- FSINP (R124). -/
def execFsinp (ctl : Ctl) (d a : RegField) (s : State) : Host.Outcome State Fault Refusal :=
  floatX1 s (.fsinp ctl d a) d (fun md t c => fSinp md (c.rd t a 0))

/-- FCOSP (R124). -/
def execFcosp (ctl : Ctl) (d a : RegField) (s : State) : Host.Outcome State Fault Refusal :=
  floatX1 s (.fcosp ctl d a) d (fun md t c => fCosp md (c.rd t a 0))

/-- FTANH (R124). -/
def execFtanh (ctl : Ctl) (d a : RegField) (s : State) : Host.Outcome State Fault Refusal :=
  floatX1 s (.ftanh ctl d a) d (fun md t c => fTanh md (c.rd t a 0))

/-- CVTIF (R44, R125). -/
def execCvtif (ctl : Ctl) (d a : RegField) (s : State) : Host.Outcome State Fault Refusal :=
  float1 s (.cvtif ctl d a) d (fun md t c => fOfInt fp32 md (c.rd t a 0).toInt)

/-- CVTUF (R44, R125). -/
def execCvtuf (ctl : Ctl) (d a : RegField) (s : State) : Host.Outcome State Fault Refusal :=
  float1 s (.cvtuf ctl d a) d (fun md t c => fOfInt fp32 md (c.rd t a 0).toNat)

/-- CVTFI (R44, R125). -/
def execCvtfi (ctl : Ctl) (d a : RegField) (s : State) : Host.Outcome State Fault Refusal :=
  float1 s (.cvtfi ctl d a) d (fun md t c => ofToInt (fToInt (-2 ^ 31) (2 ^ 31 - 1) (in32 md (c.rd t a 0))))

/-- CVTFU (R44, R125). -/
def execCvtfu (ctl : Ctl) (d a : RegField) (s : State) : Host.Outcome State Fault Refusal :=
  float1 s (.cvtfu ctl d a) d (fun md t c => ofToInt (fToInt 0 (2 ^ 32 - 1) (in32 md (c.rd t a 0))))

/-- CVTFD (R44, R125: exact). -/
def execCvtfd (ctl : Ctl) (d a : RegField) (s : State) : Host.Outcome State Fault Refusal :=
  float2 s (.cvtfd ctl d a) d (fun md t c => fConvert fp64 rne (in32 md (c.rd t a 0)))

/-- CVTDF (R44, R125). -/
def execCvtdf (ctl : Ctl) (d a : RegField) (s : State) : Host.Outcome State Fault Refusal :=
  float1 s (.cvtdf ctl d a) d (fun md t c => fConvert fp32 md (in64 md (c.rdPair t a)))

/-- CVTID (R44, R125: exact). -/
def execCvtid (ctl : Ctl) (d a : RegField) (s : State) : Host.Outcome State Fault Refusal :=
  float2 s (.cvtid ctl d a) d (fun _ t c => fOfInt fp64 rne (c.rd t a 0).toInt)

/-- CVTDI (R44, R125). -/
def execCvtdi (ctl : Ctl) (d a : RegField) (s : State) : Host.Outcome State Fault Refusal :=
  float1 s (.cvtdi ctl d a) d (fun md t c => ofToInt (fToInt (-2 ^ 31) (2 ^ 31 - 1) (in64 md (c.rdPair t a))))

/-- CVTFH (R44, R125: narrow results are never flushed). -/
def execCvtfh (ctl : Ctl) (d a : RegField) (s : State) : Host.Outcome State Fault Refusal :=
  float1 s (.cvtfh ctl d a) d (fun md t c => fConvert fp16 ⟨md.rm, false⟩ (in32 md (c.rd t a 0)))

/-- CVTHF (R125: exact). -/
def execCvthf (ctl : Ctl) (d a : RegField) (s : State) : Host.Outcome State Fault Refusal :=
  float1 s (.cvthf ctl d a) d (fun _ t c => fConvert fp32 rne (fp16.unpack ((c.rd t a 0).toNat % 2 ^ 16)))

/-- CVTFB (R44, R125). -/
def execCvtfb (ctl : Ctl) (d a : RegField) (s : State) : Host.Outcome State Fault Refusal :=
  float1 s (.cvtfb ctl d a) d (fun md t c => fConvert bf16 ⟨md.rm, false⟩ (in32 md (c.rd t a 0)))

/-- CVTBF (R125: exact but for the flush under FTZ). -/
def execCvtbf (ctl : Ctl) (d a : RegField) (s : State) : Host.Outcome State Fault Refusal :=
  float1 s (.cvtbf ctl d a) d (fun md t c => fConvert fp32 md (bf16.unpack ((c.rd t a 0).toNat % 2 ^ 16)))

/-- CVTF8A (R40, R44, R125). -/
def execCvtf8a (ctl : Ctl) (d a : RegField) (s : State) : Host.Outcome State Fault Refusal :=
  float1 s (.cvtf8a ctl d a) d (fun md t c => fToE4m3 md.rm (c.rd t a 0).msb (in32 md (c.rd t a 0)))

/-- CVTF8B (R44, R125). -/
def execCvtf8b (ctl : Ctl) (d a : RegField) (s : State) : Host.Outcome State Fault Refusal :=
  float1 s (.cvtf8b ctl d a) d (fun md t c => fToE5m2 md.rm (in32 md (c.rd t a 0)))

/-- CVT8AF (R125: exact). -/
def execCvt8af (ctl : Ctl) (d a : RegField) (s : State) : Host.Outcome State Fault Refusal :=
  float1 s (.cvt8af ctl d a) d (fun _ t c => fConvert fp32 rne (e4m3.unpack ((c.rd t a 0).toNat % 2 ^ 8)))

/-- CVT8BF (R125: exact). -/
def execCvt8bf (ctl : Ctl) (d a : RegField) (s : State) : Host.Outcome State Fault Refusal :=
  float1 s (.cvt8bf ctl d a) d (fun _ t c => fConvert fp32 rne (e5m2.unpack ((c.rd t a 0).toNat % 2 ^ 8)))

/-- NQDEC (R126: the exact block product). -/
def execNqdec (ctl : Ctl) (d a : RegField) (s : State) : Host.Outcome State Fault Refusal :=
  float1 s (.nqdec ctl d a) d (fun _ t c => quiet (fConvert fp32 rne (nqFactor ((c.rd t a 0).toNat % 16) ((c.rd t a 0).toNat / 256 % 256))).bits)

/-- NQENC (R127). -/
def execNqenc (ctl : Ctl) (d a : RegField) (s : State) : Host.Outcome State Fault Refusal :=
  float1 s (.nqenc ctl d a) d (fun md t c => ⟨(nqEncode (in32 md (c.rd t a 0))).1, (nqEncode (in32 md (c.rd t a 0))).2⟩)

end Sys2Proof.Machine
end

