-- ==== Sys2Proof/Machine/GroupOps.lean ====
section
/-!
DEFINITION. The group operations over the participant set P: SHFL, BALLOT, MATCH, COMPACT, GREDADD and GSCAN
(R114 to R117).
-/
namespace Sys2Proof.Machine

/-- A word that exchanges values among P: f gives a participant's result from the values held before (R114). -/
def groupWord (s : State) (i : Instr) (d : RegField) (f : State → Nat → List Nat → Nat → Word) :
    Host.Outcome State Fault Refusal :=
  next (onceWord s (wordInfo i) noneBusy (fun s is ids =>
    let now := s.now is.core
    .next (ids.foldl (fun t id => t.updCtx id (fun c => c.wr now (wordInfo i).lat d 0 (f s now ids id))) s) ids))

/-- Register field r in a participant. -/
def State.val (s : State) (now : Nat) (r : RegField) (id : Nat) : Word := (s.ctx id).rd now r 0

/-- The sum of 2 to the lane over the participants that pass a test. -/
def State.laneMask (s : State) (ids : List Nat) (q : Nat → Bool) : Word :=
  (ids.filter q).foldl (fun m id => m ||| (1 : Word) <<< (s.ctx id).lane) 0

/-- SHFL (R115). -/
def execShfl (ctl : Ctl) (d a b : RegField) (s : State) : Host.Outcome State Fault Refusal :=
  groupWord s (.shfl ctl d a b) d (fun s now ids id =>
    match ids.find? (fun u => (s.ctx u).lane = (s.val now b id).toNat) with
    | some u => s.val now a u
    | none => s.val now a id)

/-- BALLOT (R115). -/
def execBallot (ctl : Ctl) (d a : RegField) (s : State) : Host.Outcome State Fault Refusal :=
  groupWord s (.ballot ctl d a) d (fun s now ids _ => s.laneMask ids (fun u => s.val now a u != 0))

/-- MATCH (R115). -/
def execMatchMask (ctl : Ctl) (d a : RegField) (s : State) : Host.Outcome State Fault Refusal :=
  groupWord s (.matchMask ctl d a) d (fun s now ids id => s.laneMask ids (fun u => s.val now a u == s.val now a id))

/-- COMPACT (R116): the rank in a stable sort by key, plus the base. -/
def execCompact (ctl : Ctl) (d a b : RegField) (s : State) : Host.Outcome State Fault Refusal :=
  groupWord s (.compact ctl d a b) d (fun s now ids id =>
    let k := s.val now a id
    let n := (ids.filter (fun u =>
      (s.val now a u).ult k || (s.val now a u == k && decide ((s.ctx u).lane < (s.ctx id).lane)))).length
    s.val now b id + BitVec.ofNat 32 n)

/-- The segmented scan of a list of values, each with whether it heads a segment, in lane order: each element's sum and
the number of its segment (R117). -/
def scanFrom (add : Word → Word → Word) : Word → Nat → List (Bool × Word) → List (Word × Nat)
  | _, _, [] => []
  | acc, seg, (head, v) :: t =>
    if head then (v, seg + 1) :: scanFrom add v (seg + 1) t
    else (add acc v, seg) :: scanFrom add (add acc v) seg t

/-- The scan over P; the lowest lane is always a head, and its bit 1 selects FP32 addition. -/
def State.groupScan (s : State) (now : Nat) (a b : RegField) (ids : List Nat) : List (Word × Nat) :=
  let h := ids.headD 0
  let add := if (s.val now b h).getLsbD 1 then addF32 else (· + ·)
  scanFrom add 0 0 (ids.map (fun id => (decide (id = h) || (s.val now b id).getLsbD 0, s.val now a id)))

/-- GSCAN (R117). -/
def execGscan (ctl : Ctl) (d a b : RegField) (s : State) : Host.Outcome State Fault Refusal :=
  groupWord s (.gscan ctl d a b) d (fun s now ids id =>
    ((s.groupScan now a b ids).getD (ids.idxOf id) (0, 0)).1)

/-- GREDADD (R117): the sum of the whole segment, which its highest lane holds. -/
def execGredadd (ctl : Ctl) (d a b : RegField) (s : State) : Host.Outcome State Fault Refusal :=
  groupWord s (.gredadd ctl d a b) d (fun s now ids id =>
    let l := s.groupScan now a b ids
    let seg := (l.getD (ids.idxOf id) (0, 0)).2
    ((l.filter (fun p => p.2 = seg)).getLastD (0, 0)).1)

end Sys2Proof.Machine
end

