-- ==== Sys2Proof/Machine/System.lean ====
section
/-!
DEFINITION. The device around its cores: power, seam links, the host's apertures, partitions, resets, boot and
attestation (R16, R157, R221, R251, R256 to R271).
-/
namespace Sys2Proof.Machine

/-! ## Clearing parts of the device -/

/-- A partition's launches with all that belongs to them are gone; its cores are empty, also where they are swapped out, its slots
and traces free, its entries of the Step Activation Cache empty (R258). -/
def State.purge (s : State) (part : Nat) : State :=
  let ls := s.launches.keysWhere (fun _ q => decide (q.part = part))
  let bs := s.blocks.keysWhere (fun _ b => ls.contains b.launch)
  let cores := s.coresOf part
  { s with
    launches := s.launches.filter (fun p => !ls.contains p.1)
    tasks := s.tasks.filter (fun p => !ls.contains p.2.launch)
    blocks := s.blocks.filter (fun p => !bs.contains p.1)
    groups := s.groups.filter (fun p => !bs.contains p.2.block)
    ctxs := s.ctxs.filter (fun p => !bs.contains p.2.block)
    ops := s.ops.filter (fun p => !ls.contains p.2.launch)
    traces := s.traces.filter (fun p => decide (p.1 / 16 ≠ part))
    slots := s.slots.filter (fun p => !(p.2.map || p.2.running) || decide (p.2.part ≠ part))
    faults := s.faults.filter (fun p => decide (p.2.part ≠ part))
    sac := s.sac.filter (fun p => decide (p.2.part ≠ part))
    faultQ := s.faultQ.filter (fun w => decide (w.part ≠ part))
    rings := s.rings.filter (fun p => !ls.contains p.2)
    gangs := s.gangs.filter (fun p => !p.2.members.any ls.contains)
    cores := (s.cores.filter (fun p => decide (p.1 / 2 ^ 20 ≠ part + 1))).map (fun (p : Nat × Core) =>
      if cores.contains p.1 then (p.1, { cycle := p.2.cycle }) else p) }

/-- The machine as after a reset, but for what a reset does not reach: its memory, its log, its counters, the parts outside
the cores, and what comes next from outside. -/
def State.cleared (s : State) : State :=
  { State.reset with
    mem := s.mem, elogHead := s.elogHead, linkTimeout := s.linkTimeout, time := s.time, dev := s.dev, boot := s.boot
    host := s.host, links := s.links, panels := s.panels, images := s.images, free := s.free, nextOp := s.nextOp
    seq := s.seq, inputs := s.inputs }

/-- Every running launch's record (R258, R270). -/
def State.recordAll (s : State) (e : Ending) (ls : Store Launch) : State :=
  (ls.filter (fun p => p.2.prop.isNone)).foldl (fun s p => s.writeRecord p.1 p.2 e) s

/-- The device is in tack mode (R268): no core issues and no partition exists. -/
def State.enterTack (s : State) (reason : Nat) : State :=
  { s.cleared with boot := { s.boot with state := 4, reason := reason, verifying := false, linkUp := false, url := false } }

/-- A thermal trip, or a supply out of its limits (R270): every running launch ends with MACHINE_CHECK, structure 6,
core 255 (DEDUCED, log entry 50). -/
def State.trip (s : State) (reason : Nat) : State :=
  (s.recordAll ⟨2, 0x106, 0, 0, 0, 6 + 255 * 2 ^ 8⟩ s.launches).enterTack reason

/-! ## Power -/

/-- A panel's clock at a refresh: a drop above 95 °C, and a rise when the headroom is 3, no candidate has been bypassed and
the junction is not still above 90 °C after a drop (R251, R270). -/
def Panel.refresh (p : Panel) (headroom junction : Nat) (bypassed : Bool) : Panel :=
  let hot := decide (95 < junction) || (p.hot && decide (90 < junction))
  let p := { p with headroom := headroom, hot := hot }
  if 95 < junction then p.drop
  else if headroom = 3 ∧ !bypassed ∧ !hot then { p with clock := Nat.min 17 (p.clock + 1) }
  else p

/-- POWER_REFRESH (R251, R270). -/
def execPowerRefresh (panel : Nat) (headroom : BitVec 2) (junction : Nat) (s : State) : Host.Outcome State Fault Refusal :=
  next (if 110 ≤ junction then s.trip 9
    else s.updPanel panel (fun p => p.refresh headroom.toNat junction ((s.bypassCounts panel).any (fun n => decide (0 < n)))))

/-- POWER_FAULT (R270). -/
def execPowerFault (s : State) : Host.Outcome State Fault Refusal := next (s.trip 10)

/-! ## Seam links -/

/-- The state with f applied to a link. -/
def State.updLink (s : State) (l : Nat) (f : Link → Link) : State := { s with links := s.links.set l (f (s.links.getD l {})) }

/-- A link that is down: collectives whose members it cut off end (R264). -/
def State.downLink (s : State) (l : Nat) : State := (s.updLink l (fun x => { x with up := false })).checkMembers

/-- The panel of a link (R261). -/
def linkPanel (link : Nat) : Nat := link / 3

/-- FLIT_RECEIVE (R261): accepted in sequence order only; after a failure and 2 ^ 10 failed retransmissions of a flit in a row
the link is down. A flit out of sequence is no retransmission that succeeds. -/
def execFlitReceive (link : Nat) (crcOk : Bool) (seq ack : BitVec 12) (s : State) : Host.Outcome State Fault Refusal :=
  let x := s.links.getD link {}
  next (if !x.up then s
    else if crcOk then
      s.updLink link (fun x =>
        { x with
          failures := if seq.toNat = x.expect then 0 else x.failures, acked := ack.toNat
          expect := if seq.toNat = x.expect then (x.expect + 1) % 4096 else x.expect })
    else if 1024 ≤ x.failures then (s.updLink link (fun x => { x with failures := x.failures + 1 })).downLink link
    else s.updLink link (fun x => { x with failures := x.failures + 1 }))

/-- LINK_DOWN (R261). -/
def execLinkDown (link : Nat) (s : State) : Host.Outcome State Fault Refusal := next (s.downLink link)

/-- LANE_LOSS (R261): the link goes on with 4 lanes. -/
def execLaneLoss (link : Nat) (s : State) : Host.Outcome State Fault Refusal :=
  next (s.updLink link (fun x => { x with lanes := 4 }))

/-- ROUTE_ENTRY_WRITE (R262): held while a request of the pair is in flight; a device that cannot be reached any more
ends the collectives it is a member of (R264). -/
def execRouteEntryWrite (device : BitVec 8) (mask : BitVec 12) (s : State) : Host.Outcome State Fault Refusal :=
  next (s.post 256 (mgmtBase + 0x30000 + 8 * device.toNat) (toBytes 8 mask.toNat)).checkMembers

/-- COLL_GROUP_ENTRY_WRITE (R263): held while a collective is in flight on a valid group. -/
def execCollGroupEntryWrite (group : BitVec 8) (index : BitVec 4) (value : Word) (s : State) :
    Host.Outcome State Fault Refusal :=
  next (s.post 256 (mgmtBase + 0x20000 + 64 * group.toNat + 4 * index.toNat) (toBytes 4 value.toNat)).checkMembers

/-- REGISTER_WRITE (R16): a 32-bit write in the management space or in a core's control block; what is read only there,
and what is not listed in a control block, is unchanged. -/
def execRegisterWrite (addr : Nat) (value : Word) (s : State) : Host.Outcome State Fault Refusal :=
  next (match regionOf addr with
    | .mgmt _ => s.post 256 addr (toBytes 4 value.toNat)
    | .control _ _ => s.post 256 addr (toBytes 4 value.toNat)
    | _ => s)

/-- STEWARD_TIMER (R157). -/
def execStewardTimer (panel : Nat) (s : State) : Host.Outcome State Fault Refusal := next (s.setLatch panel)

/-! ## The host -/

/-- The largest size of BAR 2 of a function (Table 30.1). -/
def barLimit (fn : Nat) : Nat := if fn = 0 then 2 ^ 39 else 2 ^ 36

/-- A size that the host may give BAR 2 of a function: a power of two from 1 GiB on (R256). -/
def goodBar (p : Nat × Nat) : Bool :=
  decide (p.1 ≤ 16) && decide (2 ^ 30 ≤ p.2) && decide (p.2 ≤ barLimit p.1) && decide (p.2 = 2 ^ Nat.log2 p.2)

/-- The size of BAR 2 of a function. -/
def State.barSize (s : State) (fn : Nat) : Nat := s.host.bars.getD fn (2 ^ 30)

/-- PCIE_LINK_TRAINING (R256): the rates are 2.5 to 64.0 GT/s, in units of 0.1; flit mode is used at 64.0. The host sets the
sizes of BARs with it (DESIGN CHOICE, log entry 121). -/
def execPcieLinkTraining (link : Nat × List (Nat × Nat)) (s : State) : Host.Outcome State Fault Refusal :=
  next (if [25, 50, 80, 160, 320, 640].contains link.1 then
      { s with host := { s.host with
          rate := link.1, flits := decide (link.1 = 640)
          bars := (link.2.filter goodBar).foldl (fun m p => m.set p.1 p.2) s.host.bars } }
    else s)

/-- What tack mode leaves the host of the management space (R268) (DESIGN CHOICE, log entry 36). -/
def tackReach (off : Nat) : Bool :=
  decide (0x100 ≤ off ∧ off < 0x108) || decide (0x110 ≤ off ∧ off < 0x114) || decide (0x40000 ≤ off ∧ off < 0x60000) ||
    decide (0x100000 ≤ off ∧ off < 0x400000)

/-- An address in HBM, or in the store of a trace there. -/
def localHbm (pa : Nat) : Bool := decide (pa < 0x8000000000) || decide (storeBase ≤ pa)

/-- The physical address behind an offset of an aperture (Table 30.1): none where nothing answers, with whether the
address is logged. -/
def State.aperture (s : State) (fn bar off : Nat) (need : Need) : Except Bool Nat :=
  if fn = 0 then
    if bar = 0 then
      if s.boot.state = 4 ∧ !tackReach off then .error false
      else if 2 ^ 32 ≤ off then .error false
      else if (s.accessError 255 (mgmtBase + off) 1).isSome then .error true
      else .ok (mgmtBase + off)
    else if bar = 2 ∧ s.boot.state ≠ 4 ∧ off < s.barSize 0 then .ok (s.storeAt off)
    else .error false
  else if bar = 2 ∧ (s.parts.get? (fn - 1)).isSome ∧ off < s.barSize fn then
    match s.translate (fn - 1) off need with
    | .ok pa _ _ => if localHbm pa then .ok pa else .error true
    | _ => .error true
  else .error false

/-- Partition of a function, for the log (DESIGN CHOICE, log entry 35). -/
def fnPart (fn : Nat) : Nat := fn - 1

/-- The range lies in BAR 0 of a virtual function that is enabled: the doorbell, which is write only, and reserved offsets
(Table 30.1). -/
def State.inDoorbell (s : State) (fn bar offset len : Nat) : Bool :=
  decide (fn ≠ 0) && decide (bar = 0) && (s.parts.get? (fn - 1)).isSome && decide (offset + len ≤ 65536)

/-- HOST_APERTURE_READ (R256, R257, R268): all bytes 0xFF where a byte has no answer, and 0 in BAR 0 of a virtual function
(R1). -/
def execHostApertureRead (fn bar offset len : Nat) (s : State) : Host.Outcome State Fault Refusal :=
  let l := (List.range len).map (fun i => s.aperture fn bar (offset + i) needR)
  let bytes := l.filterMap (fun r => match r with | .ok pa => some (s.physByte 255 pa) | .error _ => none)
  let logged := l.any (fun r => match r with | .error b => b | .ok _ => false)
  let s' : State := { s with host := { s.host with
      data := if s.inDoorbell fn bar offset len then List.replicate len 0
        else if bytes.length = len then bytes else List.replicate len 0xFF } }
  next (if logged then s'.logError 0x101 255 (fnPart fn) 0 offset else s')

/-- HOST_APERTURE_WRITE (R256, R257, R268): a doorbell kicks and sets the stewards' latches; a write with a byte that
has no answer is dropped. -/
def execHostApertureWrite (fn bar offset : Nat) (data : List Byte) (s : State) : Host.Outcome State Fault Refusal :=
  next (if fn ≠ 0 ∧ bar = 0 then
      if offset = 0 ∧ (s.parts.get? (fn - 1)).isSome then
        (s.kickQueue (fn - 1) 255 (ofBytes (data.take 4) % 65536)).setLatches
      else s
    else
      let l := (List.range data.length).map (fun i => s.aperture fn bar (offset + i) needW)
      let cells := (l.zip data).filterMap (fun r => match r.1 with | .ok pa => some (pa, r.2) | .error _ => none)
      if cells.length = data.length then
        ((runsOf cells).foldl (fun s p => s.post fn p.1 p.2) s).checkMembers
      else if l.any (fun r => match r with | .error b => b | .ok _ => false) then
        s.logError 0x101 255 (fnPart fn) 0 offset
      else s)

/-- VF_FLR (R258): the partition's launches end with STATUS 2 and CAUSE 0; the partition itself remains. -/
def execVfFlr (vf : Nat) (s : State) : Host.Outcome State Fault Refusal :=
  let part := vf - 1
  next (if 1 ≤ vf ∧ (s.parts.get? part).isSome then
      (s.recordAll ⟨2, 0, 0, 0, 0, 0⟩ (s.launches.filter (fun p => decide (p.2.part = part)))).purge part
    else s)

/-- PF_FLR (R258, R265): the whole device is reset and boots; local HBM keeps its bytes (DEDUCED, log entry 27). -/
def execPfFlr (s : State) : Host.Outcome State Fault Refusal :=
  next { State.reset with
    mem := s.mem.filter (fun c => decide (c.1 < 0x8000000000))
    dev := s.dev, free := s.free, images := s.images, inputs := s.inputs
    host := { rate := s.host.rate, flits := s.host.flits } }

/-- POWER_ON_RESET (R265). -/
def execPowerOnReset (s : State) : Host.Outcome State Fault Refusal :=
  next { State.reset with dev := s.dev, free := s.free, inputs := s.inputs }

/-! ## Boot -/

/-- A boot attempt is under way (R265, R267). -/
def Boot.trying (b : Boot) : Bool := decide (b.state ≤ 2)

/-- An attempt fails (R265, R267): the third in a row leads to tack mode. -/
def State.bootFail (s : State) (reason : Nat) : State :=
  let n := s.boot.attempts + 1
  if 3 ≤ n then { s with boot := { s.boot with attempts := 3 } }.enterTack reason
  else { s with boot := { s.boot with state := 0, attempts := n, reason := reason, linkUp := false, url := false } }

/-- BOOT_LINK_UP (R265 step 1). -/
def execBootLinkUp (s : State) : Host.Outcome State Fault Refusal :=
  next (if s.boot.trying then { s with boot := { s.boot with linkUp := true } } else s)

/-- BOOT_DHCP_REPLY (R265 step 2): none gives no address; some false no usable boot file URL. -/
def execBootDhcpReply (url : Option Bool) (s : State) : Host.Outcome State Fault Refusal :=
  next (if !s.boot.trying || !s.boot.linkUp then s
    else match url with
      | none => s.bootFail 2
      | some false => s.bootFail 3
      | some true => { s with boot := { s.boot with url := true, state := 1 } })

/-- A verified image starts on the four stewards together (R265): the measurement log gets its first records (R269), each
SRAM its copy of the body, and each steward runs from there (DESIGN CHOICE, log entry 6) (DEDUCED, log entry 38). -/
def State.startImage (s : State) (image : List Byte) : State :=
  let stat := toBytes 4 ({ s with boot := { s.boot with state := 2 } } : State).bootStat
  let body := (image.drop 136).take (image.length - 200)
  let s : State := { s with
    mem := s.mem.writeBytes (mgmtBase + 0x1000) (sha256 image ++ fitBytes 32 Config.fusedKeyHash ++ stat)
    boot := { s.boot with state := 3, image := image, verifying := false, logEnd := 0x1044 } }
  [0, 1, 2, 3].foldl (fun (s : State) p =>
    { s with mem := s.mem.writeBytes (0x090080000000 + p * 2 ^ 52) body }.updCtx p (fun c =>
      { c with status := .running, pc := 0x090080000000 })) s

/-- BOOT_IMAGE_FETCHED (R265 steps 3 and 4, R266). -/
def execBootImageFetched (status : Nat) (image : List Byte) (s : State) : Host.Outcome State Fault Refusal :=
  next (if !s.boot.trying || !s.boot.url then s
    else if status ≠ 200 then s.bootFail 4
    else match verifyImage image with
      | some r => s.bootFail r
      | none => s.startImage image)

/-- BOOT_ATTEMPT_TIMEOUT (R265): 60 s; the link that never came up is the reason where it did not
(DEDUCED, log entry 39). -/
def execBootAttemptTimeout (s : State) : Host.Outcome State Fault Refusal :=
  next (if s.boot.trying then s.bootFail (if s.boot.linkUp then 5 else 1) else s)

/-- The image in the recovery window (R266, R268): as long as its header says, within the window. -/
def State.recoveryImage (s : State) : List Byte :=
  let n := 200 + ofBytes (s.mem.readBytes (mgmtBase + 0x100008) 8)
  s.mem.readBytes (mgmtBase + 0x100000) (Nat.min n 0x300000)

/-- The verification that a write of 1 to BOOTCMD has started comes to its end (R268). -/
def State.verifyRecovery (s : State) : State :=
  if s.boot.state = 4 ∧ s.boot.verifying then
    match verifyImage s.recoveryImage with
    | none => s.startImage s.recoveryImage
    | some r => { s with boot := { s.boot with reason := r, verifying := false } }
  else s

/-- BOOTCMD_VERIFY (R268). -/
def execBootcmdVerify (s : State) : Host.Outcome State Fault Refusal := next s.verifyRecovery

/-! ## Attestation -/

/-- ATTESTATION_SIGN (R269): unless a signing is under way. -/
def execAttestationSign (s : State) : Host.Outcome State Fault Refusal :=
  next (if s.boot.signing then s
    else { s with boot := { s.boot with signing := true, nonce := s.mem.readBytes (mgmtBase + 0x200) 32 } })

/-- A signing comes to its end: ATTSIG holds the signature over the measurement log and the nonce (R269). -/
def State.finishSigning (s : State) : State :=
  if s.boot.signing then
    let sig := Config.identitySign (sha256 (s.mem.readBytes (mgmtBase + 0x1000) 4096 ++ s.boot.nonce))
    { s with
      mem := s.mem.writeBytes (mgmtBase + 0x300) (fitBytes 64 sig)
      boot := { s.boot with signing := false } }
  else s

/-- ATTESTATION_COMPLETE (R269). -/
def execAttestationComplete (s : State) : Host.Outcome State Fault Refusal := next s.finishSigning

/-! ## Partitions -/

/-- Quads that a partition may have (R259): 1 to 48, each once. -/
def goodQuads (quads : List Nat) : Bool :=
  decide (1 ≤ quads.length) && decide (quads.length ≤ 48) && quads.all (fun q => decide (q < 48)) &&
    quads.all (fun q => decide (quads.count q = 1))

/-- A quad is held by a partition that is not swapped out. -/
def State.quadsHeld (s : State) (quads : List Nat) : Bool :=
  s.parts.any (fun p => !p.2.swapped && p.2.quads.any quads.contains)

/-- Slots that a partition may have (R10, R246): of the 256, each once. -/
def goodSlots (slots : List Nat) : Bool := slots.all (fun n => decide (n < 256)) && slots.all (fun n => decide (slots.count n = 1))

/-- A share of the Step Activation Cache that a partition may have (R10, R221): a multiple of 16 entries, of the 16,384 that
the others leave. -/
def State.goodShare (s : State) (part share : Nat) : Bool :=
  decide (share % 16 = 0) && decide (s.parts.foldl (fun n p => if p.1 = part then n else n + p.2.sacShare) share ≤ 16384)

/-- PARTITION_CREATE (R259): its page table is the one at the root given, its cores are empty. One whose quads another
holds is created swapped out (R242; DEDUCED, log entry 28). -/
def execPartitionCreate (part : Nat) (quads : List Nat) (root queueTable : Nat) (slots : List Nat)
    (sacShare sacRegion : Nat) (s : State) : Host.Outcome State Fault Refusal :=
  next (if part < 16 ∧ (s.parts.get? part).isNone ∧ goodQuads quads ∧ goodSlots slots ∧ s.goodShare part sacShare ∧
      s.boot.state = 3 then
      let p : Partition :=
        { quads := quads, root := root, qtable := queueTable, slots := slots, sacShare := sacShare, sacRegion := sacRegion
          swapped := s.quadsHeld quads }
      { s with parts := s.parts.set part p }
    else s)

/-- PARTITION_DESTROY (R221, R259) (DEDUCED, log entry 51). -/
def execPartitionDestroy (part : Nat) (s : State) : Host.Outcome State Fault Refusal :=
  next (if (s.parts.get? part).isSome then
      let s := s.purge part
      { s with parts := s.parts.erase part }
    else s)

/-- SAC_SHARE_CHANGE (R221): every entry of the partition is emptied; a share it may not have changes nothing
(DESIGN CHOICE, log entry 122). -/
def execSacShareChange (part share : Nat) (s : State) : Host.Outcome State Fault Refusal :=
  next (if s.goodShare part share then
      { s with sac := s.sac.filter (fun p => decide (p.2.part ≠ part)) }.updPart part (fun p => { p with sacShare := share })
    else s)

end Sys2Proof.Machine
end

