-- ==== Sys2Proof/Machine/Dispatch.lean ====
section
/-!
DEFINITION. The one match that gives every instruction and every event its meaning.
-/
namespace Sys2Proof.Machine

/-- The effect of an instruction word that has been fetched, or of an event. -/
def exec (i : Instr) (s : State) : Host.Outcome State Fault Refusal :=
  match i with
  | .add ctl d a b => Sys2Proof.Machine.execAdd ctl d a b s
  | .sub ctl d a b => Sys2Proof.Machine.execSub ctl d a b s
  | .adds ctl d a b => Sys2Proof.Machine.execAdds ctl d a b s
  | .subs ctl d a b => Sys2Proof.Machine.execSubs ctl d a b s
  | .mul ctl d a b => Sys2Proof.Machine.execMul ctl d a b s
  | .mulhi ctl d a b => Sys2Proof.Machine.execMulhi ctl d a b s
  | .mulhu ctl d a b => Sys2Proof.Machine.execMulhu ctl d a b s
  | .mad ctl d a b => Sys2Proof.Machine.execMad ctl d a b s
  | .div ctl d a b => Sys2Proof.Machine.execDiv ctl d a b s
  | .divu ctl d a b => Sys2Proof.Machine.execDivu ctl d a b s
  | .rem ctl d a b => Sys2Proof.Machine.execRem ctl d a b s
  | .remu ctl d a b => Sys2Proof.Machine.execRemu ctl d a b s
  | .min ctl d a b => Sys2Proof.Machine.execMin ctl d a b s
  | .max ctl d a b => Sys2Proof.Machine.execMax ctl d a b s
  | .minu ctl d a b => Sys2Proof.Machine.execMinu ctl d a b s
  | .maxu ctl d a b => Sys2Proof.Machine.execMaxu ctl d a b s
  | .and ctl d a b => Sys2Proof.Machine.execAnd ctl d a b s
  | .or ctl d a b => Sys2Proof.Machine.execOr ctl d a b s
  | .xor ctl d a b => Sys2Proof.Machine.execXor ctl d a b s
  | .andn ctl d a b => Sys2Proof.Machine.execAndn ctl d a b s
  | .shl ctl d a b => Sys2Proof.Machine.execShl ctl d a b s
  | .shr ctl d a b => Sys2Proof.Machine.execShr ctl d a b s
  | .sar ctl d a b => Sys2Proof.Machine.execSar ctl d a b s
  | .rotl ctl d a b => Sys2Proof.Machine.execRotl ctl d a b s
  | .popc ctl d a => Sys2Proof.Machine.execPopc ctl d a s
  | .clz ctl d a => Sys2Proof.Machine.execClz ctl d a s
  | .brev ctl d a => Sys2Proof.Machine.execBrev ctl d a s
  | .bfx ctl d a b => Sys2Proof.Machine.execBfx ctl d a b s
  | .bfi ctl d a b => Sys2Proof.Machine.execBfi ctl d a b s
  | .sel ctl d a b => Sys2Proof.Machine.execSel ctl d a b s
  | .mov ctl d a => Sys2Proof.Machine.execMov ctl d a s
  | .addl ctl d a b => Sys2Proof.Machine.execAddl ctl d a b s
  | .subl ctl d a b => Sys2Proof.Machine.execSubl ctl d a b s
  | .mulw ctl d a b => Sys2Proof.Machine.execMulw ctl d a b s
  | .mulwu ctl d a b => Sys2Proof.Machine.execMulwu ctl d a b s
  | .shll ctl d a b => Sys2Proof.Machine.execShll ctl d a b s
  | .shrl ctl d a b => Sys2Proof.Machine.execShrl ctl d a b s
  | .sarl ctl d a b => Sys2Proof.Machine.execSarl ctl d a b s
  | .movl ctl d a => Sys2Proof.Machine.execMovl ctl d a s
  | .cmpeq ctl d a b => Sys2Proof.Machine.execCmpeq ctl d a b s
  | .cmpne ctl d a b => Sys2Proof.Machine.execCmpne ctl d a b s
  | .cmplt ctl d a b => Sys2Proof.Machine.execCmplt ctl d a b s
  | .cmple ctl d a b => Sys2Proof.Machine.execCmple ctl d a b s
  | .cmpltu ctl d a b => Sys2Proof.Machine.execCmpltu ctl d a b s
  | .cmpleu ctl d a b => Sys2Proof.Machine.execCmpleu ctl d a b s
  | .cmpeql ctl d a b => Sys2Proof.Machine.execCmpeql ctl d a b s
  | .cmpltl ctl d a b => Sys2Proof.Machine.execCmpltl ctl d a b s
  | .mfs ctl d h l => Sys2Proof.Machine.execMfs ctl d h l s
  | .mts ctl h l b => Sys2Proof.Machine.execMts ctl h l b s
  | .shfl ctl d a b => Sys2Proof.Machine.execShfl ctl d a b s
  | .ballot ctl d a => Sys2Proof.Machine.execBallot ctl d a s
  | .matchMask ctl d a => Sys2Proof.Machine.execMatchMask ctl d a s
  | .compact ctl d a b => Sys2Proof.Machine.execCompact ctl d a b s
  | .gredadd ctl d a b => Sys2Proof.Machine.execGredadd ctl d a b s
  | .gscan ctl d a b => Sys2Proof.Machine.execGscan ctl d a b s
  | .addi ctl d a imm => Sys2Proof.Machine.execAddi ctl d a imm s
  | .andi ctl d a imm => Sys2Proof.Machine.execAndi ctl d a imm s
  | .ori ctl d a imm => Sys2Proof.Machine.execOri ctl d a imm s
  | .xori ctl d a imm => Sys2Proof.Machine.execXori ctl d a imm s
  | .shli ctl d a imm => Sys2Proof.Machine.execShli ctl d a imm s
  | .shri ctl d a imm => Sys2Proof.Machine.execShri ctl d a imm s
  | .sari ctl d a imm => Sys2Proof.Machine.execSari ctl d a imm s
  | .cmpeqi ctl d a imm => Sys2Proof.Machine.execCmpeqi ctl d a imm s
  | .cmplti ctl d a imm => Sys2Proof.Machine.execCmplti ctl d a imm s
  | .cmpltui ctl d a imm => Sys2Proof.Machine.execCmpltui ctl d a imm s
  | .muli ctl d a imm => Sys2Proof.Machine.execMuli ctl d a imm s
  | .xset ctl x l imm => Sys2Proof.Machine.execXset ctl x l imm s
  | .xoff ctl x a imm => Sys2Proof.Machine.execXoff ctl x a imm s
  | .xinc ctl x imm => Sys2Proof.Machine.execXinc ctl x imm s
  | .li ctl d imm => Sys2Proof.Machine.execLi ctl d imm s
  | .lih ctl d imm => Sys2Proof.Machine.execLih ctl d imm s
  | .addiw ctl d imm => Sys2Proof.Machine.execAddiw ctl d imm s
  | .ldk ctl d imm => Sys2Proof.Machine.execLdk ctl d imm s
  | .fadd ctl d a b => Sys2Proof.Machine.execFadd ctl d a b s
  | .fsub ctl d a b => Sys2Proof.Machine.execFsub ctl d a b s
  | .fmul ctl d a b => Sys2Proof.Machine.execFmul ctl d a b s
  | .ffma ctl d a b => Sys2Proof.Machine.execFfma ctl d a b s
  | .fmin ctl d a b => Sys2Proof.Machine.execFmin ctl d a b s
  | .fmax ctl d a b => Sys2Proof.Machine.execFmax ctl d a b s
  | .fabs ctl d a => Sys2Proof.Machine.execFabs ctl d a s
  | .fneg ctl d a => Sys2Proof.Machine.execFneg ctl d a s
  | .fcmpeq ctl d a b => Sys2Proof.Machine.execFcmpeq ctl d a b s
  | .fcmplt ctl d a b => Sys2Proof.Machine.execFcmplt ctl d a b s
  | .fcmple ctl d a b => Sys2Proof.Machine.execFcmple ctl d a b s
  | .fcmpun ctl d a b => Sys2Proof.Machine.execFcmpun ctl d a b s
  | .fdiv ctl d a b => Sys2Proof.Machine.execFdiv ctl d a b s
  | .fsqrt ctl d a => Sys2Proof.Machine.execFsqrt ctl d a s
  | .frcp ctl d a => Sys2Proof.Machine.execFrcp ctl d a s
  | .frsq ctl d a => Sys2Proof.Machine.execFrsq ctl d a s
  | .dadd ctl d a b => Sys2Proof.Machine.execDadd ctl d a b s
  | .dsub ctl d a b => Sys2Proof.Machine.execDsub ctl d a b s
  | .dmul ctl d a b => Sys2Proof.Machine.execDmul ctl d a b s
  | .dfma ctl d a b => Sys2Proof.Machine.execDfma ctl d a b s
  | .dmin ctl d a b => Sys2Proof.Machine.execDmin ctl d a b s
  | .dmax ctl d a b => Sys2Proof.Machine.execDmax ctl d a b s
  | .dabs ctl d a => Sys2Proof.Machine.execDabs ctl d a s
  | .dneg ctl d a => Sys2Proof.Machine.execDneg ctl d a s
  | .dcmpeq ctl d a b => Sys2Proof.Machine.execDcmpeq ctl d a b s
  | .dcmplt ctl d a b => Sys2Proof.Machine.execDcmplt ctl d a b s
  | .dcmple ctl d a b => Sys2Proof.Machine.execDcmple ctl d a b s
  | .dcmpun ctl d a b => Sys2Proof.Machine.execDcmpun ctl d a b s
  | .ddiv ctl d a b => Sys2Proof.Machine.execDdiv ctl d a b s
  | .dsqrt ctl d a => Sys2Proof.Machine.execDsqrt ctl d a s
  | .fex2 ctl d a => Sys2Proof.Machine.execFex2 ctl d a s
  | .flg2 ctl d a => Sys2Proof.Machine.execFlg2 ctl d a s
  | .fsinp ctl d a => Sys2Proof.Machine.execFsinp ctl d a s
  | .fcosp ctl d a => Sys2Proof.Machine.execFcosp ctl d a s
  | .ftanh ctl d a => Sys2Proof.Machine.execFtanh ctl d a s
  | .cvtif ctl d a => Sys2Proof.Machine.execCvtif ctl d a s
  | .cvtuf ctl d a => Sys2Proof.Machine.execCvtuf ctl d a s
  | .cvtfi ctl d a => Sys2Proof.Machine.execCvtfi ctl d a s
  | .cvtfu ctl d a => Sys2Proof.Machine.execCvtfu ctl d a s
  | .cvtfd ctl d a => Sys2Proof.Machine.execCvtfd ctl d a s
  | .cvtdf ctl d a => Sys2Proof.Machine.execCvtdf ctl d a s
  | .cvtid ctl d a => Sys2Proof.Machine.execCvtid ctl d a s
  | .cvtdi ctl d a => Sys2Proof.Machine.execCvtdi ctl d a s
  | .cvtfh ctl d a => Sys2Proof.Machine.execCvtfh ctl d a s
  | .cvthf ctl d a => Sys2Proof.Machine.execCvthf ctl d a s
  | .cvtfb ctl d a => Sys2Proof.Machine.execCvtfb ctl d a s
  | .cvtbf ctl d a => Sys2Proof.Machine.execCvtbf ctl d a s
  | .cvtf8a ctl d a => Sys2Proof.Machine.execCvtf8a ctl d a s
  | .cvtf8b ctl d a => Sys2Proof.Machine.execCvtf8b ctl d a s
  | .cvt8af ctl d a => Sys2Proof.Machine.execCvt8af ctl d a s
  | .cvt8bf ctl d a => Sys2Proof.Machine.execCvt8bf ctl d a s
  | .nqdec ctl d a => Sys2Proof.Machine.execNqdec ctl d a s
  | .nqenc ctl d a => Sys2Proof.Machine.execNqenc ctl d a s
  | .ldb ctl d a o => Sys2Proof.Machine.execLdb ctl d a o s
  | .ldbs ctl d a o => Sys2Proof.Machine.execLdbs ctl d a o s
  | .ldh ctl d a o => Sys2Proof.Machine.execLdh ctl d a o s
  | .ldhs ctl d a o => Sys2Proof.Machine.execLdhs ctl d a o s
  | .ldw ctl d a o => Sys2Proof.Machine.execLdw ctl d a o s
  | .ldl ctl d a o => Sys2Proof.Machine.execLdl ctl d a o s
  | .ldq ctl d a o => Sys2Proof.Machine.execLdq ctl d a o s
  | .stb ctl d a o => Sys2Proof.Machine.execStb ctl d a o s
  | .sth ctl d a o => Sys2Proof.Machine.execSth ctl d a o s
  | .stw ctl d a o => Sys2Proof.Machine.execStw ctl d a o s
  | .stl ctl d a o => Sys2Proof.Machine.execStl ctl d a o s
  | .stq ctl d a o => Sys2Proof.Machine.execStq ctl d a o s
  | .ldf ctl d a o => Sys2Proof.Machine.execLdf ctl d a o s
  | .ldff ctl d a o => Sys2Proof.Machine.execLdff ctl d a o s
  | .ste ctl d a o => Sys2Proof.Machine.execSte ctl d a o s
  | .stf ctl d a o => Sys2Proof.Machine.execStf ctl d a o s
  | .sete ctl a o => Sys2Proof.Machine.execSete ctl a o s
  | .ldwr ctl d a r => Sys2Proof.Machine.execLdwr ctl d a r s
  | .ldacq ctl d a p => Sys2Proof.Machine.execLdacq ctl d a p s
  | .strel ctl d a p => Sys2Proof.Machine.execStrel ctl d a p s
  | .pref ctl a o => Sys2Proof.Machine.execPref ctl a o s
  | .aadd ctl p d a b => Sys2Proof.Machine.execAadd ctl p d a b s
  | .axchg ctl p d a b => Sys2Proof.Machine.execAxchg ctl p d a b s
  | .acas ctl p d a b => Sys2Proof.Machine.execAcas ctl p d a b s
  | .amin ctl p d a b => Sys2Proof.Machine.execAmin ctl p d a b s
  | .amax ctl p d a b => Sys2Proof.Machine.execAmax ctl p d a b s
  | .aand ctl p d a b => Sys2Proof.Machine.execAand ctl p d a b s
  | .aor ctl p d a b => Sys2Proof.Machine.execAor ctl p d a b s
  | .afadd ctl p d a b => Sys2Proof.Machine.execAfadd ctl p d a b s
  | .red ctl p k a b => Sys2Proof.Machine.execRed ctl p k a b s
  | .fence ctl p k => Sys2Proof.Machine.execFence ctl p k s
  | .waitv ctl p a b => Sys2Proof.Machine.execWaitv ctl p a b s
  | .notify ctl p k a => Sys2Proof.Machine.execNotify ctl p k a s
  | .qlock ctl p a => Sys2Proof.Machine.execQlock ctl p a s
  | .qunlock ctl p a => Sys2Proof.Machine.execQunlock ctl p a s
  | .bar ctl p a => Sys2Proof.Machine.execBar ctl p a s
  | .binit ctl p k a b => Sys2Proof.Machine.execBinit ctl p k a b s
  | .bra ctl o => Sys2Proof.Machine.execBra ctl o s
  | .bnz ctl a o => Sys2Proof.Machine.execBnz ctl a o s
  | .bz ctl a o => Sys2Proof.Machine.execBz ctl a o s
  | .call ctl o => Sys2Proof.Machine.execCall ctl o s
  | .brx ctl a => Sys2Proof.Machine.execBrx ctl a s
  | .callx ctl a => Sys2Proof.Machine.execCallx ctl a s
  | .ret ctl => Sys2Proof.Machine.execRet ctl s
  | .dbnz ctl a o => Sys2Proof.Machine.execDbnz ctl a o s
  | .nop ctl => Sys2Proof.Machine.execNop ctl s
  | .exit ctl imm => Sys2Proof.Machine.execExit ctl imm s
  | .yield ctl => Sys2Proof.Machine.execYield ctl s
  | .trap ctl n => Sys2Proof.Machine.execTrap ctl n s
  | .tret ctl => Sys2Proof.Machine.execTret ctl s
  | .joinset ctl r a => Sys2Proof.Machine.execJoinset ctl r a s
  | .join ctl r => Sys2Proof.Machine.execJoin ctl r s
  | .regrp ctl a => Sys2Proof.Machine.execRegrp ctl a s
  | .grow ctl n => Sys2Proof.Machine.execGrow ctl n s
  | .shrink ctl n => Sys2Proof.Machine.execShrink ctl n s
  | .growt ctl d n => Sys2Proof.Machine.execGrowt ctl d n s
  | .tdset ctl t a => Sys2Proof.Machine.execTdset ctl t a s
  | .tdget ctl d t => Sys2Proof.Machine.execTdget ctl d t s
  | .cvset ctl a v => Sys2Proof.Machine.execCvset ctl a v s
  | .ofence ctl => Sys2Proof.Machine.execOfence ctl s
  | .mma ctl m a v => Sys2Proof.Machine.execMma ctl m a v s
  | .mwait ctl v => Sys2Proof.Machine.execMwait ctl v s
  | .mdrain ctl m a v => Sys2Proof.Machine.execMdrain ctl m a v s
  | .wbload ctl t a => Sys2Proof.Machine.execWbload ctl t a s
  | .obres ctl n a => Sys2Proof.Machine.execObres ctl n a s
  | .obrel ctl n => Sys2Proof.Machine.execObrel ctl n s
  | .twalk ctl d a p => Sys2Proof.Machine.execTwalk ctl d a p s
  | .sacl ctl d a => Sys2Proof.Machine.execSacl ctl d a s
  | .sacs ctl a => Sys2Proof.Machine.execSacs ctl a s
  | .copy ctl g a k => Sys2Proof.Machine.execCopy ctl g a k s
  | .chaingo ctl h a => Sys2Proof.Machine.execChaingo ctl h a s
  | .twait ctl a => Sys2Proof.Machine.execTwait ctl a s
  | .twany ctl a => Sys2Proof.Machine.execTwany ctl a s
  | .tffr ctl d a => Sys2Proof.Machine.execTffr ctl d a s
  | .tclr ctl a => Sys2Proof.Machine.execTclr ctl a s
  | .coll ctl a => Sys2Proof.Machine.execColl ctl a s
  | .spawn ctl d a => Sys2Proof.Machine.execSpawn ctl d a s
  | .tsig ctl a => Sys2Proof.Machine.execTsig ctl a s
  | .mwrite ctl a => Sys2Proof.Machine.execMwrite ctl a s
  | .prop ctl d a => Sys2Proof.Machine.execProp ctl d a s
  | .trfree ctl a => Sys2Proof.Machine.execTrfree ctl a s
  | .trstat ctl d a => Sys2Proof.Machine.execTrstat ctl d a s
  | .rclaim ctl d a k => Sys2Proof.Machine.execRclaim ctl d a k s
  | .rcommit ctl d a k => Sys2Proof.Machine.execRcommit ctl d a k s
  | .rawait ctl d a k => Sys2Proof.Machine.execRawait ctl d a k s
  | .rretire ctl d a k => Sys2Proof.Machine.execRretire ctl d a k s
  | .wfe ctl => Sys2Proof.Machine.execWfe ctl s
  | .itlb ctl a => Sys2Proof.Machine.execItlb ctl a s
  | .dataReturn op ecc => Sys2Proof.Machine.execDataReturn op ecc s
  | .variableLatencyComplete op => Sys2Proof.Machine.execVariableLatencyComplete op s
  | .storePerformed op => Sys2Proof.Machine.execStorePerformed op s
  | .reductionApply op => Sys2Proof.Machine.execReductionApply op s
  | .shrinkRowReturn op => Sys2Proof.Machine.execShrinkRowReturn op s
  | .copyComplete op ecc => Sys2Proof.Machine.execCopyComplete op ecc s
  | .chainRecordComplete core chan => Sys2Proof.Machine.execChainRecordComplete core chan s
  | .matrixOpComplete op ecc => Sys2Proof.Machine.execMatrixOpComplete op ecc s
  | .twalkComplete op => Sys2Proof.Machine.execTwalkComplete op s
  | .collTimeout group => Sys2Proof.Machine.execCollTimeout group s
  | .collDecisionTimeout group => Sys2Proof.Machine.execCollDecisionTimeout group s
  | .detCommit launch => Sys2Proof.Machine.execDetCommit launch s
  | .detSampleCompare launch block => Sys2Proof.Machine.execDetSampleCompare launch block s
  | .blockEnd block => Sys2Proof.Machine.execBlockEnd block s
  | .blockDispatch panel => Sys2Proof.Machine.execBlockDispatch panel s
  | .taskTake core => Sys2Proof.Machine.execTaskTake core s
  | .launchComplete launch => Sys2Proof.Machine.execLaunchComplete launch s
  | .launch slot => Sys2Proof.Machine.execLaunch slot s
  | .gang slot => Sys2Proof.Machine.execGang slot s
  | .propCommand slot => Sys2Proof.Machine.execPropCommand slot s
  | .waitw slot => Sys2Proof.Machine.execWaitw slot s
  | .sigw slot => Sys2Proof.Machine.execSigw slot s
  | .waitwPoll slot => Sys2Proof.Machine.execWaitwPoll slot s
  | .kick byHost source queue => Sys2Proof.Machine.execKick byHost source queue s
  | .growDeadlockCheck core => Sys2Proof.Machine.execGrowDeadlockCheck core s
  | .waitWatchdog ctx => Sys2Proof.Machine.execWaitWatchdog ctx s
  | .deferredStoreError op cause => Sys2Proof.Machine.execDeferredStoreError op cause s
  | .contextSave core slot => Sys2Proof.Machine.execContextSave core slot s
  | .contextRestore core slot toCore => Sys2Proof.Machine.execContextRestore core slot toCore s
  | .remoteTimeout op => Sys2Proof.Machine.execRemoteTimeout op s
  | .starvationTimeExpiry core slot pc => Sys2Proof.Machine.execStarvationTimeExpiry core slot pc s
  | .frespReplay core entry => Sys2Proof.Machine.execFrespReplay core entry s
  | .frespFail core entry => Sys2Proof.Machine.execFrespFail core entry s
  | .machineCheck block core code => Sys2Proof.Machine.execMachineCheck block core code s
  | .preemptionRequest core slot => Sys2Proof.Machine.execPreemptionRequest core slot s
  | .partitionSwap outgoing incoming => Sys2Proof.Machine.execPartitionSwap outgoing incoming s
  | .slotMap slot => Sys2Proof.Machine.execSlotMap slot s
  | .slotUnmap slot => Sys2Proof.Machine.execSlotUnmap slot s
  | .queueAgeTick => Sys2Proof.Machine.execQueueAgeTick s
  | .powerRefresh panel headroom junction => Sys2Proof.Machine.execPowerRefresh panel headroom junction s
  | .powerFault => Sys2Proof.Machine.execPowerFault s
  | .flitReceive link crcOk seq ack => Sys2Proof.Machine.execFlitReceive link crcOk seq ack s
  | .linkDown link => Sys2Proof.Machine.execLinkDown link s
  | .laneLoss link => Sys2Proof.Machine.execLaneLoss link s
  | .routeEntryWrite device mask => Sys2Proof.Machine.execRouteEntryWrite device mask s
  | .collGroupEntryWrite group index value => Sys2Proof.Machine.execCollGroupEntryWrite group index value s
  | .collContribution key rank data => Sys2Proof.Machine.execCollContribution key rank data s
  | .collAbortReport key rank code => Sys2Proof.Machine.execCollAbortReport key rank code s
  | .collDecision key commit code rank data => Sys2Proof.Machine.execCollDecision key commit code rank data s
  | .gangReservation device gang descriptors what => Sys2Proof.Machine.execGangReservation device gang descriptors what s
  | .gangStart device gang => Sys2Proof.Machine.execGangStart device gang s
  | .gangStartAck device gang => Sys2Proof.Machine.execGangStartAck device gang s
  | .gangAckTimeout device gang => Sys2Proof.Machine.execGangAckTimeout device gang s
  | .hostApertureRead fn bar offset len => Sys2Proof.Machine.execHostApertureRead fn bar offset len s
  | .hostApertureWrite fn bar offset data => Sys2Proof.Machine.execHostApertureWrite fn bar offset data s
  | .vfFlr vf => Sys2Proof.Machine.execVfFlr vf s
  | .pfFlr => Sys2Proof.Machine.execPfFlr s
  | .powerOnReset => Sys2Proof.Machine.execPowerOnReset s
  | .bootLinkUp => Sys2Proof.Machine.execBootLinkUp s
  | .bootDhcpReply url => Sys2Proof.Machine.execBootDhcpReply url s
  | .bootImageFetched status image => Sys2Proof.Machine.execBootImageFetched status image s
  | .bootAttemptTimeout => Sys2Proof.Machine.execBootAttemptTimeout s
  | .bootcmdVerify => Sys2Proof.Machine.execBootcmdVerify s
  | .attestationSign => Sys2Proof.Machine.execAttestationSign s
  | .attestationComplete => Sys2Proof.Machine.execAttestationComplete s
  | .stewardTimer panel => Sys2Proof.Machine.execStewardTimer panel s
  | .registerWrite addr value => Sys2Proof.Machine.execRegisterWrite addr value s
  | .partitionCreate part quads root queueTable slots sacShare sacRegion => Sys2Proof.Machine.execPartitionCreate part quads root queueTable slots sacShare sacRegion s
  | .partitionDestroy part => Sys2Proof.Machine.execPartitionDestroy part s
  | .sacShareChange part share => Sys2Proof.Machine.execSacShareChange part share s
  | .pcieLinkTraining link => Sys2Proof.Machine.execPcieLinkTraining link s

end Sys2Proof.Machine
end

