-- ==== Sys2Proof/Machine/Schedule.lean ====
section
/-!
DEFINITION. What a step does: which core issues, from which cohort, how its word is fetched, and which event comes
between (R17 to R22, R85, R152, R232, R251, R265).
The agents take turns: each core and each steward issues one word, then one event happens (DESIGN CHOICE, log entry 1).
-/
namespace Sys2Proof.Machine

/-! ## The lead cohort -/

/-- The threads of a group that run. -/
def State.runningCtxs (s : State) (g : Group) : List Nat :=
  s.laneOrder (g.members.filter (fun id => (s.ctx id).status == .running))

/-- A PC put into an ascending list of distinct PCs. -/
def insertPc (p : DWord) : List DWord → List DWord
  | [] => [p]
  | q :: t => if p = q then q :: t else if p < q then p :: q :: t else q :: insertPc p t

/-- The distinct runnable PCs of a group, ascending (R18). -/
def State.runnablePcs (s : State) (g : Group) : List DWord :=
  (s.runningCtxs g).foldl (fun l id => insertPc (s.ctx id).pc l) []

/-- The rotation of thread class C: the first PC after one, wrapping round. -/
def rotate (l : List DWord) (last : Option DWord) : Option DWord :=
  match last with
  | some p => (l.find? (fun q => decide (p < q))).or l.head?
  | none => l.head?

/-- The PC of a group's next run (R18, R152): after a YIELD the rotation of thread class C goes on above the PC that yielded
(DEDUCED, log entry 11). -/
def State.leadPc (s : State) (g : Group) : Option DWord :=
  let l := s.runnablePcs g
  if (s.block g.block).kernel.tclass = 0 then
    (l.find? (fun p => g.starved.contains p || g.isStarved (s.now g.core) (s.starveTime g) p)).or (rotate l (g.yielded.or g.lastPc))
  else
    match g.yielded with
    | some p => (l.find? (fun q => q != p)).or l.head?
    | none => l.head?

/-- The block has been dispatched: a block reserved at admission issues nothing before that (R251). -/
def State.blockStarted (s : State) (b : Nat) : Bool :=
  match s.blocks.get? b with
  | none => true
  | some k =>
    match (s.tasks.getD k.task {}).root with
    | some i => decide (i < (s.launches.getD k.launch {}).dispatched)
    | none => true

/-- A group may begin a run, but for the cycle and what its first word needs (R20, R233, R239, R255). -/
def State.mayRun (s : State) (g : Group) : Bool :=
  let q := s.launches.getD (s.block g.block).launch {}
  g.saved.isNone && !g.preempt && g.run.isNone && !(s.runningCtxs g).isEmpty && s.blockStarted g.block &&
    q.ending.isNone && !q.held && !(isSteward g.core && (s.steward (g.core - 192)).halted)

/-- A cohort to issue. -/
structure Lead where
  slot : Nat
  pc : DWord
  cohort : List Nat
  /-- A run begins. -/
  fresh : Bool
  deriving DecidableEq, Repr

/-- The groups of a core, by slot. -/
def State.slotsOf (s : State) (core : Nat) : List (Nat × Group) :=
  (s.groups.filter (fun p => decide (p.1 / 128 = core))).map (fun p => (p.1 % 128, p.2))

/-- The run in progress on a core (R19). -/
def State.currentRun (s : State) (core : Nat) : Option Lead :=
  (s.slotsOf core).findSome? (fun p => p.2.run.map (fun r => ⟨p.1, r.pc, r.mem, false⟩))

/-! ## Fetch -/

/-- The outcome of a fetch. -/
inductive Fetched where
  | ok (w : Word)
  | fault (level base size : Nat)
  | bad (cause : BitVec 10)
  deriving DecidableEq, Repr

/-- The word a fetch finds at a physical address: where stores have changed it since the launch was admitted, as it stood then
or as one of them has left it, anew at each fetch (R274; DESIGN CHOICE, log entry 100). -/
def State.codeWord (s : State) (c : Ctx) (pa : Nat) : Word :=
  let w : Word := BitVec.ofNat 32 (s.physNat c.core pa 4)
  let q := s.launchFor c
  match q.image with
  | none => w
  | some m =>
    let all := BitVec.ofNat 32 (ofBytes (m.readBytes pa 4)) :: (q.past.filter (fun x => decide (x.1 = pa))).map (·.2)
    if !stagedRegion (regionOf pa) || all.all (fun x => x == w) then w
    else all.getD (Config.freeNat (2 ^ 64 * s.now c.core + s.free + pa) % (all.length + 1)) w

/-- The words of HBM that a step has changed, as they stood before it: address and word. -/
def State.leftWords (s t : State) : List (Nat × Word) :=
  let l := (Memory.changed (s.mem.length + t.mem.length) s.mem t.mem).filter (fun a => stagedRegion (regionOf a))
  (l.foldr (fun a r => if r.head? = some (a / 4 * 4) then r else a / 4 * 4 :: r) []).map (fun a =>
    (a, BitVec.ofNat 32 (ofBytes (s.mem.readBytes a 4))))

/-- Words before those that a list has of them already. -/
def addWords (l old : List (Nat × Word)) : List (Nat × Word) := l.filter (fun x => !old.contains x) ++ old

/-- What a launch, or a PROP that waits, may still fetch of the memory that a step has changed (R274). -/
def State.keepPast (s t : State) : State :=
  let l := s.leftWords t
  { t with
    launches := t.launches.map (fun p =>
      if p.2.image.isSome && (s.launches.get? p.1).isSome then (p.1, { p.2 with past := addWords l p.2.past }) else p)
    traces := t.traces.map (fun p =>
      let old := (s.traces.getD p.1 {}).props.map (fun (x : PropRun) => x.who)
      (p.1, { p.2 with props := p.2.props.map (fun x =>
        if old.contains x.who then { x with past := addWords l x.past } else x) })) }

/-- The outcome of a step with what its launches and PROPs remember of the memory before it (R274). -/
def State.recall (s : State) (o : Host.Outcome State Fault Refusal) : Host.Outcome State Fault Refusal :=
  match o with
  | .next t =>
    if (t.launches.any (fun p => p.2.image.isSome) || t.traces.any (fun p => p.2.propRunning)) && decide (t.mem ≠ s.mem) then
      .next (s.keepPast t)
    else .next t
  | o => o

/-- The word at a PC, as a thread fetches it (R85, R101, R235). -/
def State.fetch (s : State) (c : Ctx) (pc : DWord) : Fetched :=
  let read := fun pa => match s.accessError c.core pa 4 with
    | some (cause, _) => Fetched.bad cause
    | none => .ok (s.codeWord c pa)
  if isSteward c.core then if 2 ^ 52 ≤ pc.toNat then .bad 0x101 else read pc.toNat
  else if 2 ^ 56 ≤ pc.toNat then .bad 0x101
  else
    match s.translate (s.partOf c) pc.toNat needX with
    | .ok pa _ _ => if reaches .plain true (regionOf pa) then read pa else .bad 0x101
    | .denied => .bad 0x101
    | .fault l b z => .fault l b z

/-! ## Arbitration -/

/-- The cohort at the PC that a group's next run takes (R18). -/
def State.leadCohort (s : State) (g : Group) (pc : DWord) : List Nat :=
  (s.runningCtxs g).filter (fun id => (s.ctx id).pc == pc)

/-- The first word of a group's next run has its variable-latency operands ready (R21; DEDUCED, log entry 57); a fetch that fails needs none. -/
def State.firstReady (s : State) (core slot : Nat) (g : Group) : Bool :=
  match s.leadPc g with
  | none => false
  | some pc =>
    let ids := s.leadCohort g pc
    match s.fetch (s.ctx (ids.headD 0)) pc with
    | .ok w =>
      match decode (isSteward core) w.toNat with
      | .ok i => (s.heldBy ⟨core, slot, pc, w, ids⟩ (wordInfo i) (busyOf i)).isNone
      | .error _ => true
    | _ => true

/-- The group is eligible for the slot of its core (R21). -/
def State.mayBegin (s : State) (core slot : Nat) (g : Group) : Bool :=
  decide (g.notBefore ≤ s.now core) && s.mayRun g && s.firstReady core slot g

/-- The group whose run begins: the one eligible longest, the lower slot between equals (R21). -/
def State.arbitrate (s : State) (core : Nat) : Option (Nat × Group) :=
  let now := s.now core
  ((s.slotsOf core).filter (fun p => s.mayBegin core p.1 p.2)).foldl (fun r p =>
    match r with
    | some b => if p.2.since.getD now < b.2.since.getD now then some p else r
    | none => some p) none

/-- What a core issues next (R18, R19, R21). -/
def State.lead (s : State) (core : Nat) : Option Lead :=
  match s.currentRun core with
  | some l => some l
  | none =>
    match s.arbitrate core with
    | some (slot, g) => (s.leadPc g).map (fun pc => ⟨slot, pc, s.leadCohort g pc, true⟩)
    | none => none

/-- A group of the core waits only for the cycle in which its next run may begin. -/
def State.coolingDown (s : State) (core : Nat) : Bool :=
  (s.slotsOf core).any (fun p => decide (s.now core < p.2.notBefore) && s.mayRun p.2)

/-- The first agent from the turn on that can issue; in tack mode there is none (R268). -/
def State.nextAgent (s : State) : Option Nat :=
  if s.boot.state = 4 then none
  else (List.range 196).find? (fun a => decide (s.turn ≤ a) && ((s.lead a).isSome || s.coolingDown a))

/-- How long a group has been eligible and each of its PCs runnable, as of this cycle (R18, R21). -/
def State.ageGroup (s : State) (core slot : Nat) (g : Group) : Group :=
  let now := s.now core
  { g with
    since := if g.run.isNone && s.mayBegin core slot g then some (g.since.getD now) else none
    pcSince := (s.runnablePcs g).map (fun pc => (pc, ((g.pcSince.find? (fun p => p.1 == pc)).map (·.2)).getD now)) }

/-- The groups of a core are aged before it issues. -/
def State.ageGroups (s : State) (core : Nat) : State :=
  { s with groups := s.groups.map (fun p =>
      if p.1 / 128 = core ∧ p.1 < 196 * 128 then (p.1, s.ageGroup core (p.1 % 128) p.2) else p) }

/-- A run begins (R18, R20, R23): what earlier runs left in flight to registers has landed. -/
def State.beginRun (s : State) (core : Nat) (l : Lead) : State :=
  (s.updGroup (groupKey core l.slot) (fun g =>
    { g with
      run := some ⟨l.pc, l.cohort, 0, none, false, []⟩, lastPc := some l.pc, yielded := none, yielding := false, since := none
      pcSince := g.pcSince.filter (fun p => p.1 != l.pc)
      starved := g.starved.filter (fun p => p != l.pc) })).mapCtxs l.cohort Ctx.land

/-- Deferred errors that a restore left to the first word (R128). -/
def State.takeDue (s : State) (is : Issue) : State :=
  is.cohort.foldl (fun s id =>
    let c := s.ctx id
    if !c.due then s
    else
      let s := s.updCtx id (fun c => { c with due := false })
      match c.deferred with
      | some t => (s.takeDeferred is id t).leaveRun id
      | none => s) s

/-- What a step does next. -/
inductive Turn where
  /-- An instruction or an event takes its effect. -/
  | run (i : Instr) (s : State)
  | done (s : State)

/-- The end of a run at a word that has no meaning. -/
def endInfo : WordInfo := ⟨⟨false, true, 0⟩, .alu, 0, false, [], []⟩

/-- A fetched word is decoded (R98 steps 1 to 5) and issued, or traps in every thread of the cohort. -/
def State.issueWord (s : State) (is : Issue) : Turn :=
  match decode (isSteward is.core) is.word.toNat with
  | .ok i => .run i { s with issue := some is }
  | .error r => .done (s.trapAll is ⟨r.cause, is.pc, is.word⟩)

/-- The next word of a cohort: fetched, or the trap or the wait that its fetch ends in (R85, R226, R232). -/
def State.issueCohort (s : State) (is : Issue) : Turn :=
  let c := s.ctx (is.cohort.headD 0)
  match s.fetch c is.pc with
  | .ok w => s.issueWord { is with word := w }
  | .bad cause => .done ((s.logDenied c is.pc 4 needX false targetInfo.toNat).trapAll is ⟨cause, is.pc, targetInfo⟩)
  | .fault l b z =>
    .done ((is.cohort.foldl (fun s id => s.parkFault id (s.partOf c) l b z is.pc.toNat targetInfo.toNat) s).finish is
      endInfo [] none)

/-- A core issues from its lead cohort. -/
def State.issueLead (s : State) (core : Nat) (l : Lead) : Turn :=
  let is : Issue := ⟨core, l.slot, l.pc, 0, l.cohort⟩
  if !l.fresh then s.issueCohort is
  else
    let s := (s.beginRun core l).takeDue is
    match (s.group is.key).run with
    | some r => s.issueCohort { is with cohort := r.mem }
    | none => .done s

/-! ## Events -/

/-- A load that comes after a store or reduction of its thread that is held back (R57). -/
def State.behindHeld (s : State) (k : Nat) (o : Op) : Bool :=
  (s.ownStores o.ctx).any (fun q => decide (q.1 < k) && s.storeHeld q.1 q.2 && o.reads.any (fun b => q.2.writes b.1 b.2))

/-- An operation in flight that may complete now, a collective that waits for others left out. -/
def State.completes (s : State) (k : Nat) (o : Op) : Option Instr :=
  match o.kind with
  | .load _ _ _ => if s.behindHeld k o then none else completion k o
  | .store _ _ _ => if s.storeHeld k o then none else completion k o
  | .reduce _ _ _ => if s.storeHeld k o then none else completion k o
  | .matrix m => if s.matBlocked k o m && (s.matHead o.core).isNone then none else completion k o
  | .rows _ after => if s.rowsReady after then completion k o else none
  | .coll _ c _ _ => if c.decided.isSome then completion k o else none
  | _ => completion k o

/-- A channel with a record to perform (R181). -/
def State.channelEvent (s : State) : Option Instr :=
  s.cores.findSome? (fun c => c.2.channels.findSome? (fun h =>
    if h.2.busy && h.2.wait.isNone then some (.chainRecordComplete c.1 h.1) else none))

/-- The step a slot may take. -/
def State.slotEvent (s : State) (slot : Nat) : Option Instr :=
  let q := s.slots.getD slot {}
  match s.command slot with
  | none => if q.awake && s.commandLost slot then some (.launch slot) else none
  | some l =>
    if !(q.awake || q.running) then none
    else if commandBad l then some (.launch slot)
    else if wordAt l 0 / 256 % 2 = 1 ∧ !q.begun ∧ !q.running ∧ s.earlierLaunch q then none
    else
      match wordAt l 0 % 256 with
      | 1 => some (.launch slot)
      | 2 => some (.gang slot)
      | 3 => if q.running ∧ q.result.isNone then none else some (.propCommand slot)
      | 4 => some (.waitw slot)
      | _ => if q.running ∧ s.earlierLaunch q then none else some (.sigw slot)

/-- The slot served first: the highest effective priority, the lower number between equals (R247). -/
def State.slotTurn (s : State) : Option Instr :=
  (s.slots.foldl (fun (r : Option (Nat × Instr)) p =>
    match s.slotEvent p.1 with
    | none => r
    | some i =>
      let n := s.slotPriority p.2
      match r with
      | some (m, _) => if m < n then some (n, i) else r
      | none => some (n, i)) none).map (·.2)

/-- The commit and comparison steps a deterministic launch may take (R253, R254). -/
def State.detEvent (s : State) : Option Instr :=
  s.launches.findSome? (fun p =>
    match p.2.first.find? (fun x => (p.2.second.get? x.1).isSome) with
    | some (i, _) => some (.detSampleCompare p.1 i)
    | none => if p.2.ending.isNone && (p.2.streams.get? p.2.committed).isSome then some (.detCommit p.1) else none)

/-- A unit that was asked to stop and may be saved (R239). -/
def State.saveEvent (s : State) : Option Instr :=
  s.groups.findSome? (fun g =>
    if g.2.preempt && decide (g.1 < 192 * 128) && (s.unitKeys g.1).all s.groupQuiet then
      some (.contextSave (g.1 / 128) (g.1 % 128))
    else none)

/-- A panel that may dispatch. -/
def State.dispatchEvent (s : State) : Option Instr :=
  (List.range 4).findSome? (fun p => if (s.choose p).isSome then some (.blockDispatch p) else none)

/-- The oldest event of a kind that may come: a completion, a chain's record, the end of a block, a step of a deterministic
launch, the end of a launch, a command, a dispatch, a save. -/
def State.eventOf (s : State) (kind : Nat) : Option Instr :=
  match kind with
  | 0 => s.ops.findSome? (fun p => s.completes p.1 p.2)
  | 1 => s.channelEvent
  | 2 => s.blocks.findSome? (fun b => if s.blockOver b.1 && s.mayEnd b.1 then some (.blockEnd b.1) else none)
  | 3 => s.detEvent
  | 4 => s.launches.findSome? (fun p => if s.launchDone p.1 p.2 then some (.launchComplete p.1) else none)
  | 5 => s.slotTurn
  | 6 => s.dispatchEvent
  | _ => s.saveEvent

/-- The event that comes next, if one may: each kind in turn comes first, so that none waits for ever
(DESIGN CHOICE, log entry 1). -/
def State.pickEvent (s : State) : Option Instr := (List.range 8).findSome? (fun i => s.eventOf ((s.time + i) % 8))

/-- A collective that waits for the other members, when nothing else goes on (DESIGN CHOICE, log entry 55). -/
def State.collEvent (s : State) : Option Instr :=
  s.ops.findSome? (fun p => match p.2.kind with
    | .coll _ _ _ _ => completion p.1 p.2
    | _ => none)

/-- A parked thread's count goes up (R38). -/
def Ctx.countUp (c : Ctx) : Ctx :=
  match c.status with
  | .parked p a sc n => { c with status := .parked p a sc (n + 1) }
  | _ => c

/-- A cycle passes for what counts cycles: waits under a watchdog, and the deadlock checks (R31, R38)
(DESIGN CHOICE, log entries 45 and 97). A core's counter stands at 0 until the core has a place in the state (DESIGN CHOICE, log
entry 132). -/
def State.tick (s : State) : State :=
  { s with
    time := s.time + 1
    ctxs := s.ctxs.map (fun p =>
      if p.2.parkKind.isSome && decide ((s.launchFor p.2).watchdog ≠ 0) && s.resident p.1 then (p.1, p.2.countUp) else p)
    cores := s.cores.map (fun (p : Nat × Core) => (p.1,
      { p.2 with
        cycle := if (s.lead p.1).isNone && !s.coolingDown p.1 then p.2.cycle + 1 else p.2.cycle
        quiet := if !p.2.growQ.isEmpty && s.deadlockHolds p.1 then p.2.quiet + 1 else 0 })) }

/-- A count that has reached its limit (R31, R38). -/
def State.alarm (s : State) : Option Instr :=
  (s.ctxs.findSome? (fun p => if (s.barks p.1).isSome then some (.waitWatchdog p.1) else none)).or
  (s.cores.findSome? (fun p => if s.deadlockFires p.1 then some (.growDeadlockCheck p.1) else none))

/-- Threads of launches that are ending stop where they stand between runs (R233). -/
def State.stopEnding (s : State) : State :=
  s.launches.foldl (fun s p => if p.2.ending.isSome then s.stopThreads p.1 else s) s

/-- What the passing of time brings, with the turn at which it comes: a WAITW that waits reads its word every microsecond, and
every millisecond the queues age (R247, R248). -/
def State.timedEvent (s : State) : Option (Nat × Instr) :=
  let poll := if s.time % 1000 = 0 then
      s.slots.findSome? (fun p => if p.2.begun && p.2.map && decide (s.turn < 198 + p.1 ∧ p.1 < 256) then
        some (198 + p.1, .waitwPoll p.1) else none)
    else none
  poll.or (if s.time % 1000000 = 0 ∧ 0 < s.time ∧ s.turn < 454 ∧ s.slots.any (fun p => p.2.map) then
    some (454, .queueAgeTick) else none)

/-- The event of a round, if one may come. -/
def State.roundEvent (s : State) : Option Turn :=
  if s.boot.verifying then some (.done s.verifyRecovery)
  else if s.boot.signing then some (.done s.finishSigning)
  else
    match s.pickEvent with
    | some i => some (.run i s)
    | none =>
      if { s with turn := 0 }.nextAgent.isNone then s.collEvent.map (fun i => .run i s) else none

/-- The cycle ends, after every release that is due in it: what time brings, then the counts that have reached their limits
act, one a step, and then the next cycle begins (R31, R38). -/
def State.endCycle (s : State) : Turn :=
  match s.timedEvent with
  | some (n, i) => .run i { s with turn := n }
  | none =>
    match s.alarm with
    | some i => .run i s
    | none => .done { s.tick with turn := 0 }

/-- What a cycle leaves to be settled: blocks that an access has failed end, threads of launches that are ending stop, held
writes go on, collectives whose members are lost end, and PROPs go on that a full table delayed (R202, R233, R238, R257,
R262, R264). -/
def State.settle (s : State) : State := s.settleFailing.stopEnding.releaseHeld.checkMembers.retryProps

/-- The turn of the events: 196 and below before the event of the round, 197 and above after it. -/
def State.endTurn (s : State) : Turn :=
  if 197 ≤ s.turn then s.endCycle
  else
    let s := { s with turn := 197 }.settle
    s.roundEvent.getD s.endCycle

/-- A step's choice: the next agent that can issue, or an event. -/
def State.turnStep (s : State) : Turn :=
  match s.nextAgent with
  | some a =>
    match s.lead a with
    | some l => ({ s with turn := a + 1 }.ageGroups a).issueLead a l
    | none => .done ({ s with turn := a + 1 }.updCore a (fun c => { c with cycle := c.cycle + 1 }))
  | none => s.endTurn

/-! ## Chains -/

/-- The issue of the word that a chain goes on with, after the word of this issue (R25). -/
def State.chainedTo (s : State) (is : Issue) : Option Issue :=
  match (s.group is.key).run with
  | some r => if r.chain.isSome && r.pc == is.pc + 4 then some ⟨is.core, is.slot, r.pc, 0, r.mem⟩ else none
  | none => none

/-- The word of this issue has been held: its run still stands at it. -/
def State.standsAt (s : State) (is : Issue) : Bool := (s.group is.key).run.any (fun r => r.pc == is.pc)

/-- The word of an issue would wait even if the words of its chain before it had not issued; start is the state before
them. -/
def State.waitsAnyway (start : State) (is : Issue) (r : Option Run) (i : Instr) : Bool :=
  match exec i { start.updGroup is.key (fun g => { g with run := r }) with issue := some is } with
  | .next t => t.standsAt is
  | _ => false

/-- The words of a chain after its first issue with it, in one step (R25, R97). One that must wait for what was pending
before the chain makes the whole chain wait, none of its words having issued (R22); one that waits for a word of its own
chain waits alone (R23) (DESIGN CHOICE, log entry 104). -/
def State.issueRest (start : State) : Nat → Issue → Host.Outcome State Fault Refusal → Host.Outcome State Fault Refusal
  | n + 1, is, .next t =>
    match t.chainedTo is with
    | none => .next t
    | some is' =>
      match t.issueCohort is' with
      | .done u => .next u
      | .run i u =>
        match exec i u with
        | .next v =>
          if !v.standsAt is' then start.issueRest n is' (.next v)
          else if start.waitsAnyway { is' with word := ((u.issue).getD is').word } (t.group is.key).run i then
            .next { start.hold is none with inputs := v.inputs }
          else .next v
        | o => o
  | _, _, o => o

/-- An instruction takes its effect; a word with C set issues with the words it is chained to (R25). -/
def State.perform (i : Instr) (s : State) : Host.Outcome State Fault Refusal :=
  match s.issue with
  | some is => if is.word.msb then s.issueRest 2 is (exec i s) else exec i s
  | none => exec i s

end Sys2Proof.Machine
end

