-- ==== Sys2Proof/Machine/Load.lean ====
section
/-!
DEFINITION. A word placed where the next step fetches it: a launch of one thread on core 0, or for a word of a steward
alone the firmware of steward 0 (DESIGN CHOICE, log entry 2).
-/
namespace Sys2Proof.Machine

/-- The first page table of the placed partition. -/
def placedRoot : Nat := 0x40000000

/-- Memory with the page tables of the placed partition, which map its first GiB onto physical 0 with every right
(Table 26.1), and the word at virtual address 0. -/
def Memory.place (m : Memory) (w : Nat) : Memory :=
  ((m.writeBytes placedRoot (toBytes 8 0x40100001)).writeBytes 0x40100000 (toBytes 8 0x1F)).writeBytes 0 (toBytes 4 w)

/-- The kernel of the placed launch: every resource a block may name. -/
def placedKernel : Kernel := { regs := 256, tiles := 32, cvs := 16, recs := 16 }

/-- A launch of one thread whose next word is w, on core 0, whose turn it is. -/
def State.placeUser (s : State) (w : Nat) : State :=
  { s with
    mem := s.mem.place w
    ctxs := s.ctxs.set 4 { block := 1 }
    groups := Store.set (s.groups.filter (fun p => decide (p.1 / 128 ≠ 0))) 0 { block := 1, alloc := 256, members := [4] }
    blocks := s.blocks.set 1 { launch := 1, kernel := placedKernel, cores := [0] }
    launches := s.launches.set 1 { kernel := placedKernel, dispatched := 1 }
    parts := s.parts.set 0 { quads := [0], root := placedRoot }
    boot := { s.boot with state := 3 }
    inputs := [], issue := none, turn := 0 }

/-- Steward 0 with the word at the start of its SRAM, at which it stands. -/
def State.placeSteward (s : State) (w : Nat) : State :=
  { s with
    mem := s.mem.writeBytes 0x090080000000 (toBytes 4 w)
    ctxs := s.ctxs.set 0 { stewardCtx 0 with status := .running, pc := 0x090080000000 }
    groups := s.groups.set (192 * 128) (stewardGroup 0)
    stewards := s.stewards.set 0 { s.steward 0 with halted := false }
    boot := { s.boot with state := 3 }
    inputs := [], issue := none, turn := 192 }

/-- The word that a table row's bits stand for is one a user thread may issue. -/
def userWord (w : Nat) : Bool :=
  match decode false w with
  | .ok _ => true
  | .error _ => false

/-- The word placed on the agent that may issue it. -/
def State.placeWord (s : State) (w : Nat) : State := if userWord w then s.placeUser w else s.placeSteward w

end Sys2Proof.Machine
end

