-- ==== Sys2Proof/Machine/Step.lean ====
section
/-!
DEFINITION. The step of the machine.
-/
namespace Sys2Proof.Machine

/-- One step: an event that is due, or what the turn brings (DESIGN CHOICE, log entry 1). -/
def step (s : State) : Host.Outcome State Fault Refusal :=
  s.recall (match s.inputs with
    | i :: rest => exec i { s with inputs := rest, issue := none }
    | [] =>
      match s.turnStep with
      | .run i s => s.perform i
      | .done s => next s)

/-- The state with an instruction word where step fetches its next one (DESIGN CHOICE, log entry 2). -/
def State.withFetchWord (s : State) (_nbits w : Nat) : State := s.placeWord (w % 2 ^ 32)

end Sys2Proof.Machine
end

