-- ==== Sys2Proof/Safety.lean ====
section
/-!
DEFINITION. The terms claims are made in: when a word takes its effect in every thread of its cohort, what a thread's
registers read as afterwards, what stays as it is, and the canonical form of memory.
-/
namespace Sys2Proof.Machine

/-- Memory is in its canonical form. -/
abbrev State.MemCanonical (s : State) : Prop := s.mem.wf = true

/-- A cohort is issuing a word: its threads and its group are there, and no thread is named twice (R18). -/
abbrev State.Issuing (s : State) (is : Issue) : Prop :=
  s.issue = some is ∧ is.cohort ≠ [] ∧ is.cohort.Nodup ∧ (∀ id ∈ is.cohort, (s.ctxs.get? id).isSome = true) ∧
    (s.groups.get? is.key).isSome = true

/-- Every thread of the cohort takes the word's effect: the word's place in its chain and run is legal (R98 steps 6 to
8), nothing it uses is in flight (R22, R23), no thread waits for run-ahead data (R134), and no operand check of R98
steps 9 and 10 or of R24 fails. -/
abbrev State.Clear (s : State) (is : Issue) (w : WordInfo) (busy : Op → Bool) : Prop :=
  wordFault w (s.position is) (s.runOf is).count (s.chainOf is) = none ∧ s.heldBy is w busy = none ∧
    (∀ id ∈ is.cohort, s.lateFor is w id = none) ∧ ∀ id ∈ is.cohort, s.issueCheck is w id = none

/-- The cohort of an issue may take the effect of a word. -/
abbrev State.Ready (s : State) (is : Issue) (w : WordInfo) (busy : Op → Bool) : Prop :=
  s.Issuing is ∧ s.Clear is w busy

/-- Words put into consecutive registers from r on. -/
def numbered (r : Nat) (ws : List Word) : Store Word := ws.zipIdx.map (fun p => (r + p.2, p.1))

/-- What one fixed-latency word does to its thread: the V registers and index registers listed take their values, which a
word issued from cycle now + lat on reads, and one issued before reads what they held (R23, R24); FSTAT takes its flags
with them (R113); the PC moves to the next word; every other register reads as before. -/
structure Ctx.Writes (c c' : Ctx) (now lat : Nat) (l x : Store Word) (flags : BitVec 6) : Prop where
  registers : ∀ m k, c'.readV m k = match l.get? k with
    | some w => if m < now + lat then c.readV now k else w
    | none => c.readV m k
  index : ∀ m n, c'.readX m n = match x.get? n with
    | some w => if m < now + lat then c.readX now n else w
    | none => c.readX m n
  special : ∀ m n old, lookEarly c'.early (.sp n) m old = lookEarly c.early (.sp n) m old
  status : ∀ m, c'.readFstat m = if m < now + lat then c.readFstat m else c.readFstat m ||| flags.setWidth 32
  rest : c' = { c with v := c'.v, x := c'.x, early := c'.early, pend := c'.pend, pc := c.pc + 4 }

/-- What stays when a cohort issues a word that acts on its own threads: every other thread, core and group, of the
issuing core all but the cycle, and of the issuing group all but its run. -/
structure State.Elsewhere (s t : State) (is : Issue) : Prop where
  threads : ∀ id, id ∉ is.cohort → t.ctxs.get? id = s.ctxs.get? id
  cores : ∀ k, k ≠ is.core → t.cores.get? k = s.cores.get? k
  core : t.core is.core = { s.core is.core with cycle := (t.core is.core).cycle }
  groups : ∀ k, k ≠ is.key → t.groups.get? k = s.groups.get? k
  group : t.group is.key = { s.group is.key with
    run := (t.group is.key).run
    yielded := (t.group is.key).yielded
    yielding := (t.group is.key).yielding
    notBefore := (t.group is.key).notBefore }

/-- The operations of l are in flight, numbered from s's next number on, and those in flight before still are. -/
structure State.Started (s t : State) (l : List Op) : Prop where
  fresh : ∀ j o, l[j]? = some o → t.ops.get? (s.nextOp + j) = some o
  old : ∀ k, k < s.nextOp → t.ops.get? k = s.ops.get? k
  count : t.nextOp = s.nextOp + l.length

/-- A thread has no operation in flight. -/
abbrev State.Idle (s : State) (id : Nat) : Prop := ∀ p ∈ s.ops, p.2.ctx ≠ id

/-- No thread is parked at a wait of this kind. -/
abbrev State.NoneWait (s : State) (q : Park → Bool) : Prop := ∀ p ∈ s.ctxs, (p.2.parkKind.any q) = false

/-- m' reads as m but for the bytes l from address a on. -/
def Memory.Wrote (m m' : Memory) (a : Nat) (l : List Byte) : Prop :=
  ∀ x, m'.read x = if a ≤ x ∧ x < a + l.length then l.getD (x - a) 0 else m.read x

/-- The thread goes on to the next word and holds what it held. -/
def State.Advances (s t : State) (id : Nat) : Prop := t.ctx id = { s.ctx id with pc := (s.ctx id).pc + 4 }

end Sys2Proof.Machine
end

