-- ==== Sys2Proof/Certificates/Slice0/Obligations.lean ====
section
/-! DEFINITION. The statements about the model, and the tables of the spec's rules that they are written from. -/

/-! ## Tables of the rules -/

namespace Sys2Proof.Rules
open Sys2Proof.Machine

/-- How a word reads a register operand: field and offset. -/
abbrev Reads := RegField → Nat → Word

/-- A pair operand (R2). -/
def pair (r : Reads) (f : RegField) : DWord := r f 1 ++ r f 0

/-- The two words of a pair result. -/
def two (x : DWord) : List Word := [x.setWidth 32, (x >>> 32).setWidth 32]

/-- 1 or 0 (R107, R121). -/
def flag (b : Bool) : List Word := [if b then 1 else 0]

/-- The effective width and the position of a field control (R105). -/
def width (ctl : Word) : Nat :=
  if ctl.toNat / 2 ^ 8 % 2 ^ 8 ≠ 0 ∧ ctl.toNat % 2 ^ 8 < 32 then min (ctl.toNat / 2 ^ 8 % 2 ^ 8) (32 - ctl.toNat % 2 ^ 8)
  else 0

/-- R103, the addition and multiplication of R108, and R111 but for LDK: destination, latency, results. -/
def arithmetic : Instr → Option (RegField × Nat × (Reads → List Word))
  | .add _ d a b => some (d, 2, fun r => [BitVec.ofNat 32 ((r a 0).toNat + (r b 0).toNat)])
  | .sub _ d a b => some (d, 2, fun r => [BitVec.ofInt 32 ((r a 0).toNat - (r b 0).toNat)])
  | .adds _ d a b => some (d, 2, fun r =>
      [BitVec.ofInt 32 (max (-2 ^ 31) (min (2 ^ 31 - 1) ((r a 0).toInt + (r b 0).toInt)))])
  | .subs _ d a b => some (d, 2, fun r =>
      [BitVec.ofInt 32 (max (-2 ^ 31) (min (2 ^ 31 - 1) ((r a 0).toInt - (r b 0).toInt)))])
  | .mul _ d a b => some (d, 4, fun r => [BitVec.ofNat 32 ((r a 0).toNat * (r b 0).toNat)])
  | .mulhi _ d a b => some (d, 4, fun r => [BitVec.ofInt 32 ((r a 0).toInt * (r b 0).toInt / 2 ^ 32)])
  | .mulhu _ d a b => some (d, 4, fun r => [BitVec.ofNat 32 ((r a 0).toNat * (r b 0).toNat / 2 ^ 32)])
  | .mad _ d a b => some (d, 4, fun r => [BitVec.ofNat 32 ((r a 0).toNat * (r b 0).toNat + (r d 0).toNat)])
  | .min _ d a b => some (d, 2, fun r => [BitVec.ofInt 32 (min (r a 0).toInt (r b 0).toInt)])
  | .max _ d a b => some (d, 2, fun r => [BitVec.ofInt 32 (max (r a 0).toInt (r b 0).toInt)])
  | .minu _ d a b => some (d, 2, fun r => [BitVec.ofNat 32 (min (r a 0).toNat (r b 0).toNat)])
  | .maxu _ d a b => some (d, 2, fun r => [BitVec.ofNat 32 (max (r a 0).toNat (r b 0).toNat)])
  | .addi _ d a i => some (d, 2, fun r => [BitVec.ofInt 32 ((r a 0).toInt + i.toInt)])
  | .muli _ d a i => some (d, 4, fun r => [BitVec.ofInt 32 ((r a 0).toInt * i.toInt)])
  | .li _ d i => some (d, 2, fun _ => [BitVec.ofNat 32 i.toNat])
  | .lih _ d i => some (d, 2, fun r => [BitVec.ofNat 32 (i.toNat * 2 ^ 16 + (r d 0).toNat % 2 ^ 16)])
  | .addiw _ d i => some (d, 2, fun r => [BitVec.ofInt 32 ((r d 0).toInt + i.toInt)])
  | _ => none

/-- The results of DIV, DIVU, REM and REMU (R53, R103). -/
def division : Instr → Option (RegField × (Reads → Word))
  | .div _ d a b => some (d, fun r =>
      if r b 0 = 0 then 0xFFFFFFFF
      else if r a 0 = 0x80000000 ∧ r b 0 = 0xFFFFFFFF then 0x80000000
      else BitVec.ofInt 32 ((r a 0).toInt.tdiv (r b 0).toInt))
  | .divu _ d a b => some (d, fun r =>
      if r b 0 = 0 then 0xFFFFFFFF else BitVec.ofNat 32 ((r a 0).toNat / (r b 0).toNat))
  | .rem _ d a b => some (d, fun r =>
      if r b 0 = 0 then r a 0
      else if r a 0 = 0x80000000 ∧ r b 0 = 0xFFFFFFFF then 0
      else BitVec.ofInt 32 ((r a 0).toInt - (r b 0).toInt * (r a 0).toInt.tdiv (r b 0).toInt))
  | .remu _ d a b => some (d, fun r =>
      if r b 0 = 0 then r a 0 else BitVec.ofNat 32 ((r a 0).toNat % (r b 0).toNat))
  | _ => none

/-- R104, R105 and the logic and shift words of R108. -/
def logic : Instr → Option (RegField × Nat × (Reads → List Word))
  | .and _ d a b => some (d, 2, fun r => [r a 0 &&& r b 0])
  | .or _ d a b => some (d, 2, fun r => [r a 0 ||| r b 0])
  | .xor _ d a b => some (d, 2, fun r => [r a 0 ^^^ r b 0])
  | .andn _ d a b => some (d, 2, fun r => [r a 0 &&& ~~~(r b 0)])
  | .shl _ d a b => some (d, 2, fun r => [shl (r a 0) (r b 0).toNat])
  | .shr _ d a b => some (d, 2, fun r => [shr (r a 0) (r b 0).toNat])
  | .sar _ d a b => some (d, 2, fun r => [sar (r a 0) (r b 0).toNat])
  | .rotl _ d a b => some (d, 2, fun r =>
      let m := (r b 0).toNat % 32
      [BitVec.ofNat 32 ((r a 0).toNat * 2 ^ m) ||| BitVec.ofNat 32 ((r a 0).toNat / 2 ^ (32 - m))])
  | .popc _ d a => some (d, 2, fun r => [BitVec.ofNat 32 ((List.range 32).countP (fun i => (r a 0).getLsbD i))])
  | .clz _ d a => some (d, 2, fun r =>
      [BitVec.ofNat 32 ((List.range 32).countP (fun i => decide ((r a 0).toNat < 2 ^ i)))])
  | .brev _ d a => some (d, 2, fun r =>
      [BitVec.ofNat 32 ((List.range 32).map (fun i => if (r a 0).getLsbD (31 - i) then 2 ^ i else 0)).sum])
  | .mov _ d a => some (d, 2, fun r => [r a 0])
  | .bfx _ d a b => some (d, 2, fun r =>
      let w := width (r b 0)
      let f := (r a 0).toNat / 2 ^ ((r b 0).toNat % 2 ^ 8) % 2 ^ w
      [if w = 0 then 0
       else if (r b 0).getLsbD 16 ∧ 2 ^ (w - 1) ≤ f then BitVec.ofNat 32 (f + 2 ^ 32 - 2 ^ w)
       else BitVec.ofNat 32 f])
  | .bfi _ d a b => some (d, 2, fun r =>
      let w := width (r b 0)
      let m : Word := BitVec.ofNat 32 ((2 ^ w - 1) * 2 ^ ((r b 0).toNat % 2 ^ 8))
      [if w = 0 then r d 0
       else (r d 0 &&& ~~~m) ||| (BitVec.ofNat 32 ((r a 0).toNat * 2 ^ ((r b 0).toNat % 2 ^ 8)) &&& m)])
  | .sel _ d a b => some (d, 2, fun r => [if r d 0 = 0 then r b 0 else r a 0])
  | .andi _ d a i => some (d, 2, fun r => [r a 0 &&& BitVec.ofNat 32 i.toNat])
  | .ori _ d a i => some (d, 2, fun r => [r a 0 ||| BitVec.ofNat 32 i.toNat])
  | .xori _ d a i => some (d, 2, fun r => [r a 0 ^^^ BitVec.ofNat 32 i.toNat])
  | .shli _ d a i => some (d, 2, fun r => [shl (r a 0) i.toNat])
  | .shri _ d a i => some (d, 2, fun r => [shr (r a 0) i.toNat])
  | .sari _ d a i => some (d, 2, fun r => [sar (r a 0) i.toNat])
  | _ => none
where
  /-- SHL. -/
  shl (x : Word) (n : Nat) : Word := if 32 ≤ n then 0 else BitVec.ofNat 32 (x.toNat * 2 ^ n)
  /-- SHR. -/
  shr (x : Word) (n : Nat) : Word := if 32 ≤ n then 0 else BitVec.ofNat 32 (x.toNat / 2 ^ n)
  /-- SAR. -/
  sar (x : Word) (n : Nat) : Word :=
    if 32 ≤ n then (if x.getLsbD 31 then 0xFFFFFFFF else 0) else BitVec.ofInt 32 (x.toInt / 2 ^ n)

/-- R106, R107 and the compares of R108. -/
def pairsAndCompares : Instr → Option (RegField × Nat × (Reads → List Word))
  | .addl _ d a b => some (d, 2, fun r => two (BitVec.ofNat 64 ((pair r a).toNat + (pair r b).toNat)))
  | .subl _ d a b => some (d, 2, fun r => two (BitVec.ofInt 64 ((pair r a).toNat - (pair r b).toNat)))
  | .mulw _ d a b => some (d, 4, fun r => two (BitVec.ofInt 64 ((r a 0).toInt * (r b 0).toInt)))
  | .mulwu _ d a b => some (d, 4, fun r => two (BitVec.ofNat 64 ((r a 0).toNat * (r b 0).toNat)))
  | .shll _ d a b => some (d, 2, fun r =>
      two (if 64 ≤ (r b 0).toNat then 0 else BitVec.ofNat 64 ((pair r a).toNat * 2 ^ (r b 0).toNat)))
  | .shrl _ d a b => some (d, 2, fun r =>
      two (if 64 ≤ (r b 0).toNat then 0 else BitVec.ofNat 64 ((pair r a).toNat / 2 ^ (r b 0).toNat)))
  | .sarl _ d a b => some (d, 2, fun r =>
      two (if 64 ≤ (r b 0).toNat then (if (pair r a).getLsbD 63 then BitVec.ofNat 64 (2 ^ 64 - 1) else 0)
        else BitVec.ofInt 64 ((pair r a).toInt / 2 ^ (r b 0).toNat)))
  | .movl _ d a => some (d, 2, fun r => two (pair r a))
  | .cmpeq _ d a b => some (d, 2, fun r => flag (decide (r a 0 = r b 0)))
  | .cmpne _ d a b => some (d, 2, fun r => flag (decide (r a 0 ≠ r b 0)))
  | .cmplt _ d a b => some (d, 2, fun r => flag (decide ((r a 0).toInt < (r b 0).toInt)))
  | .cmple _ d a b => some (d, 2, fun r => flag (decide ((r a 0).toInt ≤ (r b 0).toInt)))
  | .cmpltu _ d a b => some (d, 2, fun r => flag (decide ((r a 0).toNat < (r b 0).toNat)))
  | .cmpleu _ d a b => some (d, 2, fun r => flag (decide ((r a 0).toNat ≤ (r b 0).toNat)))
  | .cmpeql _ d a b => some (d, 2, fun r => flag (decide (pair r a = pair r b)))
  | .cmpltl _ d a b => some (d, 2, fun r => flag (decide ((pair r a).toInt < (pair r b).toInt)))
  | .cmpeqi _ d a i => some (d, 2, fun r => flag (decide ((r a 0).toInt = i.toInt)))
  | .cmplti _ d a i => some (d, 2, fun r => flag (decide ((r a 0).toInt < i.toInt)))
  | .cmpltui _ d a i => some (d, 2, fun r => flag (decide ((r a 0).toNat < i.toNat)))
  | _ => none

/-- What a table says of a word of fixed latency that writes one operand: it completes, every thread of the cohort
takes the results from what its registers held, and nothing else changes. -/
def FixedWord (i : Instr) (d : RegField) (lat : Nat) (f : State → Issue → Nat → List Word × BitVec 6)
    (busy : Op → Bool) : Prop :=
  ∀ (s : State) (is : Issue), s.Ready is (wordInfo i) busy →
    ∃ t, exec i s = .next t ∧
      (∀ id ∈ is.cohort, (s.ctx id).Writes (t.ctx id) (s.now is.core) lat
        (numbered ((s.ctx id).resolve (s.now is.core) d) (f s is id).1) [] (f s is id).2) ∧
      t = { s with ctxs := t.ctxs, cores := t.cores, groups := t.groups, issue := none } ∧ s.Elsewhere t is

end Sys2Proof.Rules

open Sys2Proof Sys2Proof.Machine Sys2Proof.Rules

/-- R103 but for division, R104 to R108, and R111 but for LDK: the arithmetic, logic, shift, bit-field, pair and compare words
write what their tables say. -/
def Obligations.IntegerWords : Prop :=
  ∀ i d lat f, (arithmetic i = some (d, lat, f) ∨ logic i = some (d, lat, f) ∨ pairsAndCompares i = some (d, lat, f)) →
    FixedWord i d lat (fun s is id => (f ((s.ctx id).rd (s.now is.core)), 0)) noneBusy

/-- R53, R103: a division word puts one result into flight for each thread, which its completion writes, and changes no
register itself but the PC. -/
def Obligations.DivisionWords : Prop :=
  ∀ i d f, division i = some (d, f) → ∀ (s : State) (is : Issue), s.Ready is (wordInfo i) noneBusy →
    ∃ t, exec i s = .next t ∧
      s.Started t (is.cohort.map (fun id =>
        { core := is.core, ctx := id, grp := is.key, block := (s.ctx id).block
          launch := (s.block (s.ctx id).block).launch, dst := [(s.ctx id).resolve (s.now is.core) d]
          kind := .result [f ((s.ctx id).rd (s.now is.core))] none 0 })) ∧
      (∀ id ∈ is.cohort, t.ctx id = { s.ctx id with pc := (s.ctx id).pc + 4 }) ∧
      t = { s with ctxs := t.ctxs, cores := t.cores, groups := t.groups, issue := none, ops := t.ops, nextOp := t.nextOp } ∧
      s.Elsewhere t is

namespace Sys2Proof.Rules

/-- An index register value (Table 12.2). -/
def indexWord (base len off : Nat) : Word := BitVec.ofNat 32 (base + 2 ^ 8 * len + 2 ^ 16 * off)

/-- An offset after an addition: 65,535 when it falls out of range (R110). -/
def offset (x : Int) : Nat := if 0 ≤ x ∧ x ≤ 65535 then x.toNat else 65535

/-- What XOFF and XINC leave in their index register (R110). -/
def indexStep : Instr → Option (BitVec 2 × (Reads → Word → Word))
  | .xoff _ x a i => some (x, fun r w =>
      indexWord (w.toNat % 2 ^ 8) (w.toNat / 2 ^ 8 % 2 ^ 8) (offset ((r a 0).toInt + i.toInt)))
  | .xinc _ x i => some (x, fun _ w =>
      indexWord (w.toNat % 2 ^ 8) (w.toNat / 2 ^ 8 % 2 ^ 8) (offset ((w.toNat / 2 ^ 16 : Nat) + i.toInt)))
  | _ => none

/-- The bits MTS writes of a special register of a user thread (R42, R112, R113, Table 12.3). -/
def writeMask (n : Nat) : Option Word :=
  if n = 0x16 then some 0x7
  else if n = 0x17 then some 0x3F
  else if 0x38 ≤ n ∧ n ≤ 0x3B then some 0x800FFFFF
  else if n = 0x40 ∨ n = 0x41 ∨ n = 0x43 ∨ n = 0x44 ∨ n = 0x45 then some 0xFFFFFFFF
  else none

/-- The sum of 2 to the lane over the threads of P that pass a test. -/
def lanes (s : State) (P : List Nat) (q : Nat → Bool) : Word :=
  BitVec.ofNat 32 ((List.range 32).map (fun l => if P.any (fun u => decide ((s.ctx u).lane = l) && q u) then 2 ^ l else 0)).sum

/-- The running sum of a segment at place j of P (R117). -/
def scanAt (add : Word → Word → Word) (head : Nat → Bool) (v : Nat → Word) : Nat → Word
  | 0 => v 0
  | j + 1 => if head (j + 1) then v (j + 1) else add (scanAt add head v j) (v (j + 1))

/-- The last place of the segment of place j, of n places (R117). -/
def segmentEnd (head : Nat → Bool) (n j : Nat) : Nat :=
  j + ((List.range (n - 1 - j)).takeWhile (fun k => !head (j + 1 + k))).length

/-- What a group operation gives thread t of P (R115, R116, R117): r u is how u reads its registers. -/
def groupResult (s : State) (P : List Nat) (r : Nat → Reads) : Instr → Option (RegField × (Nat → Word))
  | .shfl _ d a b => some (d, fun t =>
      match P.find? (fun u => (s.ctx u).lane = (r t b 0).toNat) with
      | some u => r u a 0
      | none => r t a 0)
  | .ballot _ d a => some (d, fun _ => lanes s P (fun u => decide (r u a 0 ≠ 0)))
  | .matchMask _ d a => some (d, fun t => lanes s P (fun u => decide (r u a 0 = r t a 0)))
  | .compact _ d a b => some (d, fun t =>
      BitVec.ofNat 32 ((r t b 0).toNat + P.countP (fun u => decide ((r u a 0).toNat < (r t a 0).toNat ∨
        (r u a 0 = r t a 0 ∧ (s.ctx u).lane < (s.ctx t).lane)))))
  | .gscan _ d a b => some (d, fun t => scan a b (P.idxOf t))
  | .gredadd _ d a b => some (d, fun t => scan a b (segmentEnd (head b) P.length (P.idxOf t)))
  | _ => none
where
  /-- Place j is the head of a segment. -/
  head (b : RegField) (j : Nat) : Bool := (r (P.getD j 0) b 0).getLsbD 0
  /-- The sum at place j. -/
  scan (a b : RegField) (j : Nat) : Word :=
    scanAt (if (r (P.getD 0 0) b 0).getLsbD 1 then addF32 else (· + ·)) (head b) (fun k => r (P.getD k 0) a 0) j

end Sys2Proof.Rules

/-- R25, R110: XSET writes an index register where the array lies in what the group held before the chain, and traps where it
does not; XOFF and XINC move its offset. That they keep the BASE and LEN an early read finds is the model's choice (DESIGN
CHOICE, log entry 114). -/
def Obligations.IndexRegisterWords : Prop :=
  (∀ ctl x (l : RegField) (i : BitVec 8) (s : State) (is : Issue), s.Ready is (wordInfo (.xset ctl x l i)) noneBusy →
    i.toNat + 4 * l.toNat ≤ (s.chainBase is).alloc →
    ∃ t, exec (.xset ctl x l i) s = .next t ∧
      (∀ id ∈ is.cohort, (s.ctx id).Writes (t.ctx id) (s.now is.core) 2 []
        [(x.toNat, indexWord i.toNat (4 * l.toNat % 2 ^ 8) 0)] 0) ∧
      t = { s with ctxs := t.ctxs, cores := t.cores, groups := t.groups, issue := none } ∧ s.Elsewhere t is) ∧
  (∀ ctl x (l : RegField) (i : BitVec 8) (s : State) (is : Issue), s.Ready is (wordInfo (.xset ctl x l i)) noneBusy →
    (s.chainBase is).alloc < i.toNat + 4 * l.toNat →
    (∀ id ∈ is.cohort, (s.ctx id).handler = false ∧ s.handlerOf (s.ctx id) ≠ 0) →
    ∃ t, exec (.xset ctl x l i) s = .next t ∧
      ∀ id ∈ is.cohort, (t.ctx id).x = (s.ctx id).x ∧ (t.ctx id).fcause = 0x007 ∧ (t.ctx id).faddr = is.pc ∧
        (t.ctx id).tpc = is.pc ∧ (t.ctx id).finfo = indexWord i.toNat (4 * l.toNat % 2 ^ 8) 0 ∧
        (t.ctx id).pc = s.handlerOf (s.ctx id)) ∧
  ∀ i x f, indexStep i = some (x, f) → ∀ (s : State) (is : Issue), s.Ready is (wordInfo i) noneBusy →
    ∃ t, exec i s = .next t ∧
      (∀ id ∈ is.cohort, (s.ctx id).Writes (t.ctx id) (s.now is.core) 2 []
        [(x.toNat, f ((s.ctx id).rd (s.now is.core)) ((s.ctx id).readX (s.now is.core) x.toNat))] 0) ∧
      t = { s with ctxs := t.ctxs, cores := t.cores, groups := t.groups, issue := none } ∧ s.Elsewhere t is

namespace Sys2Proof.Rules

/-- A thread in its handler after a trap (R232): TPC, the cause, FADDR, FINFO, the handler flag and the PC are written,
and every result of the thread has landed. -/
def entered (c : Ctx) (handler tpc addr : DWord) (cause info : Word) : Ctx :=
  { c.land with
    status := .running, tpc := tpc, fcause := cause, faddr := addr, finfo := info, handler := true, pc := handler }

/-- The halves of a 64-bit register. -/
def lowWord (x : DWord) : Word := BitVec.ofNat 32 x.toNat
/-- The other half. -/
def highWord (x : DWord) : Word := BitVec.ofNat 32 (x.toNat / 2 ^ 32)

/-- Rows a launch may still take on a core (R29): the free rows, and of its declared budget no more than the rows its
groups there do not hold. -/
def rowsLeft (s : State) (core n : Nat) : Nat :=
  let held := ((s.groups.filter (fun p => decide (p.1 / 128 = core) && decide ((s.block p.2.block).launch = n))).map
    (fun p => p.2.alloc)).sum
  let returning := (s.ops.map (fun p => match p.2.kind with
    | .rows k _ => if p.2.core = core ∧ p.2.launch = n then k else 0
    | _ => 0)).sum
  match (s.launches.getD n {}).kernel.budget with
  | some b => min (s.core core).freeRows (b - (held + returning))
  | none => (s.core core).freeRows

/-- A convergence register as MFS shows it (Table 12.3): declared; signed by some; an operation signed under it that was
in flight before operation number first is not complete. -/
def convergence (s : State) (block n first : Nat) (v : Conv) : Word :=
  let pending := s.ops.any (fun p => decide (p.1 < first ∧ p.2.block = block) && match p.2.kind with
    | .matrix m => decide (m.cv = n)
    | _ => false)
  BitVec.ofNat 32 ((if v.declared then 1 else 0) + (if v.signed ≠ [] then 2 else 0) + (if pending then 4 else 0))

/-- The registers of Table 12.3 that a thread of any core reads: of itself, its core, and, as they stood before the chain
that the word stands in (R25), its group. -/
def threadRegister (s : State) (is : Issue) (c : Ctx) (n : Nat) : Option Word :=
  let now := s.now is.core
  let g := s.group is.key
  let num := fun k : Nat => some (BitVec.ofNat 32 k)
  let seen := fun w : Word => some (lookEarly c.early (.sp n) now w)
  let tags := match s.chainOf is with | some ch => ch.tags | none => g.tags
  if n = 0x00 then num c.tid
  else if n = 0x01 then num c.lane
  else if n = 0x02 then num c.slot
  else if n = 0x0E then num s.dev
  else if n = 0x12 then num (match s.chainOf is with | some ch => ch.alloc | none => g.alloc)
  else if n = 0x14 then some (lowWord tags)
  else if n = 0x15 then some (highWord tags)
  else if n = 0x16 then seen c.fmode
  else if n = 0x17 then some (c.readFstat now)
  else if n = 0x18 then num now
  else if n = 0x19 then some c.cycHi
  else if n = 0x1B then some (lowWord c.tls)
  else if n = 0x1C then some (highWord c.tls)
  else if 0x20 ≤ n ∧ n < 0x28 then
    some ((match s.chainOf is with | some ch => ch.rj | none => g.rj).getD (n - 0x20) 0)
  else if 0x3C ≤ n ∧ n < 0x40 then some (c.readX now (n - 0x3C))
  else if n = 0x40 then seen (lowWord c.tpc)
  else if n = 0x41 then seen (highWord c.tpc)
  else if n = 0x42 then some c.fcause
  else if n = 0x43 then seen (lowWord c.faddr)
  else if n = 0x44 then seen (highWord c.faddr)
  else if n = 0x45 then seen c.finfo
  else none

/-- The registers of Table 12.3 that a thread of a user core reads besides: of its block, its launch and its core's place.
LAUNCH is not among them in a task that a PROP runs. -/
def blockRegister (s : State) (is : Issue) (c : Ctx) (n : Nat) : Option Word :=
  let b := s.block c.block
  let l := s.launches.getD b.launch {}
  let num := fun k : Nat => some (BitVec.ofNat 32 k)
  let scratch := 0x00F0000000000000 + b.scratchCore * 0x4000000 + 0x400000 + b.scratchOff
  let counters := match s.chainOf is with | some ch => ch.sac | none => [l.sacHit, l.sacMiss, l.sacSkip]
  if n = 0x03 then num ((b.nthr + 31) / 32)
  else if n = 0x04 then num b.nthr
  else if n = 0x05 then num b.bx
  else if n = 0x06 then num b.by'
  else if n = 0x07 then num b.bz
  else if n = 0x08 then num l.nbx
  else if n = 0x09 then num l.nby
  else if n = 0x0A then num l.nbz
  else if n = 0x0B then num c.core
  else if n = 0x0C then num (c.core / 4)
  else if n = 0x0D then num (c.core / 48)
  else if n = 0x0F then (if l.prop = none then num b.launch else none)
  else if n = 0x10 then num (b.task % 2 ^ 14 + s.gens.getD b.task 0 % 2 ^ 16 * 2 ^ 14)
  else if n = 0x11 then num (l.kernel.tclass + 4 * l.kernel.gclass + 16 * l.kernel.bclass)
  else if n = 0x13 then num (match s.chainOf is with | some ch => ch.budget | none => rowsLeft s is.core b.launch)
  else if n = 0x1A then num l.step
  else if n = 0x1D then num (scratch % 2 ^ 32)
  else if n = 0x1E then num (scratch / 2 ^ 32)
  else if 0x28 ≤ n ∧ n < 0x38 then
    let cv := match s.chainOf is with | some ch => ch.cv | none => b.cv
    let first := match s.chainOf is with | some ch => ch.firstOp | none => s.nextOp
    some (convergence s c.block (n - 0x28) first (cv.getD (n - 0x28) {}))
  else if 0x38 ≤ n ∧ n < 0x3C then some (lookEarly c.early (.sp n) (s.now is.core) (c.path.getD (n - 0x38) 0))
  else if 0x50 ≤ n ∧ n < 0x53 then some (counters.getD (n - 0x50) 0)
  else none

/-- The registers of a steward (R90, R101): CORE and QUAD are 255, PANEL is its panel; SPART and SVEC are its own. -/
def stewardRegister (s : State) (is : Issue) (c : Ctx) (n : Nat) : Option Word :=
  let w := s.steward (is.core - 192)
  let seen := fun x : Word => some (lookEarly c.early (.sp n) (s.now is.core) x)
  if n = 0x0B ∨ n = 0x0C then some 255
  else if n = 0x0D then some (BitVec.ofNat 32 (is.core - 192))
  else if n = 0x100 then seen (BitVec.ofNat 32 w.spart.toNat)
  else if n = 0x102 then seen (lowWord w.svec)
  else if n = 0x103 then seen (highWord w.svec)
  else none

/-- The launch constant that LDK reads (R72, R211): words 1,008 + 2i and 1,009 + 2i are the halves of the header address of
the kernel's i-th named ring; of the others, those that admission took from CONST, and 0 beyond. -/
def constant (l : Launch) (n : Nat) : Word :=
  match if 1008 ≤ n ∧ n < 1024 then l.rings[(n - 1008) / 2]? else none with
  | some h => if n % 2 = 0 then lowWord h else highWord h
  | none => l.constants.getD n 0

end Sys2Proof.Rules

/-- R72, R111, R112, R113, R211: LDK writes a word of the launch constant block, which admission takes from the words at
CONST + 4 × i of its descriptor, as many as the kernel declares, with the header addresses of its named rings. MFS of every
number writes its destination and goes on; the value is that of Table 12.3. MFS of CYCLO also latches the high half of the
counter. -/
def Obligations.ConstantAndSpecialReads : Prop :=
  (∀ ctl d (i : BitVec 16) (s : State) (is : Issue), s.Ready is (wordInfo (.ldk ctl d i)) noneBusy →
    (∀ id ∈ is.cohort, (s.blocks.get? (s.ctx id).block).isSome = true ∧
      (s.launches.get? (s.block (s.ctx id).block).launch).isSome = true) →
    ∃ t, exec (.ldk ctl d i) s = .next t ∧
      (∀ id ∈ is.cohort, (s.ctx id).Writes (t.ctx id) (s.now is.core) 2
        [((s.ctx id).resolve (s.now is.core) d, constant (s.launches.getD (s.block (s.ctx id).block).launch {}) i.toNat)] [] 0) ∧
      t = { s with ctxs := t.ctxs, cores := t.cores, groups := t.groups, issue := none } ∧ s.Elsewhere t is) ∧
  (∀ (s t : State) (slot n : Nat) (x : Launch) (l : List Word), s.judge slot 1 = .ok l →
    exec (.launch slot) s = .next t → s.launches.get? n = none → t.launches.get? n = some x →
    let b := (s.beginCommand slot).logDescriptor (s.slots.getD slot {}).part ((l.getD 2 0).toNat + (l.getD 3 0).toNat * 2 ^ 32)
    (∀ i, i < x.kernel.consts → b.virtWord x.part (x.consts.toNat + 4 * i) = some (x.constants.getD i 0)) ∧
    x.constants.length = x.kernel.consts ∧ x.rings.length = x.kernel.rings.length ∧
    ∀ i, i < x.rings.length →
      b.virtWord x.part (x.consts.toNat + 4 * (1008 + 2 * i)) = some (lowWord (x.rings.getD i 0)) ∧
      b.virtWord x.part (x.consts.toNat + 4 * (1009 + 2 * i)) = some (highWord (x.rings.getD i 0))) ∧
  ∀ ctl d h l (s : State) (is : Issue), s.Ready is (wordInfo (.mfs ctl d h l)) (specialBusy (specialNumber h l)) →
    let n := specialNumber h l
    ∃ t, exec (.mfs ctl d h l) s = .next t ∧
      (∀ id ∈ is.cohort,
        let c := s.ctx id
        let old := if n = 0x18 then { c with cycHi := BitVec.ofNat 32 (s.now is.core / 2 ^ 32) } else c
        ∃ w, old.Writes (t.ctx id) (s.now is.core) 2 [(c.resolve (s.now is.core) d, w)] [] 0 ∧
          (c.core = is.core → (∀ v, threadRegister s is c n = some v → w = v) ∧
            (isSteward is.core = true → ∀ v, stewardRegister s is c n = some v → w = v) ∧
            (isSteward is.core = false → (s.group is.key).block = c.block → (s.blocks.get? c.block).isSome = true →
              (s.launches.get? (s.block c.block).launch).isSome = true → ∀ v, blockRegister s is c n = some v → w = v))) ∧
      t = { s with ctxs := t.ctxs, cores := t.cores, groups := t.groups, issue := none } ∧ s.Elsewhere t is

/-- R42, R112, R113: MTS writes the special registers of a thread, but for reserved fields and the index registers; a word
issued two or more cycles later sees the value, and one issued before sees the old one. -/
def Obligations.SpecialRegisterWrites : Prop :=
  ∀ ctl h l b m, writeMask (specialNumber h l) = some m → ∀ (s : State) (is : Issue),
    s.Ready is (wordInfo (.mts ctl h l b)) (specialBusy (specialNumber h l)) →
    mtsWaits (specialNumber h l) s is = none → isSteward is.core = false →
    (∀ id ∈ is.cohort, (s.ctx id).core = is.core) →
    ∃ t, exec (.mts ctl h l b) s = .next t ∧
      (∀ id ∈ is.cohort,
        let c := s.ctx id
        let c' := t.ctx id
        let n := specialNumber h l
        (∀ k, lookEarly c'.early (.sp n) k (t.writable c' n) =
          if k < s.now is.core + 2 then s.special is c n else c.rd (s.now is.core) b 0 &&& m) ∧
        (∀ j, j ≠ n → ∀ k, lookEarly c'.early (.sp j) k (t.writable c' j) = lookEarly c.early (.sp j) k (s.writable c j)) ∧
        (n ≠ 0x17 → c'.pend = c.pend) ∧ (n = 0x17 → c'.pend = []) ∧
        (∀ k j, c'.readV k j = c.readV k j) ∧ (∀ k j, c'.readX k j = c.readX k j) ∧
        c' = { c with
          fmode := c'.fmode, fstat := c'.fstat, path := c'.path, tpc := c'.tpc, faddr := c'.faddr, finfo := c'.finfo
          early := c'.early, pend := c'.pend, pc := c.pc + 4 }) ∧
      t = { s with ctxs := t.ctxs, cores := t.cores, groups := t.groups, issue := none } ∧ s.Elsewhere t is

/-- R90, R101, R109, R113, R236: MTS to an index register takes all three fields where the array lies in what the group held
before the chain (R25); on a steward, MTS writes SPART where the partition exists, and the halves of SVEC, and answers a fault
buffer entry by FRESP: its waiters issue their words again, or trap PAGE_NOT_PRESENT, and what an engine or a shuttle waits for
goes on, or has failed. A partition that does not exist, an entry not in use, and a core outside the steward's partition trap
ILLEGAL_ENCODING. -/
def Obligations.IndexAndStewardRegisterWrites : Prop :=
  (∀ ctl h l b (s : State) (is : Issue), 0x3C ≤ specialNumber h l → specialNumber h l < 0x40 →
    s.Ready is (wordInfo (.mts ctl h l b)) (specialBusy (specialNumber h l)) →
    (∀ id ∈ is.cohort, ((s.ctx id).rd (s.now is.core) b 0).toNat % 2 ^ 8 +
      ((s.ctx id).rd (s.now is.core) b 0).toNat / 2 ^ 8 % 2 ^ 8 ≤ (s.chainBase is).alloc) →
    ∃ t, exec (.mts ctl h l b) s = .next t ∧
      (∀ id ∈ is.cohort, (s.ctx id).Writes (t.ctx id) (s.now is.core) 2 []
        [(specialNumber h l - 0x3C, (s.ctx id).rd (s.now is.core) b 0)] 0) ∧
      t = { s with ctxs := t.ctxs, cores := t.cores, groups := t.groups, issue := none } ∧ s.Elsewhere t is) ∧
  ∀ ctl h l b (s : State) (is : Issue) (p : Nat), p < 4 → is.core = 192 + p → is.cohort = [p] → (s.ctx p).core = 192 + p →
    s.Ready is (wordInfo (.mts ctl h l b)) (specialBusy (specialNumber h l)) →
    let w := (s.ctx p).rd (s.now is.core) b 0
    (specialNumber h l = 0x100 → (s.parts.get? (w.toNat % 2 ^ 4)).isSome = true →
      ∃ t, exec (.mts ctl h l b) s = .next t ∧ t.steward p = { s.steward p with spart := w.setWidth 4 } ∧
        ∀ q, q ≠ p → t.steward q = s.steward q) ∧
    (specialNumber h l = 0x102 →
      ∃ t, exec (.mts ctl h l b) s = .next t ∧
        t.steward p = { s.steward p with svec := ((s.steward p).svec >>> 32).setWidth 32 ++ w }) ∧
    (specialNumber h l = 0x103 →
      ∃ t, exec (.mts ctl h l b) s = .next t ∧
        t.steward p = { s.steward p with svec := w ++ (s.steward p).svec.setWidth 32 }) ∧
    let e := w.toNat / 2 ^ 8 % 2 ^ 8 * 2 ^ 8 + w.toNat % 2 ^ 8
    let used := (s.faults.get? e).isSome = true ∧ w.toNat / 2 ^ 10 % 2 ^ 6 ∈ (s.parts.getD (s.partOf (s.ctx p)) {}).quads
    ((specialNumber h l = 0x100 ∧ s.parts.get? (w.toNat % 2 ^ 4) = none) ∨ (specialNumber h l = 0x101 ∧ ¬ used) →
      (s.ctx p).handler = false → s.handlerOf (s.ctx p) ≠ 0 →
      ∃ t, exec (.mts ctl h l b) s = .next t ∧ t.steward p = s.steward p ∧ t.faults = s.faults ∧
        t.ctx p = entered (s.ctx p) (s.handlerOf (s.ctx p)) is.pc is.pc 0x001 is.word) ∧
    (specialNumber h l = 0x101 → used → (s.ctx p).status = .running → s.faultQ = [] →
      s.NoneWait (fun q => match q with | .xfault none _ _ => true | _ => false) →
      ∃ t, exec (.mts ctl h l b) s = .next t ∧ s.Advances t p ∧ t.faults.get? e = none ∧
        (∀ k, k ≠ e → t.faults.get? k = s.faults.get? k) ∧
        (∀ j o, s.ops.get? j = some o → t.ops.get? j = some (if o.fault = some e then
          { o with
            fault := none, atObject := false, err := if w.msb && !o.atObject then some 0x101 else o.err
            noObject := o.noObject || (w.msb && o.atObject) } else o)) ∧
        (∀ id va info, (s.ctxs.get? id).isSome = true → (s.ctx id).parkKind = some (.xfault (some e) va info) →
          (w.msb = false → t.ctx id = { s.ctx id with status := .running }) ∧
          (w.msb = true → (∀ u v i, (s.ctx u).parkKind = some (.xfault (some e) v i) → (s.ctx u).handler = false ∧ s.handlerOf (s.ctx u) ≠ 0) →
            t.ctx id = entered (s.ctx id) (s.handlerOf (s.ctx id)) (s.ctx id).pc (BitVec.ofNat 64 va) 0x100
              (BitVec.ofNat 32 info))))

/-- R114 to R117: the group operations over the participants P, which are the cohort where every check passes. Every
source is read before any destination is written. -/
def Obligations.GroupOperations : Prop :=
  ∀ (i : Instr) (s : State) (is : Issue) d f,
    groupResult s is.cohort (fun u => (s.ctx u).rd (s.now is.core)) i = some (d, f) →
    s.Ready is (wordInfo i) noneBusy →
    ∃ t, exec i s = .next t ∧
      (∀ id ∈ is.cohort, (s.ctx id).Writes (t.ctx id) (s.now is.core) 4
        [((s.ctx id).resolve (s.now is.core) d, f id)] [] 0) ∧
      t = { s with ctxs := t.ctxs, cores := t.cores, groups := t.groups, issue := none } ∧ s.Elsewhere t is

namespace Sys2Proof.Rules

/-- Operands of class F under FMODE (R39, R43). -/
def f32 (md : FMode) (r : Reads) (f : RegField) : FVal := fp32.read md (r f 0).toNat
/-- The same for a pair. -/
def f64 (md : FMode) (r : Reads) (f : RegField) : FVal := fp64.read md (pair r f).toNat

/-- A result in one register, with its flags. -/
def one (x : FRes) : List Word × BitVec 6 := ([BitVec.ofNat 32 x.bits], x.flags)
/-- A result in a pair. -/
def dbl (x : FRes) : List Word × BitVec 6 := (two (BitVec.ofNat 64 x.bits), x.flags)
/-- A relation, which raises no flag. -/
def rel (b : Bool) : List Word × BitVec 6 := (flag b, 0)
/-- A pattern, which raises no flag. -/
def bits (n : Nat) : List Word × BitVec 6 := ([BitVec.ofNat 32 n], 0)
/-- A pattern in a pair. -/
def bits64 (n : Nat) : List Word × BitVec 6 := (two (BitVec.ofNat 64 n), 0)

/-- R119, R120, R121, R123: the arithmetic, sign, minimum, maximum and compare words of class F of fixed latency. -/
def floating : Instr → Option (RegField × Nat × (FMode → Reads → List Word × BitVec 6))
  | .fadd _ d a b => some (d, 4, fun md r => one (fAdd fp32 md (f32 md r a) (f32 md r b)))
  | .fsub _ d a b => some (d, 4, fun md r => one (fAdd fp32 md (f32 md r a) (f32 md r b).neg))
  | .fmul _ d a b => some (d, 4, fun md r => one (fMul fp32 md (f32 md r a) (f32 md r b)))
  | .ffma _ d a b => some (d, 4, fun md r => one (fFma fp32 md (f32 md r a) (f32 md r b) (f32 md r d)))
  | .dadd _ d a b => some (d, 6, fun md r => dbl (fAdd fp64 md (f64 md r a) (f64 md r b)))
  | .dsub _ d a b => some (d, 6, fun md r => dbl (fAdd fp64 md (f64 md r a) (f64 md r b).neg))
  | .dmul _ d a b => some (d, 6, fun md r => dbl (fMul fp64 md (f64 md r a) (f64 md r b)))
  | .dfma _ d a b => some (d, 6, fun md r => dbl (fFma fp64 md (f64 md r a) (f64 md r b) (f64 md r d)))
  | .fmin _ d a b => some (d, 4, fun md r => bits (fMinMax fp32 md false (r a 0).toNat (r b 0).toNat))
  | .fmax _ d a b => some (d, 4, fun md r => bits (fMinMax fp32 md true (r a 0).toNat (r b 0).toNat))
  | .dmin _ d a b => some (d, 6, fun md r => bits64 (fMinMax fp64 md false (pair r a).toNat (pair r b).toNat))
  | .dmax _ d a b => some (d, 6, fun md r => bits64 (fMinMax fp64 md true (pair r a).toNat (pair r b).toNat))
  | .fabs _ d a => some (d, 4, fun _ r => ([r a 0 &&& 0x7FFFFFFF], 0))
  | .fneg _ d a => some (d, 4, fun _ r => ([r a 0 ^^^ 0x80000000], 0))
  | .dabs _ d a => some (d, 6, fun _ r => (two (pair r a &&& 0x7FFFFFFFFFFFFFFF), 0))
  | .dneg _ d a => some (d, 6, fun _ r => (two (pair r a ^^^ 0x8000000000000000), 0))
  | .fcmpeq _ d a b => some (d, 4, fun md r => rel (fEqual (f32 md r a) (f32 md r b)))
  | .fcmplt _ d a b => some (d, 4, fun md r => rel (fLess (f32 md r a) (f32 md r b)))
  | .fcmple _ d a b => some (d, 4, fun md r =>
      rel (fLess (f32 md r a) (f32 md r b) || fEqual (f32 md r a) (f32 md r b)))
  | .fcmpun _ d a b => some (d, 4, fun md r => rel ((f32 md r a).isNan || (f32 md r b).isNan))
  | .dcmpeq _ d a b => some (d, 6, fun md r => rel (fEqual (f64 md r a) (f64 md r b)))
  | .dcmplt _ d a b => some (d, 6, fun md r => rel (fLess (f64 md r a) (f64 md r b)))
  | .dcmple _ d a b => some (d, 6, fun md r =>
      rel (fLess (f64 md r a) (f64 md r b) || fEqual (f64 md r a) (f64 md r b)))
  | .dcmpun _ d a b => some (d, 6, fun md r => rel ((f64 md r a).isNan || (f64 md r b).isNan))
  | _ => none

/-- R44, R46, R125, R126, R127: the conversions, and the NQ4 words. -/
def conversion : Instr → Option (RegField × Nat × (FMode → Reads → List Word × BitVec 6))
  | .cvtif _ d a => some (d, 4, fun md r => one (roundTo fp32 md (decide ((r a 0).toInt < 0)) (r a 0).toInt.natAbs 0))
  | .cvtuf _ d a => some (d, 4, fun md r => one (roundTo fp32 md false (r a 0).toNat 0))
  | .cvtfi _ d a => some (d, 4, fun md r => int (fToInt (-2 ^ 31) (2 ^ 31 - 1) (f32 md r a)))
  | .cvtfu _ d a => some (d, 4, fun md r => int (fToInt 0 (2 ^ 32 - 1) (f32 md r a)))
  | .cvtfd _ d a => some (d, 6, fun md r => dbl (fConvert fp64 rne (f32 md r a)))
  | .cvtdf _ d a => some (d, 6, fun md r => one (fConvert fp32 md (f64 md r a)))
  | .cvtid _ d a => some (d, 6, fun _ r => dbl (roundTo fp64 rne (decide ((r a 0).toInt < 0)) (r a 0).toInt.natAbs 0))
  | .cvtdi _ d a => some (d, 6, fun md r => int (fToInt (-2 ^ 31) (2 ^ 31 - 1) (f64 md r a)))
  | .cvtfh _ d a => some (d, 4, fun md r => one (fConvert fp16 ⟨md.rm, false⟩ (f32 md r a)))
  | .cvthf _ d a => some (d, 4, fun _ r => one (fConvert fp32 rne (fp16.unpack ((r a 0).toNat % 2 ^ 16))))
  | .cvtfb _ d a => some (d, 4, fun md r => one (fConvert bf16 ⟨md.rm, false⟩ (f32 md r a)))
  | .cvtbf _ d a => some (d, 4, fun md r => one (fConvert fp32 md (bf16.unpack ((r a 0).toNat % 2 ^ 16))))
  | .cvtf8a _ d a => some (d, 4, fun md r => one (fToE4m3 md.rm ((r a 0).getLsbD 31) (f32 md r a)))
  | .cvtf8b _ d a => some (d, 4, fun md r => one (fToE5m2 md.rm (f32 md r a)))
  | .cvt8af _ d a => some (d, 4, fun _ r => one (fConvert fp32 rne (e4m3.unpack ((r a 0).toNat % 2 ^ 8))))
  | .cvt8bf _ d a => some (d, 4, fun _ r => one (fConvert fp32 rne (e5m2.unpack ((r a 0).toNat % 2 ^ 8))))
  | .nqdec _ d a => some (d, 4, fun _ r =>
      bits (fConvert fp32 rne (nqFactor ((r a 0).toNat % 2 ^ 4) ((r a 0).toNat / 2 ^ 8 % 2 ^ 8))).bits)
  | .nqenc _ d a => some (d, 4, fun md r =>
      ([BitVec.ofNat 32 (nqEncode (f32 md r a)).1], (nqEncode (f32 md r a)).2))
  | _ => none
where
  /-- A saturated integer, with its flags. -/
  int (x : Int × BitVec 6) : List Word × BitVec 6 := ([BitVec.ofInt 32 x.1], x.2)

/-- R122, R123, R124: the words of class F of variable latency. -/
def approximate : Instr → Option (RegField × Nat × (FMode → Reads → List Word × BitVec 6))
  | .fdiv _ d a b => some (d, 1, fun md r => one (fDiv fp32 md (f32 md r a) (f32 md r b)))
  | .fsqrt _ d a => some (d, 1, fun md r => one (fSqrt fp32 md (f32 md r a)))
  | .ddiv _ d a b => some (d, 2, fun md r => dbl (fDiv fp64 md (f64 md r a) (f64 md r b)))
  | .dsqrt _ d a => some (d, 2, fun md r => dbl (fSqrt fp64 md (f64 md r a)))
  | .frcp _ d a => some (d, 1, fun md r => one (fRcp md (r a 0)))
  | .frsq _ d a => some (d, 1, fun md r => one (fRsq md (r a 0)))
  | .fex2 _ d a => some (d, 1, fun md r => one (fEx2 md (r a 0)))
  | .flg2 _ d a => some (d, 1, fun md r => one (fLg2 md (r a 0)))
  | .fsinp _ d a => some (d, 1, fun md r => one (fSinp md (r a 0)))
  | .fcosp _ d a => some (d, 1, fun md r => one (fCosp md (r a 0)))
  | .ftanh _ d a => some (d, 1, fun md r => one (fTanh md (r a 0)))
  | _ => none

end Sys2Proof.Rules

/-- R44, R46, R119 to R121, R123, R125 to R127: the arithmetic, compare and conversion words of class F of fixed latency, and the
NQ4 words, under the FMODE the word reads. -/
def Obligations.FloatingWords : Prop :=
  ∀ i d lat f, (floating i = some (d, lat, f) ∨ conversion i = some (d, lat, f)) →
    FixedWord i d lat (fun s is id => f ((s.ctx id).mode (s.now is.core)) ((s.ctx id).rd (s.now is.core))) noneBusy

/-- R122 to R124: a word of class F of variable latency puts one result with its flags into flight for each thread. -/
def Obligations.VariableFloatingWords : Prop :=
  ∀ i d n f, approximate i = some (d, n, f) → ∀ (s : State) (is : Issue), s.Ready is (wordInfo i) noneBusy →
    ∃ t, exec i s = .next t ∧
      s.Started t (is.cohort.map (fun id =>
        let r := f ((s.ctx id).mode (s.now is.core)) ((s.ctx id).rd (s.now is.core))
        { core := is.core, ctx := id, grp := is.key, block := (s.ctx id).block
          launch := (s.block (s.ctx id).block).launch
          dst := (List.range n).map ((s.ctx id).resolve (s.now is.core) d + ·), kind := .result r.1 none r.2 })) ∧
      (∀ id ∈ is.cohort, t.ctx id = { s.ctx id with pc := (s.ctx id).pc + 4 }) ∧
      t = { s with ctxs := t.ctxs, cores := t.cores, groups := t.groups, issue := none, ops := t.ops, nextOp := t.nextOp } ∧
      s.Elsewhere t is

namespace Sys2Proof.Rules

/-- The address [Va+off] (R71). -/
def address (c : Ctx) (now : Nat) (a : RegField) (off : Int) : DWord := c.rdPair now a + BitVec.ofInt 64 off

/-- Loads (R71, R132, R134, R135): destination, base, offset in bytes, size, sign extension, and the rejoin mask that LDWR
names. -/
def loads : Instr → Option (RegField × RegField × Int × Nat × Bool × Option (BitVec 3))
  | .ldb _ d a o => some (d, a, o.toInt, 1, false, none)
  | .ldbs _ d a o => some (d, a, o.toInt, 1, true, none)
  | .ldh _ d a o => some (d, a, o.toInt * 2, 2, false, none)
  | .ldhs _ d a o => some (d, a, o.toInt * 2, 2, true, none)
  | .ldw _ d a o => some (d, a, o.toInt * 4, 4, false, none)
  | .ldl _ d a o => some (d, a, o.toInt * 8, 8, false, none)
  | .ldq _ d a o => some (d, a, o.toInt * 16, 16, false, none)
  | .ldwr _ d a r => some (d, a, 0, 4, false, some r)
  | .ldacq _ d a _ => some (d, a, 0, 4, false, none)
  | _ => none

/-- Stores (R71, R132, R135): source, base, offset in bytes, size, and whether the store is a release. -/
def stores : Instr → Option (RegField × RegField × Int × Nat × Bool)
  | .stb _ d a o => some (d, a, o.toInt, 1, false)
  | .sth _ d a o => some (d, a, o.toInt * 2, 2, false)
  | .stw _ d a o => some (d, a, o.toInt * 4, 4, false)
  | .stl _ d a o => some (d, a, o.toInt * 8, 8, false)
  | .stq _ d a o => some (d, a, o.toInt * 16, 16, false)
  | .strel _ d a _ => some (d, a, 0, 4, true)
  | _ => none

/-- The n lowest bytes of the registers at d, lowest first (R2). -/
def stored (c : Ctx) (now : Nat) (d : RegField) (n : Nat) : List Byte :=
  (List.range n).map (fun k => BitVec.ofNat 8 ((c.rd now d (k / 4)).toNat / 2 ^ (8 * (k % 4))))

/-- An operation of one thread, with the names of its thread, group, block and launch. -/
def operation (s : State) (is : Issue) (id : Nat) (dst : List Nat) (ea : DWord) (size : Nat) (w mod : Bool)
    (kind : OpKind) : Op :=
  { core := (s.ctx id).core, ctx := id, grp := is.key, block := (s.ctx id).block
    launch := (s.block (s.ctx id).block).launch, dst := dst, va := ea
    info := BitVec.ofNat 32 (Nat.log2 size + (if w then 8 else 0)), pc := is.pc, mod := mod, kind := kind }

/-- The word at a physical address, as a thread sees it. -/
def wordAtPhys (s : State) (id pa : Nat) : Word := BitVec.ofNat 32 (s.physNat (s.ctx id).core pa 4)

/-- The value-returning atomics (R137): the new value from the old one, none where nothing is written. -/
def atomics : Instr → Option (RegField × RegField × BitVec 3 × (Reads → Word → Option Word))
  | .aadd _ p d a b => some (d, a, p, fun r x => some (BitVec.ofNat 32 (x.toNat + (r b 0).toNat)))
  | .axchg _ p d a b => some (d, a, p, fun r _ => some (r b 0))
  | .acas _ p d a b => some (d, a, p, fun r x => if x = r d 0 then some (r b 0) else none)
  | .amin _ p d a b => some (d, a, p, fun r x => some (BitVec.ofInt 32 (min x.toInt (r b 0).toInt)))
  | .amax _ p d a b => some (d, a, p, fun r x => some (BitVec.ofInt 32 (max x.toInt (r b 0).toInt)))
  | .aand _ p d a b => some (d, a, p, fun r x => some (x &&& r b 0))
  | .aor _ p d a b => some (d, a, p, fun r x => some (x ||| r b 0))
  | .afadd _ p d a b => some (d, a, p, fun r x => some (addF32 x (r b 0)))
  | _ => none

/-- n bytes from an address that lie in memory: no register, no control register, nothing of the management space, nothing
of a trace's region. -/
def InMemory (pa n : Nat) : Prop :=
  0 < n ∧ ∀ j, j < n → match regionOf (pa + j) with
    | .registers _ _ => False
    | .control _ _ => False
    | .mgmt _ => False
    | .store _ _ => False
    | _ => True

/-- No word of n bytes from x on is a lock that is held and waited for, a word of a barrier object, or a word of a ring
header in use: a header with claims outstanding or threads parked at it (R138, R191). -/
def Unguarded (s : State) (x n : Nat) : Prop :=
  ∀ w, x / 4 * 4 ≤ w → w < x + n → w % 4 = 0 →
    (s.locks.get? w = none ∨ s.NoneWait (fun q => match q with | .qlock a _ => decide (a = w) | _ => false)) ∧
    (s.bars.getD (w / 16 * 16) {}).armed = false ∧ s.rings.get? (w / 16 * 16) = none ∧
    s.NoneWait (fun q => match q with | .ring a _ _ _ _ _ => decide (a = w / 16 * 16) | _ => false)

/-- The slots after a write to memory: one whose WAITW waits reads its word again (R248). -/
def rereads (s : State) : Store Slot := s.slots.map (fun p => (p.1, { p.2 with awake := p.2.awake || p.2.begun }))

/-- The addresses of uncorrectable errors that remain after n bytes from x on have been written. -/
def eccLeft (s : State) (x n : Nat) : List Nat := s.ecc.filter (fun a => !(decide (x ≤ a) && decide (a < x + n)))

/-- No matrix operation whose outcome the thread has not observed writes n bytes from pa on, and none that what stands in its
lane has not observed reads or writes them (R64). -/
def NotMatrix (s : State) (id pa n : Nat) : Prop :=
  ∀ i, i < n → s.matrixOwns id (pa + i) = false ∧
    ∀ j, s.memberAt (s.groupOf (s.ctx id)) (s.ctx id).lane = some j → s.matrixTouches j (pa + i) = false

/-- The thread goes on to the next word, past the store or atomic that a FENCE before it made a release (R140). -/
def Released (s t : State) (id : Nat) : Prop := t.ctx id = { s.ctx id with pc := (s.ctx id).pc + 4, fenced := false }

/-- An address outside the region of every live trace, where what a program writes leaves undefined values (R198). -/
abbrev OffTrace (pa : Nat) : Prop := pa < storeBase

/-- Waits for a tagged word. -/
def taggedWait (pa : Nat) : Park → Bool
  | .tagged h _ _ _ => decide (h = pa)
  | _ => false

end Sys2Proof.Rules

/-- R71, R128, R132, R134, R135: a load of one thread whose checks pass puts its access into flight and changes no
register, no memory and no flag itself; LDWR asks that the thread is in the rejoin mask it names, as it stood before the chain
(R25). A load through the thread's own register window goes before a later write to those registers (R57). -/
def Obligations.LoadWords : Prop :=
  ∀ i d a off size signed mask, loads i = some (d, a, off, size, signed, mask) →
    ∀ (s s' : State) (is : Issue) (id pa : Nat) (uc mod : Bool), is.cohort = [id] → s.Ready is (wordInfo i) noneBusy →
    (∀ r, mask = some r → ((s.chainBase is).rj.getD r.toNat 0).getLsbD (s.ctx id).lane = true) →
    let ea := address (s.ctx id) (s.now is.core) a off
    s.access (s.ctx id) ea size size needR false .plain = .ok pa uc mod →
    s.recordAccess (s.ctx id) mod false pa size ea = .inl s' →
    s.responseError (s.ctx id).core pa size = none →
    ∃ t, exec i s = .next t ∧
      s.Started t [{ operation s is id ((List.range ((size + 3) / 4)).map ((s.ctx id).resolve (s.now is.core) d + ·)) ea size
        false mod (.load pa size signed) with late := mask.isSome, src := s.ownWindow id pa size }] ∧
      s.Advances t id ∧
      t = { s with
        ctxs := t.ctxs, cores := t.cores, groups := t.groups, issue := none, ops := t.ops, nextOp := t.nextOp
        traces := s'.traces } ∧
      s.Elsewhere t is

/-- R69, R71, R128, R132, R135, R238: a store of one thread whose checks pass leaves the thread: as an operation in
flight, or, from a deterministic or restartable block to global memory, as the next record of the block's stream. It
changes no byte of memory itself, and is the store that a FENCE before it made a release (R140). -/
def Obligations.StoreWords : Prop :=
  ∀ i d a off size release, stores i = some (d, a, off, size, release) →
    ∀ (s s' : State) (is : Issue) (id pa : Nat) (uc mod : Bool), is.cohort = [id] → s.Ready is (wordInfo i) noneBusy →
    stageFull (fun s is c => address c (s.now is.core) a off) size s is = none → (release = true → deferredAt false true (s.ctx id) = none) →
    let c := s.ctx id
    let ea := address c (s.now is.core) a off
    s.access c ea size size needW true .plain = .ok pa uc mod →
    s.recordAccess c mod true pa size ea = .inl s' →
    (((s.isDet c || s.isRestart c) && stagedRegion (regionOf pa)) = false →
      ∃ t, exec i s = .next t ∧
        s.Started t [{ operation s is id (s.ownWindow id pa size) ea size true mod
          (.store pa (stored c (s.now is.core) d size) release) with err := (s.accessError c.core pa size).map (·.1) }] ∧
        Released s t id ∧
        t = { s with
          ctxs := t.ctxs, cores := t.cores, groups := t.groups, issue := none, ops := t.ops, nextOp := t.nextOp
          traces := s'.traces } ∧
        s.Elsewhere t is) ∧
    (((s.isDet c || s.isRestart c) && stagedRegion (regionOf pa)) = true →
      (s.isDet c = true → stagedSize (s.block c.block).stage + 10 + size ≤ Config.stageLimit) →
      (s.blocks.get? c.block).isSome = true →
      ∃ t, exec i s = .next t ∧
        t.block c.block = { s.block c.block with
          stage := (s.block c.block).stage ++
            [⟨(s.groupOf c).index, c.lane, s.seq, pa, 0, stored c (s.now is.core) d size⟩] } ∧
        Released s t id ∧
        t = { s with
          ctxs := t.ctxs, cores := t.cores, groups := t.groups, issue := none, blocks := t.blocks, seq := s.seq + 1
          traces := s'.traces } ∧
        s.Elsewhere t is)

/-- R58, R59, R133: the full/empty words on a scratchpad word for which no thread waits, by a thread with nothing in
flight: an access that its tag lets in is made with its tag set in one step, and one that it does not let in parks. An
access that lets in a parked thread serves the one that has waited longest in the same step: an STF hands its word to a
parked LDF, which empties it and goes on behind its word. No matrix operation works on the word. -/
def Obligations.TaggedWords : Prop :=
  (∀ (ctl : Ctl) (d a : RegField) (o : BitVec 7) (s : State) (is : Issue) (id pa core off : Nat) (uc mod : Bool),
    is.cohort = [id] → s.Idle id → s.NoneWait (taggedWait pa) → NotMatrix s id pa 4 → deferredAt false true (s.ctx id) = none →
    let c := s.ctx id
    let now := s.now is.core
    let ea := address c now a (o.toInt * 4)
    let word : Word := BitVec.ofNat 32 (s.physNat 255 pa 4)
    let value := [operation s is id [c.resolve now d] ea 4 true false (.value pa [word])]
    let filled := fun t : State => s.mem.Wrote t.mem pa (stored c now d 4) ∧ t.isFull pa = true
    let kept := fun t : State => (∀ x, x ≠ pa → t.isFull x = s.isFull x) ∧ s.Elsewhere t is ∧
      t = { s with ctxs := t.ctxs, cores := t.cores, groups := t.groups, issue := none, ops := t.ops, nextOp := t.nextOp
                   mem := t.mem, full := t.full, seq := t.seq }
    let parked := fun (t : State) (p : Park) => t.ctx id = { c with status := .parked p s.seq (autoScope c.core core) 0 } ∧
      t.mem = s.mem ∧ t.isFull pa = s.isFull pa ∧ t.ops = s.ops
    s.access c ea 4 4 needRW true .tagged = .ok pa uc mod → regionOf pa = .scratch core off →
    s.responseError c.core pa 4 = none →
    (s.Ready is (wordInfo (.ldf ctl d a o)) (s.barred false) → s.tagWaitTrap c is.pc core off = none →
      ∃ t, exec (.ldf ctl d a o) s = .next t ∧ kept t ∧
        if s.isFull pa then s.Started t value ∧ s.Advances t id ∧ t.mem = s.mem ∧ t.isFull pa = false
        else parked t (.tagged pa 0 (c.resolve now d) 0)) ∧
    (s.Ready is (wordInfo (.ldff ctl d a o)) (s.barred false) → s.tagWaitTrap c is.pc core off = none →
      ∃ t, exec (.ldff ctl d a o) s = .next t ∧ kept t ∧
        if s.isFull pa then s.Started t value ∧ s.Advances t id ∧ t.mem = s.mem ∧ t.isFull pa = true
        else parked t (.tagged pa 1 (c.resolve now d) 0)) ∧
    (s.Ready is (wordInfo (.ste ctl d a o)) noneBusy → s.tagWaitTrap c is.pc core off = none →
      ∃ t, exec (.ste ctl d a o) s = .next t ∧ kept t ∧
        if s.isFull pa then parked t (.tagged pa 2 0 (c.rd now d 0)) else filled t ∧ s.Advances t id ∧ t.ops = s.ops) ∧
    (s.Ready is (wordInfo (.stf ctl d a o)) noneBusy →
      ∃ t, exec (.stf ctl d a o) s = .next t ∧ kept t ∧ filled t ∧ s.Advances t id ∧ t.ops = s.ops) ∧
    (s.Ready is (wordInfo (.sete ctl a o)) (s.barred false) →
      ∃ t, exec (.sete ctl a o) s = .next t ∧ kept t ∧ t.mem = s.mem ∧ t.isFull pa = false ∧ s.Advances t id ∧ t.ops = s.ops)) ∧
  ∀ (ctl : Ctl) (d a : RegField) (o : BitVec 7) (s : State) (is : Issue) (id w pa core off dst arr sc n : Nat)
    (uc mod : Bool), is.cohort = [id] → w ≠ id → s.Idle id → deferredAt false true (s.ctx id) = none → NotMatrix s id pa 4 →
    (∀ i, i < 4 → s.matrixOwns w (pa + i) = false) → s.Ready is (wordInfo (.stf ctl d a o)) noneBusy →
    s.access (s.ctx id) (address (s.ctx id) (s.now is.core) a (o.toInt * 4)) 4 4 needRW true .tagged = .ok pa uc mod →
    regionOf pa = .scratch core off → s.isFull pa = false → s.responseError (s.ctx id).core pa 4 = none →
    s.waiters (taggedWait pa) = [w] → (s.ctx w).status = .parked (.tagged pa 0 dst 0) arr sc n →
    ∃ t, exec (.stf ctl d a o) s = .next t ∧ t.isFull pa = false ∧ s.Advances t id ∧
      (t.ctx w).status = .running ∧ (t.ctx w).pc = (s.ctx w).pc + 4 ∧
      ∀ m, (t.ctx w).readV m dst = (s.ctx id).rd (s.now is.core) d 0

/-- R137, R138: an atomic of one thread whose checks pass completes: the thread goes on and one operation is in flight to
its destination, with the old value; it is the release that a FENCE before it asks for (R140). With nothing of the thread's in flight, at a word that is no object in use and that no
matrix operation works on, the old value is what memory holds, and memory then holds the new one at once; a failing ACAS
writes nothing. -/
def Obligations.AtomicWords : Prop :=
  ∀ i d a p f, atomics i = some (d, a, p, f) → ∀ (s : State) (is : Issue) (id pa : Nat) (uc mod : Bool),
    is.cohort = [id] → s.Ready is (wordInfo i) (s.barred true) → deferredAt false true (s.ctx id) = none →
    let c := s.ctx id
    let now := s.now is.core
    let ea := address c now a 0
    let x := memKey c.core pa
    s.access c ea 4 4 needRW true .atomic = .ok pa uc mod →
    s.atomicTrap c pa mod (atomicDet pa p) ea (Nat.log2 4 + 8) = none → s.responseError c.core pa 4 = none →
    (∃ t w, exec i s = .next t ∧ (t.ctx id).pc = c.pc + 4 ∧ t.nextOp = s.nextOp + 1 ∧
      t.ops.get? s.nextOp = some (operation s is id [c.resolve now d] ea 4 true mod (.value pa [w]))) ∧
    (s.Idle id → OffTrace pa → Unguarded s x 4 → NotMatrix s id pa 4 →
      ∃ t, exec i s = .next t ∧
        s.Started t [operation s is id [c.resolve now d] ea 4 true mod (.value pa [wordAtPhys s id pa])] ∧
        Released s t id ∧ s.Elsewhere t is ∧
        match f (c.rd now) (wordAtPhys s id pa) with
        | some w => s.mem.Wrote t.mem x (toBytes 4 w.toNat) ∧
          t = { s with
            ctxs := t.ctxs, cores := t.cores, groups := t.groups, issue := none, ops := t.ops, nextOp := t.nextOp
            mem := t.mem, ecc := eccLeft s x 4, slots := rereads s }
        | none => t = { s with
            ctxs := t.ctxs, cores := t.cores, groups := t.groups, issue := none, ops := t.ops, nextOp := t.nextOp })

/-- R69, R139: RED leaves its thread as an operation in flight that returns nothing, or as a record of a deterministic
block's stream. -/
def Obligations.ReductionWord : Prop :=
  ∀ (ctl : Ctl) (p : BitVec 3) (k a b : RegField) (s : State) (is : Issue) (id pa : Nat) (uc mod : Bool),
    is.cohort = [id] → s.Ready is (wordInfo (.red ctl p k a b)) noneBusy → deferredAt false true (s.ctx id) = none →
    stageFull (fun s is c => address c (s.now is.core) a 0) 4 s is = none →
    let c := s.ctx id
    let now := s.now is.core
    let ea := address c now a 0
    let size := if k.toNat = 7 then 8 else 4
    k.toNat ≤ 9 → s.access c ea size size needRW true .atomic = .ok pa uc mod →
    s.atomicTrap c pa mod false ea (Nat.log2 size + 8) = none →
    ((s.isDet c && stagedRegion (regionOf pa)) = false →
      ∃ t, exec (.red ctl p k a b) s = .next t ∧
        s.Started t [{ operation s is id [] ea size true mod (.reduce pa k.toNat (c.rd now b 0)) with
          err := (s.accessError c.core pa size).map (·.1) }] ∧
        s.Advances t id ∧
        t = { s with ctxs := t.ctxs, cores := t.cores, groups := t.groups, issue := none, ops := t.ops, nextOp := t.nextOp } ∧
        s.Elsewhere t is) ∧
    ((s.isDet c && stagedRegion (regionOf pa)) = true →
      (s.blocks.get? c.block).isSome = true →
      ∃ t, exec (.red ctl p k a b) s = .next t ∧ t.mem = s.mem ∧
        (stagedSize (s.block c.block).stage + 14 ≤ Config.stageLimit →
          t.block c.block = { s.block c.block with
            stage := (s.block c.block).stage ++
              [⟨(s.groupOf c).index, c.lane, s.seq, pa, 1 + k.toNat, toBytes 4 (c.rd now b 0).toNat⟩] } ∧
          s.Advances t id ∧ s.Elsewhere t is))

/-- R61, R129, R141: WAITV goes on where the word differs from V[b] and falls asleep where it does not; NOTIFY wakes the
oldest sleeper, or all of them, behind their words. -/
def Obligations.WaitAndNotify : Prop :=
  (∀ (ctl : Ctl) (p : BitVec 3) (a b : RegField) (s s' : State) (is : Issue) (id pa : Nat) (uc mod : Bool),
    is.cohort = [id] → s.Idle id → s.Ready is (wordInfo (.waitv ctl p a b)) (s.barred false) →
    deferredAt false true (s.ctx id) = none →
    let c := s.ctx id
    let now := s.now is.core
    let ea := address c now a 0
    let w := memKey c.core pa
    s.waitTrap c is.pc p.toNat (c.rd now b 1).toNat = none →
    s.access c ea 4 4 needR false .atomic = .ok pa uc mod →
    s.atomicTrap c pa false (decide (1 < p.toNat)) ea (Nat.log2 4) = none →
    s.recordAccess c mod false pa 4 ea = .inl s' → s.responseError c.core pa 4 = none →
    ∃ t, exec (.waitv ctl p a b) s = .next t ∧
      (if BitVec.ofNat 32 (s.threadNat id pa 4) = c.rd now b 0 then
        t.ctx id = { c with status := .parked (.waitv w) s.seq p.toNat 0 } else s.Advances t id) ∧
      t = { s with ctxs := t.ctxs, cores := t.cores, groups := t.groups, issue := none, traces := s'.traces, seq := t.seq } ∧
      s.Elsewhere t is) ∧
  ∀ (ctl : Ctl) (p : BitVec 3) (k a : RegField) (s : State) (is : Issue) (id pa : Nat) (uc mod : Bool),
    is.cohort = [id] → s.Idle id → s.Ready is (wordInfo (.notify ctl p k a)) noneBusy →
    deferredAt false true (s.ctx id) = none → k.toNat ≤ 1 →
    let c := s.ctx id
    let ea := address c (s.now is.core) a 0
    s.access c ea 4 4 needRW true .atomic = .ok pa uc mod →
    s.atomicTrap c pa mod (decide (1 < p.toNat)) ea (Nat.log2 4 + 8) = none →
    s.responseError c.core pa 4 = none →
    let sleepers := s.waiters (fun q => decide (q = .waitv (memKey c.core pa)))
    let woken := if k.toNat = 1 then sleepers else sleepers.take 1
    id ∉ sleepers →
    ∃ t, exec (.notify ctl p k a) s = .next t ∧ s.Advances t id ∧
      (∀ w ∈ woken, t.ctx w = { s.ctx w with status := .running, pc := (s.ctx w).pc + 4 }) ∧
      (∀ w, w ∉ woken → w ≠ id → t.ctx w = s.ctx w) ∧
      t = { s with ctxs := t.ctxs, cores := t.cores, groups := t.groups, issue := none }

/-- R129, R142: QLOCK takes a free lock, and queues for one that another thread holds; QUNLOCK frees it, or hands it to the
thread that has queued longest in the same step. The lock word names the holder. -/
def Obligations.QueueLocks : Prop :=
  ∀ (ctl : Ctl) (p : BitVec 3) (a : RegField) (s : State) (is : Issue) (id pa : Nat) (uc mod : Bool),
    is.cohort = [id] → s.Idle id → deferredAt false true (s.ctx id) = none → (s.ctx id).status = .running →
    let c := s.ctx id
    let ea := address c (s.now is.core) a 0
    let x := memKey c.core pa
    let held := 1 + ((if isSteward c.core then 255 else c.core) * 2 ^ 12 + c.slot * 2 ^ 5 + c.lane)
    s.access c ea 4 4 needRW true .atomic = .ok pa uc mod → OffTrace pa →
    s.atomicTrap c pa mod (decide (1 < p.toNat)) ea (Nat.log2 4 + 8) = none →
    s.responseError c.core pa 4 = none →
    (s.Ready is (wordInfo (.qlock ctl p a)) (s.barred false) →
      s.waitTrap c is.pc p.toNat (c.readV (s.now is.core) 1).toNat = none →
      (s.locks.get? x = none →
        ∃ t, exec (.qlock ctl p a) s = .next t ∧ t.locks.get? x = some id ∧ s.mem.Wrote t.mem x (toBytes 4 held) ∧
          s.Advances t id ∧ t = { s with ctxs := t.ctxs, cores := t.cores, groups := t.groups, issue := none, mem := t.mem
                                         locks := t.locks, slots := rereads s } ∧ s.Elsewhere t is) ∧
      (∀ h, s.locks.get? x = some h → h ≠ id →
        ∃ t, exec (.qlock ctl p a) s = .next t ∧ t.locks = s.locks ∧ t.mem = s.mem ∧
          t.ctx id = { c with status := .parked (.qlock x held) s.seq p.toNat 0 } ∧ t = { s with
            ctxs := t.ctxs, cores := t.cores, groups := t.groups, issue := none, seq := s.seq + 1 } ∧ s.Elsewhere t is)) ∧
    (s.Ready is (wordInfo (.qunlock ctl p a)) noneBusy → s.locks.get? x = some id →
      let queue := s.waiters (fun q => match q with | .qlock h _ => decide (h = x) | _ => false)
      (queue = [] →
        ∃ t, exec (.qunlock ctl p a) s = .next t ∧ t.locks.get? x = none ∧ s.mem.Wrote t.mem x (toBytes 4 0) ∧
          s.Advances t id ∧ t = { s with ctxs := t.ctxs, cores := t.cores, groups := t.groups, issue := none, mem := t.mem
                                         locks := t.locks, slots := rereads s } ∧ s.Elsewhere t is) ∧
      (∀ w l v n m y, queue = w :: l → (s.ctx w).status = .parked (.qlock x v) n m y →
        ∃ t, exec (.qunlock ctl p a) s = .next t ∧ t.locks.get? x = some w ∧ s.mem.Wrote t.mem x (toBytes 4 v) ∧
          t.ctx w = { s.ctx w with status := .running, pc := (s.ctx w).pc + 4 } ∧ s.Advances t id))

/-- R138, R143 to R145: BINIT writes an armed object whose count it takes from V[b]; an arrival that is not the last parks
with one arrival fewer awaited; the last one lets every parked thread go and rearms the object. A load reads the object as
Table 14.1 lays it out, where no store has left a word of it undefined. -/
def Obligations.BarrierObjects : Prop :=
  ∀ (ctl : Ctl) (p : BitVec 3) (k a b : RegField) (s : State) (is : Issue) (id pa : Nat) (uc mod : Bool),
    is.cohort = [id] → s.Idle id → deferredAt false true (s.ctx id) = none →
    let c := s.ctx id
    let now := s.now is.core
    let ea := address c now a 0
    let x := memKey c.core pa
    let object := fun (remain init bits : Nat) => toBytes 4 remain ++ toBytes 4 init ++ toBytes 4 bits ++ toBytes 4 0
    let q := s.bars.getD x {}
    let written := fun t : State => s.Elsewhere t is ∧ (∀ y, y ≠ x → t.bars.get? y = s.bars.get? y) ∧
      (∀ y, y ≠ x → t.barFaults.get? y = s.barFaults.get? y) ∧
      t = { s with ctxs := t.ctxs, cores := t.cores, groups := t.groups, issue := none, mem := t.mem, bars := t.bars
                   barFaults := t.barFaults, slots := rereads s, seq := t.seq }
    s.access c ea 16 16 needRW true .atomic = .ok pa uc mod → OffTrace pa →
    s.atomicTrap c pa mod false ea (Nat.log2 16 + 8) = none → s.responseError c.core pa 16 = none →
    (s.Ready is (wordInfo (.binit ctl p k a b)) (s.barred false) → k.toNat ≤ 1 →
      0 < (c.rd now b 0).toNat → (c.rd now b 0).toNat < 2 ^ 31 → s.barWaiters x = [] → s.copyNames x = false →
      ∃ t, exec (.binit ctl p k a b) s = .next t ∧
        s.mem.Wrote t.mem x (object (c.rd now b 0).toNat (c.rd now b 0).toNat (1 + 2 * k.toNat + 4 * p.toNat)) ∧
        t.bars.get? x = some { remain := (c.rd now b 0).toNat, init := (c.rd now b 0).toNat, armed := true
                               bytes := decide (k.toNat = 1), scope := p.toNat } ∧
        t.barFaults.get? x = none ∧ s.Advances t id ∧ written t) ∧
    (s.Ready is (wordInfo (.bar ctl p a)) noneBusy → s.waitTrap c is.pc p.toNat (c.readV now 1).toNat = none →
      q.armed = true → q.bytes = false → q.scope = p.toNat → q.damaged = [] →
      (2 ≤ q.remain →
        ∃ t, exec (.bar ctl p a) s = .next t ∧
          s.mem.Wrote t.mem x (object (q.remain - 1) q.init (1 + 4 * p.toNat + 2 ^ 8 * q.phase)) ∧
          t.bars.get? x = some { q with remain := q.remain - 1 } ∧
          t.ctx id = { c with status := .parked (.bar x) s.seq p.toNat 0 } ∧ t.barFaults = s.barFaults ∧ written t) ∧
      (q.remain ≤ 1 → s.barFaults.get? x = none → id ∉ s.barWaiters x →
        ∃ t, exec (.bar ctl p a) s = .next t ∧
          s.mem.Wrote t.mem x (object q.init q.init (1 + 4 * p.toNat + 2 ^ 8 * ((q.phase + 1) % 2 ^ 8))) ∧
          t.bars.get? x = some { q with remain := q.init, phase := (q.phase + 1) % 2 ^ 8 } ∧
          s.Advances t id ∧
          (∀ w ∈ s.barWaiters x, t.ctx w = { s.ctx w with status := .running, pc := (s.ctx w).pc + 4 }) ∧
          ∀ w, w ∉ s.barWaiters x → w ≠ id → t.ctx w = s.ctx w))

namespace Sys2Proof.Rules

/-- The word's only effect is that its threads go on to the next word. -/
def Passes (i : Instr) (s : State) (is : Issue) (t : State) : Prop :=
  exec i s = .next t ∧ (∀ id ∈ is.cohort, s.Advances t id) ∧
    t = { s with ctxs := t.ctxs, cores := t.cores, groups := t.groups, issue := none } ∧ s.Elsewhere t is

/-- Branches (R147): the target from the word's PC, and the register DBNZ writes. -/
def branches : Instr → Option (DWord → Reads → DWord × Option (RegField × Word))
  | .bra _ o => some (fun pc _ => (pc + BitVec.ofInt 64 (4 * o.toInt), none))
  | .bnz _ a o => some (fun pc r => (if r a 0 ≠ 0 then pc + BitVec.ofInt 64 (4 * o.toInt) else pc + 4, none))
  | .bz _ a o => some (fun pc r => (if r a 0 = 0 then pc + BitVec.ofInt 64 (4 * o.toInt) else pc + 4, none))
  | .dbnz _ a o => some (fun pc r =>
      (if r a 0 ≠ 1 then pc + BitVec.ofInt 64 (4 * o.toInt) else pc + 4, some (a, BitVec.ofInt 32 ((r a 0).toInt - 1))))
  | .brx _ a => some (fun _ r => (pair r a, none))
  | _ => none

/-- The target of CALL and CALLX (R147). -/
def callTarget : Instr → Option (DWord → Reads → DWord)
  | .call _ o => some (fun pc _ => pc + BitVec.ofInt 64 (4 * o.toInt))
  | .callx _ a => some (fun _ r => pair r a)
  | _ => none

end Sys2Proof.Rules

/-- R85, R136, R140, R152, R158: NOP, PREF of an address in range, FENCE whose order is satisfied, YIELD and ITLB of a
legal form leave every register and all of memory as they are. YIELD marks the group, whose next run starts after it; a FENCE
with a release marks its threads, whose next store or atomic is a release. -/
def Obligations.WordsWithoutResult : Prop :=
  (∀ ctl (s : State) (is : Issue), s.Ready is (wordInfo (.nop ctl)) noneBusy → ∃ t, Passes (.nop ctl) s is t) ∧
  (∀ ctl a (o : BitVec 7) (s : State) (is : Issue), s.Ready is (wordInfo (.pref ctl a o)) noneBusy →
    (∀ id ∈ is.cohort, (address (s.ctx id) (s.now is.core) a (o.toInt * 4)).toNat <
      2 ^ (if isSteward (s.ctx id).core then 52 else 56)) →
    ∃ t, Passes (.pref ctl a o) s is t) ∧
  (∀ ctl p k (s : State) (is : Issue), s.Ready is (wordInfo (.fence ctl p k)) noneBusy → fenceWaits k s is = none →
    (∀ id ∈ is.cohort, deferredAt false true (s.ctx id) = none) →
    ∃ t, exec (.fence ctl p k) s = .next t ∧
      (∀ id ∈ is.cohort, t.ctx id = { s.ctx id with
        pc := (s.ctx id).pc + 4, fenced := (s.ctx id).fenced || decide (2 ≤ k.toNat ∧ k.toNat ≤ 4) }) ∧
      t = { s with ctxs := t.ctxs, cores := t.cores, groups := t.groups, issue := none } ∧ s.Elsewhere t is) ∧
  (∀ ctl a (s : State) (is : Issue), s.Ready is (wordInfo (.itlb ctl a)) noneBusy → storesPending s is = none →
    (∀ id ∈ is.cohort, ((s.ctx id).rdPair (s.now is.core) a).toNat / 2 ^ 56 % 2 ^ 2 = 0 ∧
      ((s.ctx id).rdPair (s.now is.core) a).toNat / 2 ^ 58 % 2 ^ 2 ≠ 3) →
    ∃ t, Passes (.itlb ctl a) s is t) ∧
  ∀ ctl (s : State) (is : Issue), s.Ready is (wordInfo (.yield ctl)) noneBusy →
    ∃ t, Passes (.yield ctl) s is t ∧
      if ctl.e then (t.group is.key).yielded = some ((s.ctx (is.cohort.headD 0)).pc + 4)
      else (t.group is.key).yielding = true

/-- R146, R147: a branch sends each thread of its cohort to its own target and ends the run; DBNZ writes the decremented
register, and no other register changes. A computed target that is misaligned or beyond 56 bits traps instead. -/
def Obligations.BranchWords : Prop :=
  (∀ i f, branches i = some f → ∀ (s : State) (is : Issue), s.Ready is (wordInfo i) noneBusy →
    (∀ c a, i = .brx c a → ∀ id ∈ is.cohort, let p := (s.ctx id).rdPair (s.now is.core) a; p.toNat % 4 = 0 ∧ p.toNat < 2 ^ 56) →
    ∃ t, exec i s = .next t ∧
      (∀ id ∈ is.cohort,
        let c := s.ctx id
        let r := f is.pc (c.rd (s.now is.core))
        (t.ctx id).pc = r.1 ∧
        c.Writes { t.ctx id with pc := c.pc + 4 } (s.now is.core) 2
          (r.2.toList.map (fun x => (c.resolve (s.now is.core) x.1, x.2))) [] 0) ∧
      (t.group is.key).run = none ∧
      t = { s with ctxs := t.ctxs, cores := t.cores, groups := t.groups, issue := none } ∧ s.Elsewhere t is) ∧
  ∀ ctl a (s : State) (is : Issue), s.Ready is (wordInfo (.brx ctl a)) noneBusy →
    (∀ id ∈ is.cohort, (s.ctx id).handler = false ∧ s.handlerOf (s.ctx id) ≠ 0) →
    ∃ t, exec (.brx ctl a) s = .next t ∧ ∀ id ∈ is.cohort,
      let p := (s.ctx id).rdPair (s.now is.core) a
      (p.toNat % 4 ≠ 0 → t.ctx id = entered (s.ctx id) (s.handlerOf (s.ctx id)) is.pc p 0x103 0x12) ∧
      (p.toNat % 4 = 0 → 2 ^ 56 ≤ p.toNat → t.ctx id = entered (s.ctx id) (s.handlerOf (s.ctx id)) is.pc p 0x101 0x12)

/-- R147, R148: a call pushes the PC of the word after it and goes to its target, spilling the oldest of eight entries to
the thread's stack where the hardware entries are full; RET pops the newest entry, or fills it from memory, where the
spill area still holds what was spilled (a program that writes there gets an undefined value). -/
def Obligations.CallsAndReturns : Prop :=
  (∀ i f, callTarget i = some f → ∀ (s : State) (is : Issue), s.Ready is (wordInfo i) noneBusy →
    (∀ c a, i = .callx c a → ∀ id ∈ is.cohort, let p := (s.ctx id).rdPair (s.now is.core) a; p.toNat % 4 = 0 ∧ p.toNat < 2 ^ 56) →
    ((∀ id ∈ is.cohort, (s.ctx id).hw.length < 8) →
      ∃ t, exec i s = .next t ∧
        (∀ id ∈ is.cohort, t.ctx id = { s.ctx id with
          hw := (is.pc + 4) :: (s.ctx id).hw, pc := f is.pc ((s.ctx id).rd (s.now is.core)) }) ∧
        t = { s with ctxs := t.ctxs, cores := t.cores, groups := t.groups, issue := none } ∧ s.Elsewhere t is) ∧
    (∀ id pa uc mod, is.cohort = [id] → (s.ctx id).hw.length = 8 → (s.ctx id).spilled < s.spillDepth (s.ctx id) →
      let c := s.ctx id
      let ea := c.tls + BitVec.ofNat 64 (8 * c.spilled)
      s.access c ea 8 8 needW true .plain = .ok pa uc mod →
      ∃ t, exec i s = .next t ∧
        t.ctx id = { c with
          hw := (is.pc + 4) :: c.hw.dropLast, spilled := c.spilled + 1, kept := c.hw.getLastD 0 :: c.kept
          pc := f is.pc (c.rd (s.now is.core)) } ∧
        s.Started t [{ operation s is id [] ea 8 true false (.store pa (toBytes 8 (c.hw.getLastD 0).toNat) false) with
          err := (s.accessError c.core pa 8).map (·.1) }] ∧
        t.mem = s.mem ∧ s.Elsewhere t is)) ∧
  ∀ ctl (s : State) (is : Issue), s.Ready is (wordInfo (.ret ctl)) (s.barred false) →
    ((∀ id ∈ is.cohort, ∃ v l, (s.ctx id).hw = v :: l ∧ v.toNat % 4 = 0) →
      ∃ t, exec (.ret ctl) s = .next t ∧
        (∀ id ∈ is.cohort, t.ctx id = { s.ctx id with hw := (s.ctx id).hw.tail, pc := (s.ctx id).hw.headD 0 }) ∧
        t = { s with ctxs := t.ctxs, cores := t.cores, groups := t.groups, issue := none } ∧ s.Elsewhere t is) ∧
    (∀ id pa uc mod, is.cohort = [id] → (s.ctx id).hw = [] → 0 < (s.ctx id).spilled →
      let c := s.ctx id
      let ea := c.tls + BitVec.ofNat 64 (8 * (c.spilled - 1))
      s.access c ea 8 8 needR false .plain = .ok pa uc mod → s.responseError c.core pa 8 = none → s.Idle id →
      let v : DWord := BitVec.ofNat 64 (s.physNat c.core pa 8)
      c.kept.head? = some v → v.toNat % 4 = 0 →
      ∃ t, exec (.ret ctl) s = .next t ∧ t.ctx id = { c with spilled := c.spilled - 1, kept := c.kept.drop 1, pc := v } ∧
        t.mem = s.mem ∧ s.Elsewhere t is)

/-- R149, R151, R232, R233: TRAP enters the handler of each of its threads, with TPC at the word after it; TRET clears the
handler flag and goes on at TPC. -/
def Obligations.TrapAndReturn : Prop :=
  (∀ ctl (n : RegField) (s : State) (is : Issue), ctl.e = true → s.Ready is (wordInfo (.trap ctl n)) noneBusy →
    (∀ id ∈ is.cohort, (s.ctx id).handler = false ∧ s.handlerOf (s.ctx id) ≠ 0) →
    ∃ t, exec (.trap ctl n) s = .next t ∧
      (∀ id ∈ is.cohort, t.ctx id = entered (s.ctx id) (s.handlerOf (s.ctx id)) (is.pc + 4) is.pc
        (BitVec.ofNat 32 (0x3C0 + n.toNat)) (BitVec.ofNat 32 n.toNat)) ∧
      (t.group is.key).run = none ∧
      t = { s with ctxs := t.ctxs, cores := t.cores, groups := t.groups, issue := none } ∧ s.Elsewhere t is) ∧
  ∀ ctl (s : State) (is : Issue), ctl.e = true → s.Ready is (wordInfo (.tret ctl)) noneBusy →
    (∀ id ∈ is.cohort, (s.ctx id).tpc.toNat % 4 = 0 ∧
      (∀ e ∈ (s.ctx id).early, e.tgt ≠ .sp 0x40 ∧ e.tgt ≠ .sp 0x41) ∧
      ∀ k, s.launches.get? (s.block (s.ctx id).block).launch = some k → id ∉ k.deadlocked) →
    ∃ t, exec (.tret ctl) s = .next t ∧
      (∀ id ∈ is.cohort, t.ctx id = { s.ctx id with handler := false, pc := (s.ctx id).tpc }) ∧
      t = { s with ctxs := t.ctxs, cores := t.cores, groups := t.groups, issue := none } ∧ s.Elsewhere t is

/-- R101, R210, R232, R233: a trap where no handler may be entered ends the thread at the trapping word. On a user core its
launch ends with TRAPPED, the cause, the block, the thread and the PC; one of the threads that trapped in a firing of the
deadlock check leaves the launch to the others, and the last of them ends it with GROW_DEADLOCK; a steward halts. -/
def Obligations.TrapWithoutHandler : Prop :=
  ∀ (s : State) (id : Nat) (pc tpc : DWord) (tr : Trap), (s.ctxs.get? id).isSome = true →
    ((s.ctx id).handler = true ∨ s.handlerOf (s.ctx id) = 0) →
    let c := s.ctx id
    let t := s.trapThread id pc tpc tr
    (isSteward c.core = true → (t.steward (c.core - 192)).halted = true ∧ (t.ctx id).status = .ended tr pc) ∧
    (isSteward c.core = false → ∀ l, s.launches.get? (s.block c.block).launch = some l → l.prop = none → l.ending = none →
      l.gang = none → s.blocks.get? c.block ≠ none →
      (t.ctx id).status = .ended tr pc ∧ (t.ctx id).pc = pc ∧ t.mem = s.mem ∧
      let now := (t.launches.getD (s.block c.block).launch {}).ending
      (id ∉ l.deadlocked → now = some ⟨2, tr.cause, (s.block c.block).index, c.tid, pc, 0⟩) ∧
      (id ∈ l.deadlocked → (∃ u ∈ l.deadlocked, u ≠ id) → now = none) ∧
      ((∀ u, u ∈ l.deadlocked ↔ u = id) → now = l.deadlock))

/-- R26, R150: EXIT ends its thread, with every result landed, and no other thread where none waits for it. -/
def Obligations.ExitWord : Prop :=
  ∀ ctl (i : BitVec 4) (s : State) (is : Issue) (id : Nat), ctl.e = true → is.cohort = [id] →
    s.Ready is (wordInfo (.exit ctl i)) noneBusy → (i = 0 ∨ storesPending s is = none) →
    deferredAt true true (s.ctx id) = none → (s.isTraced (s.ctx id) = true → 6 ≤ i.toNat ∧ i.toNat ≤ 8) →
    s.exitPending (s.ctx id) id = none → s.closingFull (s.ctx id) id is.pc = none →
    (s.group (groupKey (s.ctx id).core (s.ctx id).slot)).arrived = [] →
    s.NoneWait (fun p => match p with | .regrp _ => true | _ => false) →
    (∀ k, s.launches.get? (s.block (s.ctx id).block).launch = some k → id ∉ k.deadlocked) →
    ∃ t, exec (.exit ctl i) s = .next t ∧ t.ctx id = { (s.ctx id).land with status := .exited } ∧
      (t.group is.key).run = none ∧
      t = { s with ctxs := t.ctxs, cores := t.cores, groups := t.groups, issue := none } ∧ s.Elsewhere t is

/-- R26, R153: JOINSET sets a mask no thread has arrived at; the threads of one JOIN arrive together, and where every lane
of the mask then holds an arrived or exited thread all that have arrived go on; else they park. -/
def Obligations.RejoinMasks : Prop :=
  (∀ ctl (r : BitVec 3) a (s : State) (is : Issue), s.Ready is (wordInfo (.joinset ctl r a)) noneBusy →
    (s.group is.key).arrived.getD r.toNat 0 = 0 →
    ∃ t, exec (.joinset ctl r a) s = .next t ∧ (∀ id ∈ is.cohort, s.Advances t id) ∧
      (t.group is.key).rj.getD r.toNat 0 = (s.ctx (is.cohort.headD 0)).rd (s.now is.core) a 0 ∧
      (∀ n, n ≠ r.toNat → (t.group is.key).rj.getD n 0 = (s.group is.key).rj.getD n 0) ∧
      t = { s with ctxs := t.ctxs, cores := t.cores, groups := t.groups, issue := none }) ∧
  ∀ ctl (r : BitVec 3) (s : State) (is : Issue), s.Ready is (wordInfo (.join ctl r)) noneBusy →
    let g := s.group is.key
    let mask := g.rj.getD r.toNat 0
    (∀ id ∈ is.cohort, id ∈ g.members ∧ (s.ctx id).lane < 32 ∧ mask.getLsbD (s.ctx id).lane = true) →
    let complete := ∀ l, l < 32 → mask.getLsbD l = true →
      (∃ id ∈ is.cohort, (s.ctx id).lane = l) ∨ (g.arrived.getD r.toNat 0).getLsbD l = true ∨
        ∀ m, s.memberAt g l = some m → (s.ctx m).live = false
    ∃ t, exec (.join ctl r) s = .next t ∧ t.mem = s.mem ∧ t.ops = s.ops ∧
      (complete → (t.group is.key).arrived.getD r.toNat 0 = 0 ∧
        (∀ id ∈ is.cohort, t.ctx id = { s.ctx id with status := .running, pc := (s.ctx id).pc + 4 }) ∧
        ∀ w ∈ g.members, w ∉ is.cohort → (s.ctx w).parkKind = some (.join r.toNat) →
          t.ctx w = { s.ctx w with status := .running, pc := (s.ctx w).pc + 4 }) ∧
      (¬ complete → (∀ id ∈ is.cohort, (t.ctx id).parkKind = some (.join r.toNat) ∧ (t.ctx id).pc = (s.ctx id).pc ∧
          ((t.group is.key).arrived.getD r.toNat 0).getLsbD (s.ctx id).lane = true) ∧
        ∀ w, w ∉ is.cohort → t.ctx w = s.ctx w)

/-- R32, R154: a REGRP parks its threads with their keys until every live thread of the block's groups on the core has
arrived; in a block of one group there, the last arrival lets them all go on in their lanes. Over several groups of equal
allocation it sorts the contexts of each lane, and the one that r others precede goes to the r-th slot; nothing else of a
context changes. -/
def Obligations.RegroupWord : Prop :=
  ∀ ctl a (s : State) (is : Issue), s.Ready is (wordInfo (.regrp ctl a)) noneBusy →
    let c := s.ctx (is.cohort.headD 0)
    let ps := s.participants c.block is.core
    s.waitTrap c is.pc 1 0 = none →
    ((∃ g ∈ ps, ∃ m ∈ (s.group g).members, (s.ctx m).live = true ∧ m ∉ is.cohort ∧
        ∀ k, (s.ctx m).parkKind ≠ some (.regrp k)) →
      ∃ t, exec (.regrp ctl a) s = .next t ∧ t.mem = s.mem ∧
        (∀ id ∈ is.cohort, (t.ctx id).parkKind = some (.regrp ((s.ctx id).rd (s.now is.core) a 0)) ∧
          (t.ctx id).pc = (s.ctx id).pc) ∧
        ∀ w, w ∉ is.cohort → t.ctx w = s.ctx w) ∧
    (ps = [is.key] → (s.group is.key).saved = none →
      (∀ id ∈ is.cohort, (s.ctx id).lane < 32 ∧ s.memberAt (s.group is.key) (s.ctx id).lane = some id) →
      (∀ m ∈ (s.group is.key).members, m ∈ is.cohort ∨ (s.ctx m).live = false) →
      (∀ p ∈ (s.group is.key).rj, p.2 = 0) → (∀ p ∈ (s.block c.block).cv, p.2.signed = []) →
      ∃ t, exec (.regrp ctl a) s = .next t ∧ t.mem = s.mem ∧
        ∀ id ∈ is.cohort, t.ctx id = { s.ctx id with
          status := .running, pc := (s.ctx id).pc + 4, slot := is.key % 128 }) ∧
    let all := ps.flatMap (fun g => (s.group g).members)
    let live := fun m => decide (m ∈ is.cohort) || (s.ctx m).live
    let key := fun m => if m ∈ is.cohort then (s.ctx m).rd (s.now is.core) a 0 else
      match (s.ctx m).parkKind with
      | some (.regrp k) => k
      | _ => 0
    let before := fun m n => decide (live m = true ∧ live n = false ∨ live m = live n ∧
      (live m = true ∧ (key m).toNat < (key n).toNat ∨ (live m = true → key m = key n) ∧ (s.ctx m).slot < (s.ctx n).slot))
    (∀ g ∈ ps, (s.group g).saved = none ∧ (s.group g).alloc = (s.group is.key).alloc ∧ (∀ p ∈ (s.group g).rj, p.2 = 0) ∧
      ∀ m ∈ (s.group g).members, (s.ctxs.get? m).isSome = true ∧ (s.ctx m).lane < 32 ∧ (s.ctx m).slot = g % 128 ∧
        (∀ n ∈ (s.group g).members, (s.ctx n).lane = (s.ctx m).lane → n = m) ∧
        (m ∈ is.cohort ∨ (s.ctx m).live = false ∨ ∃ k, (s.ctx m).parkKind = some (.regrp k))) →
    all.Nodup → (∀ id ∈ is.cohort, id ∈ all) → (∀ p ∈ (s.block c.block).cv, p.2.signed = []) →
    ∃ t, exec (.regrp ctl a) s = .next t ∧ t.mem = s.mem ∧
      ∀ m ∈ all, ∃ h, ps[((all.filter (fun n => decide ((s.ctx n).lane = (s.ctx m).lane) && before n m)).length)]? = some h ∧
        m ∈ (t.group h).members ∧
        t.ctx m = (if live m then { s.ctx m with status := .running, pc := (s.ctx m).pc + 4, slot := h % 128 }
          else { s.ctx m with slot := h % 128 })

/-- R29, R30, R155: GROW of a whole group takes rows that read as zero where they are free, and joins the grant queue where
its head waits; GROWT says whether it took them, and does not wait, which for a GROWT of 0 behind a waiting head is the model's
reading (DEDUCED, log entry 10); SHRINK gives rows up, which return when the operation it puts into flight completes: it awaits
what is on its way to one of them, which reaches no register any more. -/
def Obligations.RegisterPool : Prop :=
  ∀ ctl (n : RegField) (s : State) (is : Issue), is.slot < 128 → wholeGroup s is = true →
    (∀ id ∈ is.cohort, id ∈ (s.group is.key).members) →
    let k := 4 * n.toNat
    let g := s.group is.key
    let core := s.core is.core
    let room := s.budget is.core (s.groupLaunch is.key)
    let grown := fun (t : State) => (t.group is.key).alloc = g.alloc + k ∧
      (t.core is.core).freeRows = core.freeRows - k ∧ t.mem = s.mem ∧
      ∀ id ∈ is.cohort, ∀ m j, (t.ctx id).readV m j =
        if g.alloc ≤ j ∧ j < g.alloc + k then 0 else (s.ctx id).readV m j
    (s.Ready is (wordInfo (.grow ctl n)) noneBusy → g.alloc + k ≤ 256 →
      (k ≠ 0 → core.growQ = [] → k ≤ room →
        ∃ t, exec (.grow ctl n) s = .next t ∧ grown t ∧ (t.core is.core).growQ = [] ∧
          ∀ id ∈ is.cohort, t.ctx id = { s.ctx id with
            v := (t.ctx id).v, early := (t.ctx id).early, status := .running, pc := (s.ctx id).pc + 4 }) ∧
      (∀ h m rest, k ≠ 0 → core.growQ = (h, m) :: rest → s.budget is.core (s.groupLaunch h) < m →
        ∃ t, exec (.grow ctl n) s = .next t ∧ (t.core is.core).growQ = core.growQ ++ [(is.key, k)] ∧
          (t.group is.key).alloc = g.alloc ∧ t.mem = s.mem ∧
          ∀ id ∈ is.cohort, (t.ctx id).parkKind = some (.grow k) ∧ (t.ctx id).pc = (s.ctx id).pc) ∧
      (k = 0 → ∃ t, Passes (.grow ctl n) s is t)) ∧
    (∀ d, s.Ready is (wordInfo (.growt ctl d n)) noneBusy → g.alloc + k ≤ 256 →
      (∀ id ∈ is.cohort, (s.ctx id).resolve (s.now is.core) d < g.alloc) →
      ∃ t, exec (.growt ctl d n) s = .next t ∧
        let ok := core.growQ = [] ∧ k ≤ room
        (ok → (t.group is.key).alloc = g.alloc + k ∧ (t.core is.core).freeRows = core.freeRows - k) ∧
        (¬ ok → (t.group is.key).alloc = g.alloc ∧ (t.core is.core).freeRows = core.freeRows) ∧
        t.mem = s.mem ∧ (t.core is.core).growQ = core.growQ ∧
        ∀ id ∈ is.cohort, (t.ctx id).pc = (s.ctx id).pc + 4 ∧
          (∀ m, (ok → (t.ctx id).readV m ((s.ctx id).resolve (s.now is.core) d) = 1) ∧
            (¬ ok → (t.ctx id).readV m ((s.ctx id).resolve (s.now is.core) d) = 0)) ∧
          ∀ m j, j ≠ (s.ctx id).resolve (s.now is.core) d → (t.ctx id).readV m j =
            if ok ∧ g.alloc ≤ j ∧ j < g.alloc + k then 0 else (s.ctx id).readV m j) ∧
    (s.Ready is (wordInfo (.shrink ctl n)) noneBusy → k + 8 ≤ g.alloc →
      (k ≠ 0 →
        ∃ t after, exec (.shrink ctl n) s = .next t ∧ (t.group is.key).alloc = g.alloc - k ∧
          t.ops.get? s.nextOp = some { core := is.core, ctx := 2 ^ 32, grp := is.key, block := g.block
                                       launch := s.groupLaunch is.key, kind := .rows k after } ∧
          let gone := fun (u r : Nat) => u ∈ g.members ∧ g.alloc - k ≤ r
          (∀ j o, j < s.nextOp → s.ops.get? j = some o → ∃ o', t.ops.get? j = some o' ∧
            o' = { o with dst := o.dst.map (fun q => if gone o.ctx q then 256 + q else q), kind := o'.kind } ∧
            match o.kind with
            | .matrix m => o'.kind = .matrix { m with held := m.held.filter (fun r => decide (¬ gone r.1 r.2.1)) }
            | .copy c => o'.kind = .copy { c with
                resolved := c.resolved.map (fun r => if gone r.2.1 r.2.2 then (r.1, r.2.1, 256 + r.2.2) else r) }
            | x => o'.kind = x) ∧
          (∀ j o, s.ops.get? j = some o → ((∃ q ∈ o.dst, gone o.ctx q) ∨
            ∃ c, o.kind = .copy c ∧ ∃ r ∈ c.resolved, gone r.2.1 r.2.2) → j ∈ after) ∧
          (∀ j ∈ after, ∃ o, s.ops.get? j = some o ∧ ((∃ q ∈ o.dst, gone o.ctx q) ∨ (∃ m, o.kind = .matrix m) ∨
            (∃ c, o.kind = .copy c) ∨ ∃ pa l r, o.kind = .store pa l r)) ∧
          (t.core is.core).freeRows = core.freeRows ∧ t.mem = s.mem ∧ ∀ id ∈ is.cohort, s.Advances t id) ∧
      (k = 0 → ∃ t, Passes (.shrink ctl n) s is t))

/-- R157: WFE clears a set event latch and goes on; with the latch clear the steward waits. -/
def Obligations.WaitForEvent : Prop :=
  ∀ ctl (s : State) (is : Issue) (p : Nat), is.cohort = [p] → (s.ctx p).core = 192 + p →
    s.Ready is (wordInfo (.wfe ctl)) noneBusy →
    ∃ t, exec (.wfe ctl) s = .next t ∧ s.Elsewhere t is ∧
      t = { s with ctxs := t.ctxs, cores := t.cores, groups := t.groups, issue := none, stewards := t.stewards, seq := t.seq } ∧
      if (s.steward p).latch then t.steward p = { s.steward p with latch := false } ∧ s.Advances t p
      else t.stewards = s.stewards ∧ t.ctx p = { s.ctx p with status := .parked .wfe s.seq 0 0 }

namespace Sys2Proof.Rules

/-- The source words of a word that acts once per issue: the lowest-lane thread's (R159, R176). -/
def sourceWords (s : State) (is : Issue) (a : RegField) (n : Nat) : List Word :=
  (List.range n).map (fun i => (s.ctx (is.cohort.headD 0)).rd (s.now is.core) a i)

/-- The block of the issuing threads. -/
def issuing (s : State) (is : Issue) : Block := s.block (s.ctx (is.cohort.headD 0)).block

/-- A word that acts on its block: its threads go on, and of the rest only that block changes, by f. -/
def ActsOnBlock (i : Instr) (s : State) (is : Issue) (f : Block → Block) : Prop :=
  ∃ t, exec i s = .next t ∧ (∀ id ∈ is.cohort, s.Advances t id) ∧
    t.block (s.ctx (is.cohort.headD 0)).block = f (issuing s is) ∧
    (∀ k, k ≠ (s.ctx (is.cohort.headD 0)).block → t.blocks.get? k = s.blocks.get? k) ∧
    t = { s with ctxs := t.ctxs, cores := t.cores, groups := t.groups, issue := none, blocks := t.blocks } ∧ s.Elsewhere t is

/-- Results written at once into consecutive registers of every thread, and no other register. -/
def Holds (s t : State) (is : Issue) (d : RegField) (l : List Word) : Prop :=
  ∀ id ∈ is.cohort, (t.ctx id).pc = (s.ctx id).pc + 4 ∧
    (∀ m i, i < l.length → (t.ctx id).readV m ((s.ctx id).resolve (s.now is.core) d + i) = l.getD i 0) ∧
    ∀ m k, (k < (s.ctx id).resolve (s.now is.core) d ∨ (s.ctx id).resolve (s.now is.core) d + l.length ≤ k) →
      (t.ctx id).readV m k = (s.ctx id).readV m k

/-- The PC of node k of a path: the number of the node reached after k steps (R174). -/
def pathNode (bits : Nat) : Nat → Nat
  | 0 => 0
  | k + 1 => 2 * pathNode bits k + (if bits.testBit k then 2 else 1)

end Sys2Proof.Rules

/-- R162: TDSET sets a tile descriptor of the block, bit 31 of its last word aside; TDGET returns it, with bit 31 set
where a row of the tile has saturated. -/
def Obligations.TileDescriptors : Prop :=
  (∀ ctl (n : BitVec 5) a (s : State) (is : Issue), s.Ready is (wordInfo (.tdset ctl n a)) noneBusy →
    (s.blocks.get? (s.ctx (is.cohort.headD 0)).block).isSome = true → n.toNat < (issuing s is).kernel.tiles →
    let l := sourceWords s is a 4
    tileIllegal l = false →
    ActsOnBlock (.tdset ctl n a) s is (fun b => { b with
      td := b.td.set n.toNat [l.getD 0 0, l.getD 1 0, l.getD 2 0, l.getD 3 0 &&& 0x7FFFFFFF] })) ∧
  ∀ ctl d (n : BitVec 5) (s : State) (is : Issue), s.Ready is (wordInfo (.tdget ctl d n)) noneBusy →
    n.toNat < (issuing s is).kernel.tiles →
    let l := (issuing s is).td.getD n.toNat [0, 0, 0, 0]
    l.length = 4 →
    ∃ t, exec (.tdget ctl d n) s = .next t ∧
      Holds s t is d [l.getD 0 0, l.getD 1 0, l.getD 2 0,
        l.getD 3 0 ||| (if s.tileSat is.core (tileOf l) then 0x80000000 else 0)] ∧
      t = { s with ctxs := t.ctxs, cores := t.cores, groups := t.groups, issue := none } ∧ s.Elsewhere t is

/-- R165: CVSET declares a convergence register over named groups of the block on the core and named lanes, where nothing
signed under it is pending; OFENCE, with the threads' earlier writes to memory and registers performed, changes nothing. -/
def Obligations.ConvergenceRegisters : Prop :=
  (∀ ctl a (v : BitVec 4) (s : State) (is : Issue), s.Ready is (wordInfo (.cvset ctl a v)) noneBusy →
    let k := (s.ctx (is.cohort.headD 0)).block
    let b := issuing s is
    let l := sourceWords s is a 5
    let mask : BitVec 128 := l.getD 3 0 ++ l.getD 2 0 ++ l.getD 1 0 ++ l.getD 0 0
    (s.blocks.get? k).isSome = true → v.toNat < b.kernel.cvs → (b.conv v.toNat).signed = [] →
    ((b.conv v.toNat).declared = true → (b.conv v.toNat).core = is.core) →
    s.convBusy k v.toNat = false → mask ≠ 0 → l.getD 4 0 ≠ 0 →
    (∀ g, g < 128 → mask.getLsbD g = true → ∃ x, s.groups.get? (is.core * 128 + g) = some x ∧ x.block = k) →
    ActsOnBlock (.cvset ctl a v) s is (fun b => { b with
      cv := b.cv.set v.toNat { declared := true, core := is.core, groups := mask, lanes := l.getD 4 0 } })) ∧
  ∀ ctl (s : State) (is : Issue), s.Ready is (wordInfo (.ofence ctl)) noneBusy →
    is.cohort.findSome? s.oldestWrite = none → ∃ t, Passes (.ofence ctl) s is t

/-- R161, R166, R171, R216: a signature that passes its checks joins those of its convergence register; the last one that
is awaited puts the operation into flight with the descriptors as they stand, at the end of the core's matrix queue. It
changes no byte of memory itself. -/
def Obligations.MatrixSignatures : Prop :=
  ∀ (i : Instr) (drain : Bool) (modes : Nat) (a : RegField) (v : BitVec 4),
    (∃ ctl, (∃ m : BitVec 4, i = .mma ctl m a v ∧ drain = false ∧ modes = m.toNat) ∨
      ∃ m : BitVec 5, i = .mdrain ctl m a v ∧ drain = true ∧ modes = m.toNat) →
    ∀ (s s' : State) (is : Issue) (id : Nat), is.cohort = [id] → s.Ready is (wordInfo i) noneBusy →
    queueFull v.toNat s is = none →
    let c := s.ctx id
    let b := s.block c.block
    let cv := b.conv v.toNat
    let w := c.rd (s.now is.core) a 0
    let set := s.signerSet c.block cv
    (s.blocks.get? c.block).isSome = true → v.toNat < b.kernel.cvs → cv.has c = true → id ∉ cv.signed →
    (cv.signed = [] ∨ (cv.packed = w ∧ cv.modes = modes ∧ cv.drain = drain)) →
    (drain = false → checkMma s b set w modes = none ∧ s' = s) →
    (drain = true → checkDrain s b set w modes = none ∧
      s.traceDrain c is.pc (b.tile (drainTiles w).2) (decide (modes % 2 = 1)) = .inl s') →
    let last := ∀ m ∈ set, m = id ∨ m ∈ cv.signed ∨ (s.ctx m).live = false
    ∃ t, exec i s = .next t ∧ (t.ctx id).pc = c.pc + 4 ∧ t.mem = s.mem ∧
      ((tileOf (b.td.getD (drainTiles w).2 [0, 0, 0, 0])).space ≠ 5 ∨ drain = false ∨ ¬ last → s.Advances t id) ∧
      (¬ last → ((t.block c.block).conv v.toNat).signed = cv.signed ++ [id] ∧ t.ops = s.ops) ∧
      (last → ((t.block c.block).conv v.toNat).signed = [] ∧
        (t.core is.core).matQ = (s.core is.core).matQ ++ [s.nextOp] ∧
        ∃ o m, t.ops.get? s.nextOp = some o ∧ o.kind = .matrix m ∧ o.core = is.core ∧ o.block = c.block ∧
          m.drain = drain ∧ m.cv = v.toNat ∧ m.modes = modes ∧ m.signers = set ∧
          m.a = b.td.getD (if drain then (drainTiles w).1 else (packedOf w).a) [0, 0, 0, 0] ∧
          m.c = b.td.getD (if drain then (drainTiles w).2 else (packedOf w).c) [0, 0, 0, 0] ∧
          (drain = false → m.b = b.td.getD (packedOf w).b [0, 0, 0, 0]))

/-- R37, R64, R170: MWAIT goes on where the thread has signed nothing that is pending and has no error to see, and the
register results of the operations it signed reach it then; it parks while its signature awaits others, where the wait is
legal, or while an operation it signed is in flight. That a register which the thread has written meanwhile is known by its
value is the model's choice (DESIGN CHOICE, log entry 91). -/
def Obligations.MatrixWait : Prop :=
  ∀ ctl (v : BitVec 4) (s : State) (is : Issue) (id : Nat), is.cohort = [id] → s.Ready is (wordInfo (.mwait ctl v)) noneBusy →
    let c := s.ctx id
    let b := s.block c.block
    let cv := b.conv v.toNat
    let done := b.unseen.filter (fun u => decide (u.mat.cv = v.toNat) && u.waiters.contains id)
    v.toNat < b.kernel.cvs → cv.has c = true →
    (id ∉ cv.signed → s.waitsOp id c.block v.toNat = false → b.errorFor id v.toNat = none →
      (∃ t, exec (.mwait ctl v) s = .next t ∧ (t.ctx id).pc = c.pc + 4 ∧ (t.ctx id).status = c.status ∧
        ∀ u k w, done = [u] → s.touched id u.mat = [] → u.regs.filter (fun r => r.1 = id) = [(id, k, w)] → ∀ m, (t.ctx id).readV m k = w) ∧
      (done = [] → (∀ u ∈ b.unseen, u.waiters ≠ []) → (s.blocks.get? c.block).isSome = true →
        ∃ t, Passes (.mwait ctl v) s is t)) ∧
    ((id ∈ cv.signed ∧ s.waitTrap c is.pc cv.scope 0 = none) ∨ (id ∉ cv.signed ∧ s.waitsOp id c.block v.toNat = true) →
      ∃ t, exec (.mwait ctl v) s = .next t ∧ (t.ctx id).parkKind = some (.mwait v.toNat) ∧ (t.ctx id).pc = c.pc ∧
        t.mem = s.mem ∧ s.Elsewhere t is)

/-- R163: OBRES makes a reservation record of the block that is legal and overlaps no other in its buffer on the core;
OBREL releases one that no operation in flight names. -/
def Obligations.ReservationRecords : Prop :=
  (∀ ctl (n a : RegField) (s : State) (is : Issue), s.Ready is (wordInfo (.obres ctl n a)) noneBusy →
    (s.blocks.get? (s.ctx (is.cohort.headD 0)).block).isSome = true →
    let l := sourceWords s is a 4
    let r := recordFields l
    recordIllegal l = false → (r.fmt = 9 → r.blen = 64) → (issuing s is).recs.get? n.toNat = none →
    n.toNat < (issuing s is).kernel.recs → recordRange r = false →
    (∀ x ∈ s.blocks, x.2.cores.contains is.core = true → x.2.failed = none → x.2.saved = none → ∀ e ∈ x.2.recs,
      (recordFields e.2).weight = r.weight →
      overlaps ((recordFields e.2).base, (recordFields e.2).len) (r.base, r.len) = false) →
    ActsOnBlock (.obres ctl n a) s is (fun b => { b with recs := b.recs.set n.toNat l })) ∧
  ∀ ctl (n : RegField) (s : State) (is : Issue), s.Ready is (wordInfo (.obrel ctl n)) noneBusy →
    (s.blocks.get? (s.ctx (is.cohort.headD 0)).block).isSome = true →
    n.toNat < (issuing s is).kernel.recs → s.recordBusy (s.ctx (is.cohort.headD 0)).block n.toNat = none →
    ActsOnBlock (.obrel ctl n) s is (fun b => { b with recs := b.recs.erase n.toNat })

namespace Sys2Proof.Rules

/-- The block of a weight record's data that byte k of the record lies in. -/
def weightBlock (T : Tile) (k : Nat) : Nat := k / (64 * fmtBytes T.fmt)

/-- The tile's row i covers block k of its record r (R164). -/
def Covers (T : Tile) (r : Record) (i k : Nat) : Prop :=
  i < T.rows ∧ weightBlock T (T.base + i * T.stride - r.base) ≤ k ∧
    k ≤ weightBlock T (T.base + i * T.stride + T.rowBytes - 1 - r.base)

/-- Block k of a record holds a NaN or an infinity (R52). -/
def NonFinite (m : Memory) (core : Nat) (r : Record) (k : Nat) : Prop :=
  let z := fmtBytes r.fmt
  ∃ e, e < 64 ∧ (k * 64 + e) * z + z ≤ r.area ∧
    match (fmtOf r.fmt).unpack (ofBytes (m.readBytes (wbBase core + r.base + (k * 64 + e) * z) z)) with
    | .fin _ _ _ => False
    | _ => True

/-- What WBLOAD leaves in the weight buffer of a core (R52, R164): of NQ4, the bytes of the record's range; of another
format each row of the tile, in a flagged one the flags of the blocks that the tile covers, and every other byte as it was.
src i o is the source's byte o of row i. -/
def Loaded (m m' : Memory) (core : Nat) (T : Tile) (r : Record) (src : Nat → Nat → Byte) : Prop :=
  let at' := fun i o => wbBase core + T.base + i * T.stride + o
  let flags := fun k => wbBase core + r.base + r.flagoff * 16 + k / 8
  if T.fmt = 9 then m.Wrote m' (wbBase core + r.base) ((List.range r.len).map (src 0))
  else
    (∀ i o, i < T.rows → o < T.rowBytes → (∀ j q, j < T.rows → q < T.rowBytes → at' j q = at' i o → j = i ∧ q = o) →
      (fmtFlagged T.fmt = true → ∀ j k, Covers T r j k → flags k ≠ at' i o) → m'.read (at' i o) = src i o) ∧
    (∀ a, (∀ i o, i < T.rows → o < T.rowBytes → a ≠ at' i o) → (fmtFlagged T.fmt = true → ∀ j k, Covers T r j k → a ≠ flags k) →
      m'.read a = m.read a) ∧
    (fmtFlagged T.fmt = true → (∀ j k i o, Covers T r j k → i < T.rows → o < T.rowBytes → flags k ≠ at' i o) →
      (∀ j k q, Covers T r j k → q < r.area → flags k ≠ wbBase core + r.base + q) →
      ∀ j k, Covers T r j k →
        ((m'.read (flags k)).getLsbD (k % 8) = true ↔ NonFinite m' core r k) ∧
        ∀ n, flags n = flags k → (∀ i, ¬ Covers T r i n) →
          (m'.read (flags k)).getLsbD (n % 8) = (m.read (flags k)).getLsbD (n % 8))

end Sys2Proof.Rules

/-- R52, R128, R164: WBLOAD by a thread with nothing in flight puts the rows of its tile into the weight buffer, from the
block's scratchpad or from virtual memory, with the flags of a flagged format; its threads go on. That a flag judges the whole
block as the buffer then holds it, the bytes from before among them, is the model's reading and no rule of the spec's
(DEDUCED, log entry 17). -/
def Obligations.WeightLoads : Prop :=
  ∀ ctl (n : BitVec 5) a (s : State) (is : Issue), s.Ready is (wordInfo (.wbload ctl n a)) (s.barred false) →
    let id := is.cohort.headD 0
    let b := issuing s is
    let l := (sourceWords s is a 4).map BitVec.toNat
    let T := b.tile n.toNat
    let r := b.recordOf T
    let base := l.getD 0 0 + 2 ^ 32 * l.getD 1 0
    let rows := if T.fmt = 9 then 1 else T.rows
    let bytes := if T.fmt = 9 then r.len else T.rowBytes
    let from' := fun i o : Nat => base + i * l.getD 2 0 + o
    let scratch := scratchBase b.scratchCore + b.scratchOff
    let z := fmtBytes T.fmt
    s.Idle id → n.toNat < b.kernel.tiles → checkB s b n.toNat = none → s.rangeBusy is.core r = none →
    (l.getD 3 0 = 1 → (∀ i o, i < rows → o < bytes → from' i o < b.kernel.scratch ∧
        s.hasEcc is.core (scratch + from' i o) 1 = false) → (∀ i, i < rows → 0 < bytes → from' i 0 % z = 0) →
      ∃ t, exec (.wbload ctl n a) s = .next t ∧ (∀ u ∈ is.cohort, s.Advances t u) ∧
        Loaded s.mem t.mem is.core T r (fun i o => (s.threadRead id (scratch + from' i o) 1).headD 0) ∧
        t = { s with ctxs := t.ctxs, cores := t.cores, groups := t.groups, issue := none, mem := t.mem } ∧
        s.Elsewhere t is) ∧
    (∀ (pa : Nat → Nat → Nat), l.getD 3 0 = 0 → bytes % z = 0 →
      (∀ i e, i < rows → e * z < bytes → ∃ uc mod, (mod = false ∨ s.recordOf (s.ctx id) = none) ∧
        s.access (s.ctx id) (BitVec.ofNat 64 (from' i (e * z))) z z needR false .plain = .ok (pa i e) uc mod ∧
        s.responseError (s.ctx id).core (pa i e) z = none) →
      ∃ t, exec (.wbload ctl n a) s = .next t ∧ (∀ u ∈ is.cohort, s.Advances t u) ∧
        Loaded s.mem t.mem is.core T r (fun i o => (s.threadRead id (pa i (o / z)) z).getD (o % z) 0) ∧
        t = { s with ctxs := t.ctxs, cores := t.cores, groups := t.groups, issue := none, mem := t.mem } ∧
        s.Elsewhere t is)

namespace Sys2Proof.Rules

/-- Element j of row i of a tile of a thread's core, as a byte offset from its first row: virtual in space 0. -/
def tileOffset (T : Tile) (i j : Nat) : Nat := T.base + i * T.stride + j * fmtBytes T.fmt

/-- The elements of tile T lie, in row order, at the addresses of l, and a thread may reach them: by its own accesses in
virtual memory, as they stand in the block's scratchpad or the core's operand buffer (R172). -/
def Reaches (s : State) (c : Ctx) (b : Block) (core : Nat) (T : Tile) (need : Need) (w : Bool) (l : List (Nat × Bool)) : Prop :=
  let z := fmtBytes T.fmt
  l.length = T.rows * (T.rowBytes / z) ∧ ∀ i j, i < T.rows → j < T.rowBytes / z →
    ∃ pa mod, l[i * (T.rowBytes / z) + j]? = some (pa, mod) ∧
      if T.space = 0 then s.responseError c.core pa z = none ∧
        ∃ uc, s.access c (BitVec.ofNat 64 (tileOffset T i j)) z z need w .plain = .ok pa uc mod
      else mod = false ∧ pa = (if T.space = 1 then scratchBase b.scratchCore + b.scratchOff else obBase core) + tileOffset T i j

/-- The words of a SACL or SACS block (R172): key, tile index, step, threshold, input and output descriptor. -/
structure SacWords where
  key : Word
  tile : Nat
  step : Nat
  theta : Word
  input : List Word
  output : List Word

/-- The block of a SACL or SACS. -/
def sacWords (s : State) (is : Issue) (a : RegField) : SacWords :=
  let l := sourceWords s is a 4
  let td := fun k => (issuing s is).td.getD k []
  { key := l.getD 0 0, tile := (l.getD 1 0).toNat / 2 ^ 16, step := (l.getD 1 0).toNat % 2 ^ 16, theta := l.getD 3 0
    input := td ((l.getD 2 0).toNat % 2 ^ 5), output := td ((l.getD 2 0).toNat / 2 ^ 5 % 2 ^ 5) }

end Sys2Proof.Rules

/-- R172, R173, R221, R222: a SACL that finds no entry of the partition with its key and tile, of the step before, not
replayed to the limit and of the same shapes, or whose input fails the assay against the entry, writes 0 and counts a miss;
one that finds it writes 1 and the stored output to its tile, refreshes the entry's step, and counts a hit and the skipped
elements. SACS stores an entry where the partition's share is not 0, in 64 KiB of the data region that are its own, and nothing
where it is 0. The thread has nothing in flight. That an entry whose bytes of the region something has written over is undefined
is the model's choice (DESIGN CHOICE, log entry 63). -/
def Obligations.StepActivationCache : Prop :=
  ∀ ctl (a : RegField) (s : State) (is : Issue),
    let id := is.cohort.headD 0
    let c := s.ctx id
    let b := issuing s is
    let w := sacWords s is a
    let I := tileOf w.input
    let O := tileOf w.output
    let part := s.partOf c
    let valid := fun (e : SacEntry) => e.step = (w.step + 65535) % 2 ^ 16 ∧ e.replays < (s.launchFor c).replay ∧
      sameShape e.inTd w.input = true ∧ sameShape e.outTd w.output = true
    s.Idle id → sacCheck s b c (sourceWords s is a 4) is.pc = none → (s.launches.get? b.launch).isSome = true →
    (∀ d, s.Ready is (wordInfo (.sacl ctl d a)) (s.barred false) →
      let misses := ∃ t, exec (.sacl ctl d a) s = .next t ∧ Holds s t is d [0] ∧
        (∀ k q, s.launches.get? k = some q → t.launches.get? k = some (if k = b.launch then
          { q with sacMiss := BitVec.ofNat 32 (min (2 ^ 32 - 1) (q.sacMiss.toNat + 1)) } else q)) ∧
        t = { s with ctxs := t.ctxs, cores := t.cores, groups := t.groups, issue := none, launches := t.launches } ∧
        s.Elsewhere t is
      ((∀ k e, s.sacFind part w.key w.tile = some (k, e) → ¬ valid e) → misses) ∧
      ∀ k e ipas, s.sacFind part w.key w.tile = some (k, e) → valid e → Reaches s c b is.core I needR false ipas →
        (s.sacKept e = false → ∀ opas, Reaches s c b is.core O needW true opas →
          ∃ t, exec (.sacl ctl d a) s = .next t ∧ ∀ u ∈ is.cohort, (t.ctx u).pc = (s.ctx u).pc + 4) ∧ (s.sacKept e = true →
        let passes := assay w.theta (sacValues I (s.elemBytes id (fmtBytes I.fmt) ipas)) (sacValues I e.inData)
        (passes = false → misses) ∧
        ∀ opas, passes = true → Reaches s c b is.core O needW true opas →
          (∃ t, exec (.sacl ctl d a) s = .next t ∧ (∀ u ∈ is.cohort, (t.ctx u).pc = (s.ctx u).pc + 4) ∧
            (∃ x, t.sac.get? k = some x ∧ x.step = w.step ∧ x.replays = e.replays + 1 ∧ x.inData = e.inData ∧
              x.outData = e.outData ∧ x.inTd = e.inTd ∧ x.outTd = e.outTd) ∧
            (∀ q, s.launches.get? b.launch = some q → ∃ q', t.launches.get? b.launch = some q' ∧
              q'.sacHit = BitVec.ofNat 32 (min (2 ^ 32 - 1) (q.sacHit.toNat + 1)) ∧
              q'.sacSkip = BitVec.ofNat 32 (min (2 ^ 32 - 1) (q.sacSkip.toNat + O.rows * O.cols)) ∧ q'.sacMiss = q.sacMiss)) ∧
          (s.isRestart c = false → (∀ p ∈ opas, p.2 = false ∧ InMemory p.1 (fmtBytes O.fmt) ∧
              Unguarded s p.1 (fmtBytes O.fmt) ∧ NotMatrix s id p.1 (fmtBytes O.fmt)) →
            ∃ t, exec (.sacl ctl d a) s = .next t ∧ Holds s t is d [1] ∧ s.Elsewhere t is ∧
              (∀ (i j : Nat) (p : Nat × Bool), opas[i]? = some p → j < fmtBytes O.fmt →
                (∀ (k : Nat) (q : Nat × Bool), opas[k]? = some q → i < k → ∀ y, y < fmtBytes O.fmt → q.1 + y ≠ p.1 + j) →
                t.mem.read (p.1 + j) = e.outData.getD (i * fmtBytes O.fmt + j) 0) ∧
              ∀ x, (∀ p ∈ opas, ∀ j, j < fmtBytes O.fmt → x ≠ p.1 + j) → t.mem.read x = s.mem.read x))) ∧
    ∀ ipas opas, s.Ready is (wordInfo (.sacs ctl a)) (s.barred false) → Reaches s c b is.core I needR false ipas →
      Reaches s c b is.core O needR false opas →
      let p := s.parts.getD part {}
      (p.sacShare ≠ 0 →
        ∃ t, exec (.sacs ctl a) s = .next t ∧ (∀ u ∈ is.cohort, s.Advances t u) ∧ s.Elsewhere t is ∧
          (∃ k x, t.sacFind part w.key w.tile = some (k, x) ∧ x.step = w.step ∧ x.replays = 0 ∧
            x.inData = s.elemBytes id (fmtBytes I.fmt) ipas ∧ x.outData = s.elemBytes id (fmtBytes O.fmt) opas ∧
            x.inTd = w.input ∧ x.outTd = w.output ∧ x.part = part ∧
            ((∀ q ∈ s.sac, q.2.part = part → q.2.place < p.sacShare) → (s.sacOf part).length ≤ p.sacShare →
              x.place < p.sacShare) ∧
            ∀ y, (p.sacRegion = 0 ∨ y < p.sacRegion + 65536 * x.place ∨ p.sacRegion + 65536 * (x.place + 1) ≤ y) →
              t.mem.read y = s.mem.read y)) ∧
      (p.sacShare = 0 → ∃ t, Passes (.sacs ctl a) s is t)

/-- R49, R50, R174: a TWALK of a thread with nothing in flight that may read its tree and its token puts its leaf and its
path into flight, and the logit of each level, where an address is given for them, as a store: at each level it goes right
where the logit of the node it stands at is not below zero. The path's NaN bit stays set, or is set by a logit that is NaN.
(The reads of a traced task are of memory that no trace records; the logits are not a restartable task's.) -/
def Obligations.TreeWalk : Prop :=
  ∀ ctl d a (p : BitVec 2) (s : State) (is : Issue) (id : Nat) (tok : Nat → Nat) (node : Nat → Nat → Nat) (bias : Nat → Nat),
    is.cohort = [id] → s.Idle id → s.Ready is (wordInfo (.twalk ctl d a p)) (fun o => specialBusy (0x38 + p.toNat) o || s.barred false o) →
    walksFull s is = none →
    let c := s.ctx id
    let now := s.now is.core
    let l := fun i => c.rd now a i
    let n := (l 4).toNat % 2 ^ 16
    let depth := (l 4).toNat / 2 ^ 24 % 2 ^ 4
    let stride := (l 5).toNat
    let logit : DWord := l 7 ++ l 6
    let plain := fun (ea : DWord) (z pa : Nat) => s.responseError c.core pa z = none ∧
      ∃ uc mod, (mod = false ∨ s.recordOf c = none) ∧ s.access c ea z z needR false .plain = .ok pa uc mod
    let at' := fun k : Nat => (l 3 ++ l 2 : DWord) + BitVec.ofNat 64 (k * stride)
    depth ≠ 0 → n ≠ 0 → n % 16 = 0 → n ≤ 8192 → stride % 4 = 0 → 2 * n + 4 ≤ stride →
    (l 4).toNat / 2 ^ 16 % 2 ^ 8 = 0 → (l 4).toNat / 2 ^ 28 = 0 →
    (∀ j, j < n → plain ((l 1 ++ l 0 : DWord) + BitVec.ofNat 64 (2 * j)) 2 (tok j)) →
    (∀ k, k < 2 ^ depth - 1 → (∀ j, j < n → plain (at' k + BitVec.ofNat 64 (2 * j)) 2 (node k j)) ∧
      plain (at' k + BitVec.ofNat 64 (2 * n)) 4 (bias k)) →
    let bf := fun pa => bf16.unpack (s.threadNat id pa 2)
    let dot := fun k => dotProduct fp32 (s.threadNat id (bias k) 4)
      ((List.range n).map (fun j => some (dotMul (bf (tok j)) (bf (node k j)))))
    let old := (lookEarly c.early (.sp (0x38 + p.toNat)) now (c.path.getD p.toNat 0)).getLsbD 31
    let walked := fun (bits : Nat) (nan : Bool) => bits < 2 ^ depth ∧
      (nan = true ↔ old = true ∨ ∃ k, k < depth ∧ (fp32.unpack (dot (pathNode bits k))).isNan = true) ∧
      ∀ k, k < depth → bits.testBit k = !((fp32.unpack (dot (pathNode bits k))).isNan ||
        fLess (fp32.unpack (dot (pathNode bits k))) (.fin false 0 0))
    let result := fun (bits : Nat) (nan : Bool) => operation s is id [c.resolve now d] 0 1 false false
      (.walk [BitVec.ofNat 32 (pathNode bits depth - (2 ^ depth - 1))]
        (p.toNat, BitVec.ofNat 32 ((if nan then 2 ^ 31 else 0) + depth * 2 ^ 16 + bits)))
    let rest := fun t : State => s.Advances t id ∧ s.Elsewhere t is ∧ t = { s with
      ctxs := t.ctxs, cores := t.cores, groups := t.groups, issue := none, ops := t.ops, nextOp := t.nextOp }
    (logit = 0 → ∃ t bits nan, exec (.twalk ctl d a p) s = .next t ∧ walked bits nan ∧ s.Started t [result bits nan] ∧ rest t) ∧
    ∀ lp : Nat → Nat, logit ≠ 0 → s.isRestart c = false →
      (∀ k, k < depth → ∃ uc mod, (mod = false ∨ s.recordOf c = none) ∧ InMemory (lp k) 4 ∧
        s.access c (logit + BitVec.ofNat 64 (4 * k)) 4 4 needW true .plain = .ok (lp k) uc mod) →
      (∀ k j x, k < depth → j < 2 ^ depth - 1 → x < n → (node j x + 2 ≤ lp k ∨ lp k + 4 ≤ node j x) ∧
        (bias j + 4 ≤ lp k ∨ lp k + 4 ≤ bias j)) →
      ∃ t bits nan, exec (.twalk ctl d a p) s = .next t ∧ walked bits nan ∧ rest t ∧
        t.ops.get? (s.nextOp + depth) = some (result bits nan) ∧ t.nextOp = s.nextOp + depth + 1 ∧
        ∀ k, k < depth → ∃ o, t.ops.get? (s.nextOp + k) = some o ∧ o.ctx = id ∧
          o.kind = .store (lp k) (toBytes 4 (dot (pathNode bits k))) false


namespace Sys2Proof.Rules

/-- A kind of wait. -/
def isTagWait : Park → Bool
  | .tagWait _ _ => true
  | _ => false

/-- A wait in a barrier object or at a ring header. -/
def isObjectWait : Park → Bool
  | .bar _ => true
  | .ring _ _ _ _ _ _ => true
  | _ => false

/-- A wait at a ring header. -/
def isRingWait : Park → Bool
  | .ring _ _ _ _ _ _ => true
  | _ => false

end Sys2Proof.Rules

/-- R177, R181: COPY of a thread whose block passes its checks puts a copy of what the ten words say into flight; one of no
bytes signals at once. CHAINGO starts its idle channel at the head, of which an untraced task's reads nothing yet; that it
clears FAULT and leaves CAUSE and ADDR of the channel as they are is the model's reading (DEDUCED, log entry 77). -/
def Obligations.ShuttleWords : Prop :=
  (∀ (ctl : Ctl) (g a : RegField) (k : BitVec 4) (s : State) (is : Issue) (id : Nat), is.cohort = [id] → s.Idle id →
    s.Ready is (wordInfo (.copy ctl g a k)) noneBusy → copyWaits s is = none → (s.runOf is).accepted = [] →
    (s.copiesOf is.core).length < 256 →
    let c := s.ctx id
    let w := fun i => c.rd (s.now is.core) a i
    let n := fun i => (w i).toNat
    let what : CopyRec := { src := n 0 + 2 ^ 32 * n 1, dst := n 2 + 2 ^ 32 * n 3, rowBytes := n 4, rows := n 5
                            sstride := n 6, dstride := n 7, kind := k.toNat, tag := g.toNat
                            caddr := w 9 ++ w 8, part := s.partOf c, resolved := [] }
    (s.isTraced c = true → ∃ u, s.recordCells c (s.partOf c) what.cells = .inl u) →
    n 4 ≤ 2 ^ 24 → n 5 < 2 ^ 16 → n 0 + 2 ^ 32 * n 1 < 2 ^ 56 → n 2 + 2 ^ 32 * n 3 < 2 ^ 56 →
    (k = 1 → ∃ pa uc mod, s.accessVirtual c (w 9 ++ w 8) 16 16 needRW true .atomic = .ok pa uc mod ∧
      (s.barrier pa).armed = true ∧ (s.barrier pa).bytes = true) →
    (k = 2 → n 9 = 0 ∧ (s.waitingTask (w 8)).isSome = true) →
    (n 4 * n 5 ≠ 0 → ∃ t r, exec (.copy ctl g a k) s = .next t ∧
      s.Started t [{ core := c.core, ctx := id, grp := is.key, block := c.block, launch := (s.block c.block).launch
                     pc := is.pc
                     kind := .copy { what with resolved := r } }] ∧
      s.Advances t id ∧
      t = { s with ctxs := t.ctxs, cores := t.cores, groups := t.groups, issue := none, ops := t.ops, nextOp := t.nextOp } ∧
      s.Elsewhere t is) ∧
    (n 4 * n 5 = 0 → k = 0 → s.tagPending is.key g.toNat = false → s.NoneWait isTagWait →
      ∃ t, exec (.copy ctl g a k) s = .next t ∧ s.Advances t id ∧
        (t.group is.key).tags = (s.group is.key).tags ||| ((1 : DWord) <<< g.toNat) ∧ t.mem = s.mem ∧ t.ops = s.ops)) ∧
  ∀ (ctl : Ctl) (h a : RegField) (s : State) (is : Issue), s.Ready is (wordInfo (.chaingo ctl h a)) noneBusy →
    chainWaits h s is = none →
    let id := is.cohort.headD 0
    let head := (s.ctx id).rdPair (s.now is.core) a
    head.toNat < 2 ^ 56 → head.toNat % 64 = 0 →
    s.noRoom id (s.partOf (s.ctx id)) (s.chainAt id (s.partOf (s.ctx id)) head.toNat) = none →
    ∃ t, exec (.chaingo ctl h a) s = .next t ∧ (∀ u ∈ is.cohort, s.Advances t u) ∧
      t.channel is.core h.toNat = { s.channel is.core h.toNat with
        head := head, cur := head, busy := decide (head ≠ 0), fault := false, ctx := id, grp := is.key
        part := s.partOf (s.ctx id), wait := none, denied := false, atObject := false, noObject := false } ∧
      (∀ n, n ≠ h.toNat → t.channel is.core n = s.channel is.core n) ∧
      t.core is.core = { s.core is.core with cycle := (t.core is.core).cycle, channels := (t.core is.core).channels } ∧
      (∀ k, k ≠ is.core → t.cores.get? k = s.cores.get? k) ∧ (∀ u, u ∉ is.cohort → t.ctxs.get? u = s.ctxs.get? u) ∧
      (∀ k, k ≠ is.key → t.groups.get? k = s.groups.get? k) ∧
      t = { s with ctxs := t.ctxs, cores := t.cores, groups := t.groups, issue := none }

/-- R179: TWAIT goes on when every tag of its mask is set, TWANY when one is; otherwise the thread waits, every tag that is
not set being pending. TFFR finds the lowest tag of the mask that is set, or 64; TCLR clears tags and their fault bits. -/
def Obligations.TagWords : Prop :=
  (∀ (i : Instr) (any : Bool) (a : RegField), (∃ ctl, (i = .twait ctl a ∧ any = false) ∨ (i = .twany ctl a ∧ any = true)) →
    ∀ (s : State) (is : Issue) (id : Nat), is.cohort = [id] → s.Ready is (wordInfo i) noneBusy →
    (s.ctx id).deferred = none →
    let mask := (s.ctx id).rdPair (s.now is.core) a
    let tags := (s.group is.key).tags
    let met := if any then tags &&& mask ≠ 0 else tags &&& mask = mask
    (any = true → mask ≠ 0) →
    (∀ n, n < 64 → mask.getLsbD n = true → tags.getLsbD n = true ∨ s.tagPending is.key n = true) →
    (met → (∀ n, mask.getLsbD n = true → (s.group is.key).tagFaults.get? n = none) → ∃ t, Passes i s is t) ∧
    (¬ met → ∃ t, exec i s = .next t ∧
      t.ctx id = { s.ctx id with status := .parked (.tagWait any mask) s.seq 0 0 } ∧
      t = { s with ctxs := t.ctxs, cores := t.cores, groups := t.groups, issue := none, seq := s.seq + 1 } ∧
      s.Elsewhere t is)) ∧
  (∀ (ctl : Ctl) (d a : RegField) (s : State) (is : Issue), s.Ready is (wordInfo (.tffr ctl d a)) noneBusy →
    let tags := match s.chainOf is with | some ch => ch.tags | none => (s.group is.key).tags
    ∃ t, exec (.tffr ctl d a) s = .next t ∧
      (∀ id ∈ is.cohort, ∃ n,
        let hit := tags &&& (s.ctx id).rdPair (s.now is.core) a
        (n = 64 ∧ hit = 0 ∨ n < 64 ∧ hit.getLsbD n = true ∧ ∀ m, m < n → hit.getLsbD m = false) ∧
        t.ctx id = { (s.ctx id).setV ((s.ctx id).resolve (s.now is.core) d) (BitVec.ofNat 32 n) with pc := (s.ctx id).pc + 4 }) ∧
      t = { s with ctxs := t.ctxs, cores := t.cores, groups := t.groups, issue := none } ∧ s.Elsewhere t is) ∧
  ∀ (ctl : Ctl) (a : RegField) (s : State) (is : Issue) (id : Nat), is.cohort = [id] →
    s.Ready is (wordInfo (.tclr ctl a)) noneBusy →
    let mask := (s.ctx id).rdPair (s.now is.core) a
    ∃ t, exec (.tclr ctl a) s = .next t ∧ s.Advances t id ∧
      (t.group is.key).tags = (s.group is.key).tags &&& ~~~mask ∧
      (∀ n, (t.group is.key).tagFaults.get? n = if mask.getLsbD n then none else (s.group is.key).tagFaults.get? n) ∧
      (∀ k, k ≠ is.key → t.groups.get? k = s.groups.get? k) ∧
      t = { s with ctxs := t.ctxs, cores := t.cores, groups := t.groups, issue := none }

/-- R128, R182: a COLL by threads with nothing in flight that passes its checks is in flight with the block's fields and
its rank's contribution, which the engine has read; it is the group's next collective. Rank 0 passes its contribution on at
once. (Where the predecessor's result, or a decision, has come before it, CollectiveSteps says what these do.) -/
def Obligations.CollectiveWord : Prop :=
  ∀ (ctl : Ctl) (a : RegField) (s : State) (is : Issue) (pa : Nat → Nat),
    s.Ready is (wordInfo (.coll ctl a)) noneBusy → storesPending s is = none →
    let id := is.cohort.headD 0
    let c := s.ctx id
    let l := sourceWords s is a 8
    let n := fun i => (l.getD i 0).toNat
    let grp := n 5 / 2 ^ 16 % 2 ^ 8
    let e := s.collGroup grp
    let size := if n 5 / 2 ^ 8 % 2 ^ 4 = 2 then 8 else 4
    let number := s.collCount.getD grp 0
    s.isTraced c = false → s.isRestart c = false → collBad s (s.partOf c) l = false →
    n 0 + n 1 * 2 ^ 32 < 2 ^ 56 → n 2 + n 3 * 2 ^ 32 < 2 ^ 56 → n 6 + n 7 * 2 ^ 32 < 2 ^ 56 →
    (∀ i, i < n 4 → s.responseError c.core (pa i) size = none ∧ ∃ uc mod, s.accessVirtual c
      (BitVec.ofNat 64 (n 0 + n 1 * 2 ^ 32) + BitVec.ofNat 64 (i * size)) size size needR false .plain = .ok (pa i) uc mod) →
    (∀ p ∈ s.collDone.getD grp [], p.1 ≠ number) → (∀ p ∈ s.collIn.getD grp [], p.1 ≠ number) →
    ∃ t, exec (.coll ctl a) s = .next t ∧ (∀ u ∈ is.cohort, s.Advances t u) ∧
      s.Started t [{ core := c.core, ctx := id, grp := is.key, block := c.block, launch := (s.block c.block).launch
                     pc := is.pc
                     kind := .coll grp
                       { number := number, src := n 0 + n 1 * 2 ^ 32, dst := n 2 + n 3 * 2 ^ 32, n := n 4
                         op := n 5 / 2 ^ 8 % 2 ^ 4, mode := n 5 % 4, status := n 6 + n 7 * 2 ^ 32, part := s.partOf c
                         contribution := (List.range (n 4)).flatMap (fun i => s.threadRead id (pa i) size)
                         passed := decide (e.rank = 0) }
                       (n 5 / 2 ^ 4 % 4) (n 5 / 2 ^ 26) }] ∧
      t.collCount.getD grp 0 = number + 1 ∧ (∀ g, g ≠ grp → t.collCount.getD g 0 = s.collCount.getD g 0) ∧
      (∀ g, t.collDone.getD g [] = s.collDone.getD g [] ∧ t.collIn.getD g [] = s.collIn.getD g []) ∧
      t = { s with ctxs := t.ctxs, cores := t.cores, groups := t.groups, issue := none, ops := t.ops, nextOp := t.nextOp
                   collCount := t.collCount, collDone := t.collDone, collIn := t.collIn } ∧
      s.Elsewhere t is

/-- R185, R186, R229: SPAWN of an untraced thread enters a task that its block and arguments describe in the lowest free
entry, at the tail of its core's queue, and Vd takes the handle; where there is no room, Vd takes 0xFFFF_FFFF and nothing
else happens. A steward's task waits in the table alone, which is the model's choice (DESIGN CHOICE, log entry 83). TSIG takes 1
from the counter of the task its handle names, which may be taken from the next round on (R231). -/
def Obligations.TaskWords : Prop :=
  (∀ (ctl : Ctl) (d a : RegField) (s : State) (is : Issue) (id n : Nat) (pa : Nat → Nat), is.cohort = [id] →
    s.Ready is (wordInfo (.spawn ctl d a)) (s.barred false) →
    let c := s.ctx id
    let l := (List.range 12).map (c.rd (s.now is.core) a)
    let w := (l.getD 0 0).toNat
    let parent := s.tasks.getD (s.block c.block).task {}
    let r := c.resolve (s.now is.core) d
    s.Idle id → c.core = is.core → s.spawnLaunch c = some n → spawnValid s (s.launches.getD n {}) l = true →
    (isSteward is.core = false → ∀ x ∈ (rangesOf (l.drop 4)).getD [], ∃ y ∈ parent.ranges, x.inside y = true) →
    s.recordOf c = none →
    (∀ i, i < 8 → s.responseError c.core (pa i) 8 = none ∧ ∃ uc mod, s.accessVirtual c
      ((l.getD 3 0 ++ l.getD 2 0 : DWord) + BitVec.ofNat 64 (8 * i)) 8 8 needR false .plain = .ok (pa i) uc mod) →
    let args := (List.range 16).map (fun i => (BitVec.ofNat 32 (s.threadNat id (pa (i / 2) + 4 * (i % 2)) 4) : Word))
    (∀ e, s.freeEntry = some e → (isSteward is.core = false → (s.core is.core).taskQ.length < 64) →
      let gen := (s.gens.getD e 0 + 1) % 2 ^ 16
      ∃ t x, exec (.spawn ctl d a) s = .next t ∧ t.tasks.get? e = some x ∧
        x.launch = n ∧ x.kid = w % 2 ^ 16 ∧ x.bclass = w / 2 ^ 16 % 2 ^ 4 ∧ x.nthr = (l.getD 1 0).toNat ∧
        x.waits = w / 2 ^ 23 % 2 ^ 8 ∧ x.args = args ∧ x.ranges = (rangesOf (l.drop 4)).getD [] ∧ x.gen = gen ∧
        x.record = none ∧ x.block = none ∧
        (isSteward is.core = false → x.phase = .queued ∧ x.parent = some (s.block c.block).task ∧
          x.key = parent.key ++ [parent.children + 1] ∧ (t.core is.core).taskQ = (s.core is.core).taskQ ++ [e]) ∧
        (isSteward is.core = true → x.phase = .waiting ∧ x.parent = none ∧ (t.core is.core).taskQ = (s.core is.core).taskQ) ∧
        t.ctx id = { c.setV r (BitVec.ofNat 32 (e + 2 ^ 14 * gen)) with pc := c.pc + 4 } ∧
        (∀ k, k ≠ e → k ≠ (s.block c.block).task → t.tasks.get? k = s.tasks.get? k) ∧
        t = { s with ctxs := t.ctxs, cores := t.cores, groups := t.groups, issue := none, tasks := t.tasks, gens := t.gens
                     seq := t.seq }) ∧
    ((s.freeEntry = none ∨ (isSteward is.core = false ∧ 64 ≤ (s.core is.core).taskQ.length)) →
      ∃ t, exec (.spawn ctl d a) s = .next t ∧ t.ctx id = { c.setV r 0xFFFFFFFF with pc := c.pc + 4 } ∧
        t = { s with ctxs := t.ctxs, cores := t.cores, groups := t.groups, issue := none } ∧ s.Elsewhere t is)) ∧
  ∀ (ctl : Ctl) (a : RegField) (s : State) (is : Issue) (id e : Nat) (x : Task), is.cohort = [id] →
    s.Idle id → s.Ready is (wordInfo (.tsig ctl a)) noneBusy →
    s.taskOf ((s.ctx id).rd (s.now is.core) a 0) = some e → s.tasks.get? e = some x → 0 < x.waits →
    ∃ t, exec (.tsig ctl a) s = .next t ∧ s.Advances t id ∧ t.tasks.get? e = some { x with waits := x.waits - 1, signalled := some s.time } ∧
      (∀ k, k ≠ e → t.tasks.get? k = s.tasks.get? k) ∧
      t = { s with ctxs := t.ctxs, cores := t.cores, groups := t.groups, issue := none, tasks := t.tasks } ∧ s.Elsewhere t is

/-- R187 to R190: MWRITE writes its word of modifiable memory and, where that changes it, marks every record of the
partition's live traces that read its granule. PROP of a trace with nothing stale writes 0; with stale records its threads
wait and the trace lists it. TRFREE frees a trace; TRSTAT writes its seven counters. No program has written the store of
the traces that PROP and TRSTAT name (R198). -/
def Obligations.TraceWords : Prop :=
  (∀ (ctl : Ctl) (a : RegField) (s : State) (is : Issue) (id pa : Nat) (uc : Bool), is.cohort = [id] → s.Idle id →
    s.Ready is (wordInfo (.mwrite ctl a)) (s.barred false) → mwriteWaits a s is = none →
    let c := s.ctx id
    let w := c.rd (s.now is.core) a 2
    s.isTraced c = false → s.isDet c = false → s.isRestart c = false →
    s.accessVirtual c (c.rdPair (s.now is.core) a) 4 4 needRW true .plain = .ok pa uc true → pa + 4 ≤ 2 ^ 39 →
    s.responseError c.core pa 4 = none → Unguarded s pa 4 →
    ∃ t, exec (.mwrite ctl a) s = .next t ∧ s.Advances t id ∧ s.mem.Wrote t.mem pa (toBytes 4 w.toNat) ∧
      (∀ k tr, s.traces.get? k = some tr → k / 16 = s.partOf c → tr.dead = false → ∃ tr', t.traces.get? k = some tr' ∧
        ∀ r x, tr.recs.get? r = some x → tr'.recs.get? r = some { x with
          stale := x.stale || (decide (s.mem.readBytes pa 4 ≠ toBytes 4 w.toNat) && x.reads.contains (pa / 64)) }) ∧
      (∀ k, k / 16 ≠ s.partOf c → t.traces.get? k = s.traces.get? k) ∧
      t = { s with ctxs := t.ctxs, cores := t.cores, groups := t.groups, issue := none, mem := t.mem, traces := t.traces
                   ecc := eccLeft s pa 4, slots := rereads s } ∧ s.Elsewhere t is) ∧
  (∀ (ctl : Ctl) (d a : RegField) (s : State) (is : Issue) (k : Nat) (tr : Trace),
    s.Ready is (wordInfo (.prop ctl d a)) noneBusy → s.isTraced (s.ctx (is.cohort.headD 0)) = false →
    s.namedTrace is is.cohort a = some k → s.traces.get? k = some tr → tr.dead = false → tr.done = true → tr.props = [] →
    tr.spoiled = false →
    ((∀ p ∈ tr.recs, p.2.stale = false) → ∃ t, exec (.prop ctl d a) s = .next t ∧ Holds s t is d [0] ∧
      t = { s with ctxs := t.ctxs, cores := t.cores, groups := t.groups, issue := none } ∧ s.Elsewhere t is) ∧
    ((∃ p ∈ tr.recs, p.2.stale = true) → ∃ t, exec (.prop ctl d a) s = .next t ∧
      (∀ u ∈ is.cohort, ∃ n, t.ctx u = { s.ctx u with
        status := .parked (.prop k ((s.ctx u).resolve (s.now is.core) d) (is.cohort.headD 0)) n 0 0 }) ∧
      (∃ n, (t.traces.getD k {}).props = [⟨is.cohort.headD 0, n, s.mem, []⟩]) ∧ t.mem = s.mem)) ∧
  (∀ (ctl : Ctl) (a : RegField) (s : State) (is : Issue) (k : Nat), s.Ready is (wordInfo (.trfree ctl a)) noneBusy →
    s.isTraced (s.ctx (is.cohort.headD 0)) = false → freeWaits a s is = none →
    s.namedTrace is is.cohort a = some k → (s.traces.getD k {}).done = true →
    ∃ t, exec (.trfree ctl a) s = .next t ∧ (∀ u ∈ is.cohort, s.Advances t u) ∧ t.traces.get? k = none ∧
      (∀ j, j ≠ k → t.traces.get? j = s.traces.get? j) ∧
      t = { s with ctxs := t.ctxs, cores := t.cores, groups := t.groups, issue := none, traces := t.traces } ∧
      s.Elsewhere t is) ∧
  ∀ (ctl : Ctl) (d a : RegField) (s : State) (is : Issue) (k : Nat) (tr : Trace),
    s.Ready is (wordInfo (.trstat ctl d a)) noneBusy →
    s.isTraced (s.ctx (is.cohort.headD 0)) = false → s.namedTrace is is.cohort a = some k → s.traces.get? k = some tr →
    tr.spoiled = false →
    ∃ t, exec (.trstat ctl d a) s = .next t ∧
      Holds s t is d [BitVec.ofNat 32 (min tr.recs.length (2 ^ 32 - 1)), tr.reexecuted, tr.spawned, tr.spliced,
        tr.discarded, tr.undone, tr.marks] ∧
      t = { s with ctxs := t.ctxs, cores := t.cores, groups := t.groups, issue := none } ∧ s.Elsewhere t is

/-- R140, R191 to R193: a claim or an await that the header can grant advances its index by the issue's threads, which take
consecutive indices by rank; one that it cannot parks them. A commit or a retire advances its index past the indices of its
threads that follow on from it, and parks the other threads. That the header is that of the issue's first thread, and how a
header is marked as in use, are the model's readings (DEDUCED, log entries 85 and 107). -/
def Obligations.RingWords : Prop :=
  ∀ (i : Instr) (kind : Nat) (d a : RegField) (k : BitVec 4),
    (∃ ctl, (i = .rclaim ctl d a k ∧ kind = 0) ∨ (i = .rcommit ctl d a k ∧ kind = 1) ∨ (i = .rawait ctl d a k ∧ kind = 2) ∨
      (i = .rretire ctl d a k ∧ kind = 3)) →
    ∀ (s : State) (is : Issue) (pa : Nat) (uc mod : Bool), s.Ready is (wordInfo i) (s.barred true) →
    (∀ u ∈ is.cohort, s.Idle u) → s.NoneWait isRingWait →
    let c := s.ctx (is.cohort.headD 0)
    let ea := c.rdPair (s.now is.core) a
    let x := memKey c.core pa
    let field := fun j : Nat => s.physNat 255 (x + 4 * j) 4 % 2 ^ 28
    let dist := fun j k : Nat => (k + 2 ^ 28 - j) % 2 ^ 28
    let header := fun (claim commit await retire : Nat) => toBytes 4 (claim % 2 ^ 28 + k.toNat * 2 ^ 28) ++
      toBytes 4 (commit % 2 ^ 28) ++ toBytes 4 (await % 2 ^ 28) ++ toBytes 4 (retire % 2 ^ 28)
    let n := is.cohort.length
    s.access c ea 16 64 needRW true .atomic = .ok pa uc mod → OffTrace pa →
    (s.ringWait c is.pc ea pa).isNone = true → (s.ringMode c ea pa).isNone = true → s.responseError c.core pa 16 = none →
    let written := fun (t : State) (retire claim : Nat) => s.Elsewhere t is ∧
      (∀ y, y ≠ x → t.rings.get? y = s.rings.get? y) ∧
      t.rings.get? x = (if dist retire (claim % 2 ^ 28) = 0 then none else some (s.block c.block).launch) ∧
      t = { s with ctxs := t.ctxs, cores := t.cores, groups := t.groups, issue := none, mem := t.mem, rings := t.rings
                   slots := rereads s }
    s.physNat 255 x 4 / 2 ^ 28 = k.toNat →
    (kind = 0 ∨ kind = 2 → n ≤ 2 ^ k.toNat →
      let room := if kind = 0 then dist (field 3) (field 0) + n ≤ 2 ^ k.toNat else n ≤ dist (field 2) (field 1)
      (room → ∃ t, exec i s = .next t ∧
        s.mem.Wrote t.mem x (if kind = 0 then header (field 0 + n) (field 1) (field 2) (field 3)
          else header (field 0) (field 1) (field 2 + n) (field 3)) ∧
        (∀ j u, is.cohort[j]? = some u → t.ctx u = { (s.ctx u).setV ((s.ctx u).resolve (s.now is.core) d)
          (BitVec.ofNat 32 ((field kind + j) % 2 ^ 28)) with pc := (s.ctx u).pc + 4, fenced := false }) ∧
        written t (field 3) (if kind = 0 then field 0 + n else field 0)) ∧
      (¬ room → ∃ t, exec i s = .next t ∧
        (∀ j u, is.cohort[j]? = some u → (t.ctx u).parkKind =
          some (.ring x kind j ((s.ctx u).resolve (s.now is.core) d) s.seq n) ∧ (t.ctx u).pc = (s.ctx u).pc) ∧
        t = { s with ctxs := t.ctxs, cores := t.cores, groups := t.groups, issue := none, seq := s.seq + n } ∧
        s.Elsewhere t is)) ∧
    (∀ r, kind = 1 ∨ kind = 3 →
      let lo := if kind = 1 then field 1 else field 3
      let hi := if kind = 1 then field 0 else field 2
      let index := fun u => ((s.ctx u).rd (s.now is.core) d 0).toNat
      (∀ u ∈ is.cohort, (s.ctx u).block = c.block ∧ index u < 2 ^ 28 ∧ dist lo (index u) < dist lo hi) →
      (∀ u ∈ is.cohort, ∀ v ∈ is.cohort, index u = index v → u = v) →
      (∀ j, j < r → ∃ u ∈ is.cohort, dist lo (index u) = j) → (∀ u ∈ is.cohort, dist lo (index u) ≠ r) →
      ∃ t, exec i s = .next t ∧
        (∀ u ∈ is.cohort, dist lo (index u) < r →
          t.ctx u = { s.ctx u with status := (t.ctx u).status, pc := (s.ctx u).pc + 4, fenced := false } ∧
          ((t.ctx u).status = .running ∨ (t.ctx u).status = (s.ctx u).status)) ∧
        (∀ u ∈ is.cohort, r ≤ dist lo (index u) → (t.ctx u).parkKind = some (.ring x kind (index u) 0 s.seq n) ∧
          (t.ctx u).pc = (s.ctx u).pc) ∧
        (if r = 0 then t = { s with ctxs := t.ctxs, cores := t.cores, groups := t.groups, issue := none, seq := t.seq } ∧
          s.Elsewhere t is
        else s.mem.Wrote t.mem x (if kind = 1 then header (field 0) (field 1 + r) (field 2) (field 3)
            else header (field 0) (field 1) (field 2) (field 3 + r)) ∧
          ∃ u, t = { u with seq := t.seq } ∧ written u (if kind = 1 then field 3 else (field 3 + r) % 2 ^ 28) (field 0)))

namespace Sys2Proof.Rules

/-- Results that reach a thread's registers from r on, with a path register and FSTAT bits, and nothing else. -/
def Delivered (c c' : Ctx) (r : Nat) (l : List Word) (path : Store Word) (fstat : Word) : Prop :=
  (∀ m k, c'.readV m k = if r ≤ k ∧ k < r + l.length then l.getD (k - r) 0 else c.readV m k) ∧
    c' = { c with v := c'.v, early := c'.early, path := path, fstat := fstat }

/-- The completion of an operation of one thread: the operation is gone, the thread has its results. -/
def Returns (i : Instr) (s : State) (op : Nat) (o : Op) (r : Nat) (l : List Word) (path : Store Word) (fstat : Word) : Prop :=
  ∃ t, exec i s = .next t ∧ Delivered (s.ctx o.ctx) (t.ctx o.ctx) r l path fstat ∧
    (∀ k, k ≠ o.ctx → t.ctxs.get? k = s.ctxs.get? k) ∧ t = { s with ctxs := t.ctxs, ops := s.ops.erase op }

/-- What a reduction leaves in its location (R139). -/
def reduction (op old : Nat) (v : Word) : Nat :=
  let a : Word := BitVec.ofNat 32 old
  match op with
  | 0 => (old + v.toNat) % 2 ^ 32
  | 1 => (addF32 a v).toNat
  | 2 => (BitVec.ofInt 32 (min a.toInt v.toInt)).toNat
  | 3 => (BitVec.ofInt 32 (max a.toInt v.toInt)).toNat
  | 4 => (a &&& v).toNat
  | 5 => (a ||| v).toNat
  | 6 => (a ^^^ v).toNat
  | 7 => (fAdd fp64 rne (fp64.unpack old) (fp32.unpack v.toNat)).bits
  | 8 => min old v.toNat
  | _ => max old v.toNat

/-- The operation is the next store or reduction of its core that reaches its destination: no load of its thread, and where
it is a reduction no adding drain of the core before it, is in flight. -/
def NextStore (s : State) (op : Nat) (o : Op) : Prop :=
  s.ops.get? op = some o ∧
    s.ops.filter (fun p => decide (p.2.core = o.core) && decide (p.1 ≤ op) && p.2.isStore) = [(op, o)] ∧
    (∀ p ∈ s.ops, p.2.ctx = o.ctx → p.2.isLoad = false) ∧ ∀ p ∈ s.ops, p.2.core = o.core → p.2.isAdd = false

/-- The other operations in flight stand as they were; a matrix operation notes anew what its operands now hold. -/
def OthersStand (s t : State) (op : Nat) : Prop :=
  t.ops.get? op = none ∧ ∀ k x, k ≠ op → s.ops.get? k = some x → ∃ y, t.ops.get? k = some y ∧
    y = { x with kind := y.kind } ∧ ((∀ q, x.kind ≠ .matrix q) → y.kind = x.kind)

/-- A matrix operation has completed without an error: it has left its core's queue, and its block holds it, with results for
registers, until the signers that are alive observe it by MWAIT (R64, R170). -/
def Retired (s t : State) (op : Nat) (o : Op) (m : MatOp) (regs : List (Nat × Nat × Word)) : Prop :=
  OthersStand s t op ∧
    (t.core o.core) = { s.core o.core with matQ := (s.core o.core).matQ.filter (· ≠ op) } ∧
    (∀ k, k ≠ o.core → t.cores.get? k = s.cores.get? k) ∧
    (∃ u, t.block o.block = { s.block o.block with unseen := (s.block o.block).unseen ++ [u] } ∧ u.mat.cv = m.cv ∧
      u.mat.outs = m.outs ∧ u.regs = regs ∧ u.waiters = m.signers.filter (fun id => (s.ctx id).live)) ∧
    ∀ k, k ≠ o.block → t.blocks.get? k = s.blocks.get? k

/-- The elements of a tile that has whole bytes lie apart from each other. -/
def Apart (b : Block) (core : Nat) (T : Tile) : Prop :=
  let n := fmtBytes T.fmt
  ∀ i j x y o q, i < T.rows → j < T.cols → x < T.rows → y < T.cols → o < n → q < n →
    tileAddr b core T i (j * n + o) = tileAddr b core T x (y * n + q) → i = x ∧ j = y ∧ o = q

/-- An address of an element of a tile. -/
def InTile (b : Block) (core : Nat) (T : Tile) (a : Nat) : Prop :=
  ∃ i j o, i < T.rows ∧ j < T.cols ∧ o < fmtBytes T.fmt ∧ a = tileAddr b core T i (j * fmtBytes T.fmt + o)

end Sys2Proof.Rules

/-- R22, R57, R113, R132, R137, R155, R174: the data of a load or an atomic, a variable-latency result and a walk's result
reach their registers, and no other; a load finds what is at its address when it returns, which is the model's choice of moment
(DESIGN CHOICE, log entry 95); rows return to the pool once what holds them back has completed. -/
def Obligations.OperationsComplete : Prop :=
  (∀ (s : State) (op : Nat) (o : Op) (r : Nat), s.ops.get? op = some o → (s.ctxs.get? o.ctx).isSome = true →
    s.ops.filter (fun p => decide (p.2.ctx = o.ctx) && p.2.isLoad) = [(op, o)] →
    (∀ p ∈ s.ops, p.2.ctx = o.ctx → p.2.isStore = false) →
    s.NoneWait (fun q => decide (q = .late op)) →
    (∀ pa size signed, o.kind = .load pa size signed → s.responseError o.core pa size = none → size ∈ [1, 2, 4, 8, 16] →
      o.dst = (List.range (size / 4 + if size < 4 then 1 else 0)).map (r + ·) → r + 4 ≤ 256 →
      let x := s.threadNat o.ctx pa size
      Returns (.dataReturn op false) s op o r
        (if size < 4 then [if signed then (BitVec.ofNat (8 * size) x).signExtend 32 else BitVec.ofNat 32 x]
          else (List.range (size / 4)).map (fun i => BitVec.ofNat 32 (x / 2 ^ (32 * i))))
        (s.ctx o.ctx).path (s.ctx o.ctx).fstat ∧
      (s.isDet (s.ctx o.ctx) = false → s.isRestart (s.ctx o.ctx) = false → NotMatrix s o.ctx pa size →
        x = s.physNat (s.ctx o.ctx).core pa size)) ∧
    (∀ pa vals, o.kind = .value pa vals → o.dst = (List.range vals.length).map (r + ·) → r + vals.length ≤ 256 →
      Returns (.dataReturn op false) s op o r vals (s.ctx o.ctx).path (s.ctx o.ctx).fstat)) ∧
  (∀ (s : State) (op : Nat) (o : Op) (r : Nat) (vals : List Word) (path : Option (Nat × Word)) (flags : BitVec 6),
    s.ops.get? op = some o → (s.ctxs.get? o.ctx).isSome = true → o.dst = (List.range vals.length).map (r + ·) →
    r + vals.length ≤ 256 →
    let c := s.ctx o.ctx
    (o.kind = .result vals path flags → Returns (.variableLatencyComplete op) s op o r vals
      (match path with | some (p, w) => c.path.set p w | none => c.path) (c.fstat ||| flags.setWidth 32)) ∧
    ∀ p w, o.kind = .walk vals (p, w) → Returns (.twalkComplete op) s op o r vals (c.path.set p w) c.fstat) ∧
  ∀ (s : State) (op n : Nat) (after : List Nat) (o : Op), s.ops.get? op = some o → o.kind = .rows n after →
    (∀ k ∈ after, s.ops.get? k = none) → (s.core o.core).growQ = [] →
    ∃ t, exec (.shrinkRowReturn op) s = .next t ∧
      t.core o.core = { s.core o.core with freeRows := (s.core o.core).freeRows + n } ∧
      (∀ k, k ≠ o.core → t.cores.get? k = s.cores.get? k) ∧ t = { s with cores := t.cores, ops := s.ops.erase op }

namespace Sys2Proof.Rules

/-- A term truncated toward zero to a multiple of 2 ^ q, as that multiple (R49 step 4). -/
def truncated (q : Int) : FVal → Int
  | .fin neg m e =>
    let x : Nat := if q ≤ e then m * 2 ^ (e - q).toNat else m / 2 ^ (q - e).toNat
    if neg then -(x : Int) else x
  | _ => 0

/-- The exact product of two factors; 0 × ∞ stands as NaN (R49 steps 3 and 7). -/
def product : FVal → FVal → FVal
  | .nan, _ => .nan
  | _, .nan => .nan
  | .inf a, .inf b => .inf (a != b)
  | .inf a, .fin b m _ => if m = 0 then .nan else .inf (a != b)
  | .fin a m _, .inf b => if m = 0 then .nan else .inf (a != b)
  | .fin a m e, .fin b n f => .fin (a != b) (m * n) (e + f)

/-- r is the result of one group of terms, the incoming one among them (R49 steps 4 to 7): keep is 27, or 56 in FP64 (R50). -/
def GroupResult (F : Fmt) (keep : Int) (l : List FVal) (r : Nat) : Prop :=
  if .nan ∈ l ∨ (.inf false ∈ l ∧ .inf true ∈ l) then r = F.nan
  else if .inf false ∈ l then r = F.inf false
  else if .inf true ∈ l then r = F.inf true
  else ∃ emax : Int, (∀ a m e, .fin a m e ∈ l → m ≠ 0 → e + Nat.log2 m ≤ emax) ∧
    ((∃ a m e, .fin a m e ∈ l ∧ m ≠ 0 ∧ e + Nat.log2 m = emax) ∨ ∀ a m e, .fin a m e ∈ l → m = 0) ∧
    let t := (l.map (truncated (emax - keep))).sum
    (t = 0 → ((∀ x ∈ l, ∃ e, x = .fin true 0 e) → r = F.signBit) ∧ ((¬ ∀ x ∈ l, ∃ e, x = .fin true 0 e) → r = 0)) ∧
    (t ≠ 0 → r = (roundTo F rne (decide (t < 0)) t.natAbs (emax - keep)).bits)

/-- r is the dot product of n terms with an incoming pattern z, in groups of 16 by index (R49 steps 1 and 2); a term that is
none is skipped (R52). -/
def DotResult (F : Fmt) (keep : Int) (z n : Nat) (term : Nat → Option FVal) (r : Nat) : Prop :=
  ∃ acc : Nat → Nat, acc 0 = z ∧ acc ((n + 15) / 16) = r ∧ ∀ g, g < (n + 15) / 16 →
    GroupResult F keep (F.unpack (acc g) :: (List.range (min 16 (n - 16 * g))).filterMap (fun j => term (16 * g + j)))
      (acc (g + 1))

/-- r is the INT32 accumulation of n terms, and clamped says that a boundary clamped (R51): mode 1 is .SAT. -/
def IntResult (mode z n : Nat) (term : Nat → Option Int) (r : Nat) (clamped : Bool) : Prop :=
  ∃ acc : Nat → Int, acc 0 = (BitVec.ofNat 32 z).toInt ∧ r = (BitVec.ofInt 32 (acc ((n + 15) / 16))).toNat ∧
    let sum := fun g => acc g + ((List.range (min 16 (n - 16 * g))).filterMap (fun j => term (16 * g + j))).sum
    (∀ g, g < (n + 15) / 16 → acc (g + 1) =
      if mode = 1 then max (-2 ^ 31) (min (2 ^ 31 - 1) (sum g)) else (BitVec.ofInt 32 (sum g)).toInt) ∧
    (clamped = true ↔ mode = 1 ∧ ∃ g, g < (n + 15) / 16 ∧ (sum g < -2 ^ 31 ∨ 2 ^ 31 - 1 < sum g))

/-- An element of an integer format (R41): INT8 is 5, INT4 is 7, INT32 is 11; UINT8 and BIN1 are not signed. -/
def whole (fmt x : Nat) : Int :=
  if fmt = 5 then (BitVec.ofNat 8 x).toInt else if fmt = 7 then (BitVec.ofNat 4 x).toInt
  else if fmt = 11 then (BitVec.ofNat 32 x).toInt else x

/-- r is what an MMA leaves in C's element (i, j), before its width cuts it (R49 to R52, R169): under .SPARSE the nibble of
four elements of K says which two A stores. -/
def MmaResult (s : State) (b : Block) (core : Nat) (m : MatOp) (i j r : Nat) (clamped : Bool) : Prop :=
  let A := tileOf m.a
  let B := tileOf m.b
  let C := tileOf m.c
  let at' := fun T => tileElem s b core m.signers T
  let nibble := fun k => at' (tileOf m.meta') i (k / 4)
  let kept := fun k => m.meta' = [] ∨ (nibble k).testBit (k % 4) = true
  let x := fun k => at' A i (if m.meta' = [] then k else k / 4 * 2 + (List.range (k % 4)).countP (nibble k).testBit)
  let z := if m.modes % 2 = 1 then 0 else at' C i j
  if A.fmt ≤ 4 ∨ A.fmt = 10 then
    let y := fun k => (fmtOf (if B.fmt = 9 then A.fmt else B.fmt)).unpack (matB s b core m j k)
    clamped = false ∧ DotResult (fmtOf C.fmt) (if C.fmt = 10 then 56 else 27) z B.cols (fun k =>
      if kept k then some (product ((fmtOf A.fmt).unpack (x k)) (y k))
      else if matFlag s b core m j k then some (product (.fin false 0 0) (y k)) else none) r
  else
    IntResult (m.modes / 4 % 4) z B.cols (fun k =>
      if kept k then some (if A.fmt = 8 then
          ((if m.modes / 4 % 4 = 2 then x k ^^^ at' B j k else x k &&& at' B j k : Nat) : Int)
        else whole A.fmt (x k) * whole B.fmt (at' B j k))
      else none) r clamped

/-- An accumulator element in the output format of a drain (Table 16.5). -/
def drained (code x : Nat) : Nat :=
  match code with
  | 1 => (fConvert bf16 rne (fp32.unpack x)).bits
  | 2 => (fConvert fp16 rne (fp32.unpack x)).bits
  | 3 => (fToE4m3 0 (x.testBit 31) (fp32.unpack x)).bits
  | 5 => (BitVec.ofInt 8 (max (-128) (min 127 (BitVec.ofNat 32 x).toInt))).toNat
  | _ => x

/-- What a drain leaves in a destination element that held old: the accumulator's element converted, and added under .ADD
(R171). -/
def drainResult (m : MatOp) (x old : Nat) : Nat :=
  let code := m.modes / 2 % 8
  if m.modes % 2 = 0 then drained code x
  else if code = 4 then (old + drained code x) % 2 ^ 32
  else if (tileOf m.a).fmt = 10 then (fAdd fp64 rne (fp64.unpack old) (fp64.unpack (drained code x))).bits
  else (fAdd fp32 rne (fp32.unpack old) (fp32.unpack (drained code x))).bits

end Sys2Proof.Rules

/-- R49 to R52, R64, R66, R166, R169, R171: a matrix operation that nothing holds back, and whose operands and tile nobody touched,
completes. An MMA leaves its dot products in C's accumulators, with a saturation bit where a sum clamped; a drain leaves each
element converted, and added to what was there under .ADD, in the scratchpad, the operand buffer or virtual memory, or for the
MWAIT to deliver to registers; .CLEAR clears the accumulator tile. Nothing else in memory changes. -/
def Obligations.MatrixOperationsComplete : Prop :=
  ∀ (s : State) (op : Nat) (o : Op) (m : MatOp), s.ops.get? op = some o → o.kind = .matrix m → o.fault = none → o.err = none →
    s.matBlocked op o m = false → m.seen = s.opBytes o.core (s.block o.block) m → (s.blocks.get? o.block).isSome = true →
    s.NoneWait (fun q => match q with | .mwait _ => true | _ => false) →
    let b := s.block o.block
    let core := o.core
    let A := tileOf m.a
    let C := tileOf m.c
    let n := fmtBytes C.fmt
    let clear := m.modes / 16 % 2 = 1
    let element := fun (t : State) (T : Tile) (i j : Nat) => tileElem t b core m.signers T i j
    let values := fun (old : Nat → Nat → Nat) (i j : Nat) => drainResult m (element s A i j) (old i j) % 256 ^ n
    let cleared := fun t : State => clear →
      (∀ i j, i < A.rows → j < A.cols → element t A i j = 0) ∧ ∀ i, i < A.rows → t.sat.getD (satKey core (A.base + i)) false = false
    fmtBits C.fmt = 8 * n → 0 < n →
    (m.drain = false → metaGood s b core m = true → (A.fmt = 8 → (tileOf m.b).fmt = 8) → C.space = 4 → C.base + C.rows ≤ 1024 → C.cols * n ≤ 512 →
      ∃ t, exec (.matrixOpComplete op none) s = .next t ∧ Retired s t op o m [] ∧
        (∃ clamped : Nat → Nat → Bool,
          (∀ i j, i < C.rows → j < C.cols → ∃ r, MmaResult s b core m i j r (clamped i j) ∧ element t C i j = r % 256 ^ n) ∧
          ∀ i, i < C.rows → (t.sat.getD (satKey core (C.base + i)) false = true ↔
            (m.modes % 2 = 0 ∧ s.sat.getD (satKey core (C.base + i)) false = true) ∨ ∃ j, j < C.cols ∧ clamped i j = true)) ∧
        (∀ a, ¬ InTile b core C a → t.mem.read a = s.mem.read a) ∧
        t = { s with mem := t.mem, sat := t.sat, ops := t.ops, cores := t.cores, blocks := t.blocks }) ∧
    (m.drain = true → (m.modes % 2 = 1 → 0 < op → ∀ p ∈ s.ops, p.1 < op → p.2.core = core → p.2.isStore = false) →
      A.space = 4 → A.base + A.rows ≤ 1024 → fmtBits A.fmt = 8 * fmtBytes A.fmt → A.cols * fmtBytes A.fmt ≤ 512 →
      (C.space = 1 ∨ C.space = 2 → Apart b core C → (∀ a, InTile b core C a → ¬ InTile b core A a) →
        ∃ t, exec (.matrixOpComplete op none) s = .next t ∧ Retired s t op o m [] ∧ cleared t ∧
          (∀ i j, i < C.rows → j < C.cols → element t C i j = values (element s C) i j) ∧
          (∀ a, ¬ InTile b core C a → (clear → ¬ InTile b core A a) → t.mem.read a = s.mem.read a) ∧
          t = { s with mem := t.mem, sat := t.sat, ops := t.ops, cores := t.cores, blocks := t.blocks }) ∧
      (C.space = 5 → m.signers.Nodup → C.rows ≤ m.signers.length → (∀ id ∈ m.signers, (s.ctxs.get? id).isSome = true) →
        (∀ id ∈ m.signers, ∀ i, i < (C.rowBytes + 3) / 4 → ∃ w, (id, C.base + i, w) ∈ m.held) →
        ∃ (t : State) (val : Nat → Nat → Word), exec (.matrixOpComplete op none) s = .next t ∧ cleared t ∧
          Retired s t op o m (m.signers.flatMap (fun id =>
            (List.range ((C.rowBytes + 3) / 4)).map (fun i => (id, C.base + i, val id i)))) ∧
          (∀ i j, i < C.rows → j < C.cols → ofBytes ((List.range n).map (fun x =>
              BitVec.ofNat 8 ((val (m.signers.getD i 0) ((j * n + x) / 4)).toNat / 256 ^ ((j * n + x) % 4)))) =
            values (element s C) i j) ∧
          (∀ a, (clear → ¬ InTile b core A a) → t.mem.read a = s.mem.read a) ∧
          t = { s with mem := t.mem, sat := t.sat, ops := t.ops, cores := t.cores, blocks := t.blocks }) ∧
      ∀ (pa : Nat → Nat → Nat), C.space = 0 → s.isDet (s.ctx o.ctx) = false → s.isRestart (s.ctx o.ctx) = false →
        (∀ i j, i < C.rows → j < C.cols →
          (∃ uc, s.translate (s.partOf (s.ctx o.ctx)) (C.base + i * C.stride + j * n)
            (if m.modes % 2 = 1 then needRW else needW) = .ok (pa i j) uc false) ∧
          pa i j + n ≤ 2 ^ 39 ∧ s.responseError core (pa i j) n = none ∧ Unguarded s (pa i j) n ∧
          ∀ x y, x < C.rows → y < C.cols → (x ≠ i ∨ y ≠ j) → pa i j + n ≤ pa x y ∨ pa x y + n ≤ pa i j) →
        ∃ t, exec (.matrixOpComplete op none) s = .next t ∧ Retired s t op o m [] ∧ cleared t ∧
          (∀ i j, i < C.rows → j < C.cols → ofBytes (t.mem.readBytes (pa i j) n) =
            values (fun i j => s.physNat core (pa i j) n) i j) ∧
          (∀ a, (∀ i j, i < C.rows → j < C.cols → a < pa i j ∨ pa i j + n ≤ a) → (clear → ¬ InTile b core A a) →
            t.mem.read a = s.mem.read a) ∧
          t = { s with mem := t.mem, sat := t.sat, ecc := t.ecc, slots := t.slots, ops := t.ops, cores := t.cores, blocks := t.blocks })

/-- R57, R60, R63, R66, R67, R128, R139: a store in flight puts its bytes into memory, a reduction its operation applied
once to what it finds there, and nothing else changes. An error that comes back instead is held by the thread, with its
address, and the store is not performed, nor a reduction that meets an uncorrectable error; without a response the target's
bytes are undefined (a free value). -/
def Obligations.StoresArePerformed : Prop :=
  (∀ (s : State) (op pa : Nat) (o : Op) (l : List Byte) (rel : Bool), NextStore s op o → o.kind = .store pa l rel →
    o.err = none → s.accessError o.core pa l.length = none → s.cutPeer pa = false → InMemory pa l.length →
    let x := memKey (s.ctx o.ctx).core pa
    Unguarded s x l.length → NotMatrix s o.ctx pa l.length →
    ∃ t, exec (.storePerformed op) s = .next t ∧ s.mem.Wrote t.mem x l ∧ (o.mod = false → t.traces = s.traces) ∧
      t = { s with mem := t.mem, ecc := eccLeft s x l.length, traces := t.traces, slots := rereads s, ops := s.ops.erase op }) ∧
  (∀ (s : State) (op pa k : Nat) (o : Op) (v : Word), NextStore s op o → o.kind = .reduce pa k v → k ≤ 9 →
    let n := if k = 7 then 8 else 4
    let agent := (s.ctx o.ctx).core
    let x := memKey agent pa
    o.err = none → s.accessError o.core pa n = none → s.cutPeer pa = false →
    (s.hasEcc o.core pa n = false → InMemory pa n → Unguarded s x n → NotMatrix s o.ctx pa n →
      ∃ t, exec (.reductionApply op) s = .next t ∧
        s.mem.Wrote t.mem x (toBytes n (reduction k (s.physNat agent pa n) v)) ∧
        t = { s with mem := t.mem, ecc := eccLeft s x n, slots := rereads s, ops := s.ops.erase op }) ∧
    (s.hasEcc o.core pa n = true → s.isRestart (s.ctx o.ctx) = false → (s.ctx o.ctx).live = true →
      (s.ctxs.get? o.ctx).isSome = true → (s.ctx o.ctx).deferred = none →
      ∃ t, exec (.reductionApply op) s = .next t ∧
        t.ctx o.ctx = { s.ctx o.ctx with deferred := some ⟨0x104, o.va, o.info ||| 0x80000000⟩ } ∧
        (∀ k, k ≠ o.ctx → t.ctxs.get? k = s.ctxs.get? k) ∧ t = { s with ctxs := t.ctxs, ops := s.ops.erase op })) ∧
  (∀ (s : State) (op : Nat) (o : Op) (cause : BitVec 10), NextStore s op o → s.restartable o = false →
    cause = 0x103 ∨ cause = 0x104 → (s.ctx o.ctx).live = true → (s.ctxs.get? o.ctx).isSome = true →
    (s.ctx o.ctx).deferred = none → o.isStore = true → s.storeHeld op o = false →
    ∃ t, exec (.deferredStoreError op cause) s = .next t ∧
      t.ctx o.ctx = { s.ctx o.ctx with deferred := some ⟨cause, o.va, o.info ||| 0x80000000⟩ } ∧
      (∀ k, k ≠ o.ctx → t.ctxs.get? k = s.ctxs.get? k) ∧ t = { s with ctxs := t.ctxs, ops := s.ops.erase op }) ∧
  ∀ (s : State) (op pa : Nat) (o : Op) (l : List Byte) (rel : Bool), NextStore s op o → o.kind = .store pa l rel →
    s.restartable o = false → (s.ctx o.ctx).live = true → (s.ctxs.get? o.ctx).isSome = true →
    (s.ctx o.ctx).deferred = none → s.storeHeld op o = false →
    ∃ t, exec (.remoteTimeout op) s = .next t ∧
      t.ctx o.ctx = { s.ctx o.ctx with deferred := some ⟨0x105, o.va, o.info ||| 0x80000000⟩ } ∧
      (∀ k, k ≠ o.ctx → t.ctxs.get? k = s.ctxs.get? k) ∧
      (∀ a, a < pa ∨ pa + l.length ≤ a → t.mem.read a = s.mem.read a) ∧
      t = { s with ctxs := t.ctxs, ops := s.ops.erase op, mem := t.mem, free := t.free }

namespace Sys2Proof.Rules

/-- n bytes from an address on lie in device memory, a peer's, or a core's scratchpad, accumulators or buffers. -/
def InStorage (pa n : Nat) : Prop :=
  ∀ j, j < n → match regionOf (pa + j) with
    | .hbm => True
    | .peer _ _ => True
    | .scratch _ _ => True
    | .acc _ _ => True
    | .ob _ _ => True
    | .wb _ _ => True
    | _ => False

/-- A kind 0 completion of a group's slot finds nothing else outstanding that names its tag, and nobody who waits for tags. -/
def TagAlone (s : State) (g tag op : Nat) (chan : Option Nat) : Prop :=
  s.NoneWait isTagWait ∧ (∀ h ∈ (s.core (g / 128)).channels, some h.1 ≠ chan → h.2.busy = false) ∧
    ∀ p ∈ s.ops, p.1 ≠ op → p.2.grp = g → match p.2.kind with
      | .copy d => d.kind ≠ 0 ∨ d.tag ≠ tag
      | .coll _ _ k n => k ≠ 0 ∨ n ≠ tag
      | _ => True

/-- The object at x counts n bytes down: its round goes on, or ends where none are left and is not marked faulted (R145, R178). -/
def CountsDown (s t : State) (x n : Nat) : Prop :=
  let b := s.barrier x
  (n < b.remain → t.bars.get? x = some { b with remain := b.remain - n } ∧ t.ctxs = s.ctxs) ∧
    (b.remain ≤ n → s.barFaults.get? x = none →
      t.bars.get? x = some { b with remain := b.init, phase := (b.phase + 1) % 2 ^ 8 } ∧
        (∀ w ∈ s.barWaiters x, t.ctx w = { s.ctx w with status := .running, pc := (s.ctx w).pc + 4 }) ∧
        ∀ w, w ∉ s.barWaiters x → t.ctx w = s.ctx w)

/-- A task's counter falls by 1 (R186), and the task may be taken from the next round on (R231). -/
def TakesOne (s t : State) (e : Nat) : Prop :=
  (∀ x, s.tasks.get? e = some x → t.tasks.get? e = some { x with waits := x.waits - 1, signalled := some s.time }) ∧
    ∀ k, k ≠ e → t.tasks.get? k = s.tasks.get? k

end Sys2Proof.Rules

/-- R145, R177, R178, R181, R186: a copy whose bytes may all be moved leaves each source byte at its destination and changes no
other byte but those of a barrier object it signals. Under kind 0 it sets its tag, under kind 1 its object counts its bytes
down, under kind 2 its task's counter falls. A channel that finds a record it does not own stops there; one it owns it performs,
with the signal of its kind, marks as done and leaves for NEXT. -/
def Obligations.CopiesComplete : Prop :=
  (∀ (s : State) (op : Nat) (o : Op) (c : CopyRec) (src dst : Nat → Nat → Nat), s.ops.get? op = some o →
    o.kind = .copy c → o.fault = none → s.recordOf (s.ctx o.ctx) = none →
    s.isDet (s.ctx o.ctx) = false → s.isRestart (s.ctx o.ctx) = false →
    (∀ r b, r < c.rows → b < c.rowBytes →
      s.side o.core c.part (c.src + r * c.sstride + b) needR c.words (o.err == some 0x101) = .ok (src r b) ∧
      s.side o.core c.part (c.dst + r * c.dstride + b) needW c.words (o.err == some 0x101) = .ok (dst r b) ∧
      InStorage (src r b) 1 ∧ InStorage (dst r b) 1 ∧ s.matrixOwns o.ctx (src r b) = false ∧ Unguarded s (dst r b) 1 ∧
      NotMatrix s o.ctx (dst r b) 1 ∧
      ∀ q d, q < c.rows → d < c.rowBytes → dst r b ≠ src q d ∧ (dst r b = dst q d → r = q ∧ b = d)) →
    let moved := fun (t : State) (keep : Nat → Prop) => exec (.copyComplete op none) s = .next t ∧ t.ops = s.ops.erase op ∧
      (∀ r b, r < c.rows → b < c.rowBytes → t.mem.read (dst r b) = s.mem.read (src r b)) ∧
      ∀ a, keep a → (∀ r b, r < c.rows → b < c.rowBytes → a ≠ dst r b) → t.mem.read a = s.mem.read a
    (c.kind = 0 ∨ c.kind = 3 → (c.kind = 0 → TagAlone s o.grp c.tag op none) →
      ∃ t, moved t (fun _ => True) ∧ (t.group o.grp).tags = (s.group o.grp).tags |||
        (if c.kind = 0 ∧ (s.groups.get? o.grp).isSome then (1 : DWord) <<< c.tag else 0) ∧ t.ctxs = s.ctxs) ∧
    (∀ x, c.kind = 1 → (∃ uc mod, s.translate c.part c.caddr.toNat needRW = .ok x uc mod) →
      (∀ u, s.runCopy o.ctx o.core c (o.err == some 0x101) o.noObject none false = .done u none →
        ∃ uc mod, (u.dropOp op).translate c.part c.caddr.toNat needRW = .ok x uc mod) →
      x % 16 = 0 → (s.barrier x).armed = true → (s.barrier x).bytes = true →
      ∃ t, moved t (fun a => a < x ∨ x + 16 ≤ a) ∧ CountsDown s t x (c.rowBytes * c.rows)) ∧
    (∀ e, c.kind = 2 → s.waitingTask (c.caddr.setWidth 32) = some e →
      ∃ t, moved t (fun _ => True) ∧ TakesOne s t e ∧ t.ctxs = s.ctxs)) ∧
  ∀ (s : State) (core n pa q : Nat), let ch := s.channel core n
    ch.busy = true → ch.wait = none → ch.cur.toNat % 64 = 0 →
    s.side core ch.part ch.cur.toNat needR false ch.denied = .ok pa →
    s.side core ch.part ch.cur.toNat needW false ch.denied = .ok q →
    let c := s.transfer ch.ctx pa ch.part
    (s.shuttleNat ch.ctx (pa + 40) 4 % 2 = 0 → ∃ t, exec (.chainRecordComplete core n) s = .next t ∧
      t.channel core n = { ch with busy := false, denied := false, noObject := false } ∧
      (∀ k, k ≠ n → t.channel core k = s.channel core k) ∧ t = { s with cores := t.cores }) ∧
    (∀ s', s.shuttleNat ch.ctx (pa + 40) 4 % 2 = 1 → s.recordCheck ch.cur c = none →
      s.runCopy ch.ctx core { c with resolved := s.resolveWindow ch.part c } ch.denied ch.noObject none false = .done s' none →
      s'.recordOf (s'.ctx ch.ctx) = none → InStorage pa 64 → Unguarded s' (pa + 40) 8 →
      NotMatrix s' ch.ctx (pa + 40) 8 → s'.channel core n = ch →
      let closed := fun t : State => exec (.chainRecordComplete core n) s = .next t ∧
        t.channel core n = { ch with
          cur := BitVec.ofNat 64 (s'.shuttleNat ch.ctx (pa + 32) 8)
          busy := decide (s'.shuttleNat ch.ctx (pa + 32) 8 % 2 ^ 64 ≠ 0), denied := false, noObject := false }
      let words := toBytes 4 (s'.shuttleNat ch.ctx (pa + 40) 4 / 8 * 8 + 2) ++ toBytes 4 0
      (c.kind = 0 ∨ c.kind = 3 → (c.kind = 0 → TagAlone s' ch.grp c.tag s'.nextOp (some n) ∧ core = ch.grp / 128 ∧
          ((s'.core core).channels.map (·.1)).Pairwise (· < ·) ∧ ∀ p ∈ s'.ops, p.1 < s'.nextOp) →
        ∃ t, closed t ∧ s'.mem.Wrote t.mem (pa + 40) words ∧ (t.group ch.grp).tags = (s'.group ch.grp).tags |||
          (if c.kind = 0 ∧ (s'.groups.get? ch.grp).isSome then (1 : DWord) <<< c.tag else 0)) ∧
      (∀ x, c.kind = 1 → (∃ uc mod, (s'.updChannel core n (fun y => y.stop none)).translate c.part c.caddr.toNat needRW =
          .ok x uc mod) → x % 16 = 0 →
        (s'.barrier x).armed = true → (s'.barrier x).bytes = true → (x + 16 ≤ pa ∨ pa + 64 ≤ x) →
        ∃ t, closed t ∧ CountsDown s' t x (c.rowBytes * c.rows) ∧ ∀ a, (a < x ∨ x + 16 ≤ a) →
          t.mem.read a = if pa + 40 ≤ a ∧ a < pa + 48 then words.getD (a - (pa + 40)) 0 else s'.mem.read a) ∧
      ∀ e, c.kind = 2 → s'.waitingTask (c.caddr.setWidth 32) = some e →
        ∃ t, closed t ∧ s'.mem.Wrote t.mem (pa + 40) words ∧ TakesOne s' t e)

namespace Sys2Proof.Rules

/-- The collective k of group g, with its thread's operation, is the group's oldest without a decision, under completion
kind 3, and none before it waits for its answer to a decision. -/
def Open (s : State) (g k : Nat) (o : Op) (c : Coll) (tag : Nat) : Prop :=
  s.collOpen g = some (k, o, c, 3, tag) ∧ s.ops.get? k = some o ∧ o.kind = .coll g c 3 tag ∧
    s.collNumbered g c.number = some (k, c) ∧ c.number < s.collCount.getD g 0 ∧
    ∀ p ∈ s.collOps g, ∀ k' q x y, p.2.kind = .coll k' q x y → q.decided = none

/-- n bytes of a collective's partition from va on lie in memory from P on, which nobody guards, and no trace records them. -/
def CollAt (s : State) (o : Op) (c : Coll) (va P n : Nat) : Prop :=
  P + n ≤ 2 ^ 39 ∧ s.recordOf (s.ctx o.ctx) = none ∧ Unguarded s P n ∧ NotMatrix s o.ctx P n ∧
    ∀ i, i < n → s.side o.core c.part (va + i) needW true (o.err == some 0x101) = .ok (P + i)

/-- A collective has ended without committing: its status word, at P, holds a code and a rank, its destination stands
(R182, R183). -/
def Aborted (s t : State) (k P code rank : Nat) : Prop :=
  s.mem.Wrote t.mem P (toBytes 4 code ++ toBytes 4 rank) ∧
    t = { s with mem := t.mem, ecc := eccLeft s P 8, slots := rereads s, ops := s.ops.erase k }

/-- A collective has committed: the result is at its destination Q, and its status word, at P, says so (R182). -/
def Committed (s t : State) (k P Q : Nat) (result : List Byte) : Prop :=
  (∀ a, t.mem.read a = if P ≤ a ∧ a < P + 8 then (toBytes 4 1 ++ toBytes 4 0xFFFFFFFF).getD (a - P) 0
    else if Q ≤ a ∧ a < Q + result.length then result.getD (a - Q) 0 else s.mem.read a) ∧
  t = { s with mem := t.mem, ecc := t.ecc, slots := rereads s, ops := s.ops.erase k }

/-- The places that a commit writes: n bytes at the destination, then the status word, whose translation does not lie in the
destination. -/
def CommitPlaces (s : State) (o : Op) (c : Coll) (P Q n : Nat) : Prop :=
  CollAt s o c c.dst Q n ∧ CollAt s o c c.status P 8 ∧ (Q + n ≤ P ∨ P + 8 ≤ Q) ∧
    ∀ u : State, (∀ a, (a < Q ∨ Q + n ≤ a) → u.mem.read a = s.mem.read a) →
      u = { s with mem := u.mem, ecc := u.ecc, slots := u.slots, ops := u.ops } → (∀ a ∈ u.ecc, a ∈ s.ecc) →
      ∀ i, i < 8 → u.side o.core c.part (c.status + i) needW true (o.err == some 0x101) = .ok (P + i)

/-- Element i, of z bytes, of a partial result. -/
def element (z : Nat) (l : List Byte) (i : Nat) : Nat := ofBytes ((l.drop (i * z)).take z)

/-- Bytes of an element of an operation (Table 17.4). -/
def elementSize (op : Nat) : Nat := if op = 2 then 8 else 4

/-- One element of a sum (R182, Table 17.4). -/
def combined (op a b : Nat) : Nat :=
  let x : Word := BitVec.ofNat 32 a
  let y : Word := BitVec.ofNat 32 b
  match op with
  | 0 => (a + b) % 2 ^ 32
  | 1 => (addF32 x y).toNat
  | 2 => (fAdd fp64 rne (fp64.unpack a) (fp64.unpack b)).bits
  | 3 => (BitVec.ofInt 32 (min x.toInt y.toInt)).toNat
  | _ => (BitVec.ofInt 32 (max x.toInt y.toInt)).toNat

/-- The collective notes something of itself and goes on. -/
def CollNotes (s t : State) (k : Nat) (f : Coll → Coll) : Prop :=
  t.ops.get? k = (s.ops.get? k).map (fun x => match x.kind with
    | .coll g q kd t => { x with kind := .coll g (f q) kd t }
    | _ => x) ∧ (∀ j, j ≠ k → t.ops.get? j = s.ops.get? j) ∧ t = { s with ops := t.ops }

end Sys2Proof.Rules

/-- R182, R183, R263, R264: a partial result is staged until its collective is there, where its data keep to STAGE, and makes
an ABORT where they do not; then it is taken up; the last rank adds its
own contribution, element by element, and commits. A decision to abort writes the code and the rank into the status word and
nothing else, one to commit the result and then the status. A timeout, or an abort reported by a member, is such a decision at
the last rank and a report at the others. A write to a group with a collective in flight on it is held.

The model's choices, no rule of the spec's: the header of 4, 2 and 2 bytes that a contribution begins with (DESIGN CHOICE, log entry 22);
the rank that a timeout reports, the predecessor's, or the successor's once this member has passed its result on
(DEDUCED, log entry 87); where a held write stands until it can be made (DESIGN CHOICE, log entry 109). -/
def Obligations.CollectiveSteps : Prop :=
  (∀ (s : State) (g k P tag : Nat) (o : Op) (c : Coll), Open s g k o c tag → CollAt s o c c.status P 8 →
    let e := s.collGroup g
    let aborts := fun (i : Instr) (code rank : Nat) => ∃ t, exec i s = .next t ∧ Aborted s t k P code rank
    (c.aborted = false →
      (e.rank + 1 = e.size → aborts (.collTimeout g) 0x388 (if c.passed then e.rank + 1 else e.rank - 1)) ∧
      (e.rank + 1 ≠ e.size → ∃ t, exec (.collTimeout g) s = .next t ∧ CollNotes s t k (fun q => { q with aborted := true }))) ∧
    (c.aborted = true → aborts (.collDecisionTimeout g) 0x389 (e.size - 1)) ∧
    (∀ rank (code : BitVec 10), e.valid = true → e.rank + 1 = e.size →
      aborts (.collAbortReport (g, c.number) rank code) code.toNat rank) ∧
    (∀ rank (code : BitVec 10) data, e.valid = true → e.rank + 1 ≠ e.size →
      aborts (.collDecision (g, c.number) false code rank data) code.toNat rank) ∧
    (∀ data Q, e.valid = true → e.rank + 1 ≠ e.size → c.mode ≠ 1 → CommitPlaces s o c P Q data.length →
      ∃ t, exec (.collDecision (g, c.number) true 0 0 data) s = .next t ∧ Committed s t k P Q data) ∧
    (∀ data : List Byte, c.passed = false → c.aborted = false →
      data.take 8 = toBytes 4 c.n ++ toBytes 2 c.op ++ toBytes 2 c.mode → 0 < e.rank →
      (e.rank + 1 ≠ e.size → ∃ t, exec (.collContribution (g, c.number) (e.rank - 1) data) s = .next t ∧
        CollNotes s t k (fun q => { q with passed := true })) ∧
      (e.rank + 1 = e.size → s.inputs = [] → c.mode = 0 → ∀ result Q, result.length = c.n * elementSize c.op →
        (∀ i, i < c.n → element (elementSize c.op) result i =
          combined c.op (element (elementSize c.op) (data.drop 8) i) (element (elementSize c.op) c.contribution i)) →
        CommitPlaces s o c P Q result.length →
        ∃ t, exec (.collContribution (g, c.number) (e.rank - 1) data) s = .next t ∧ Committed s t k P Q result))) ∧
  (∀ (s : State) (g n rank : Nat) (data : List Byte), let e := s.collGroup g
    rank + 1 = e.rank → s.collCount.getD g 0 ≤ n → s.collNumbered g n = none →
    (∀ p ∈ s.collDone.getD g [], p.1 ≠ n) → (∀ p ∈ s.collIn.getD g [], p.1 ≠ n) →
    ∀ came, (data.length ≤ e.stage * 2 ^ 16 + 8 → came = some data) →
      (e.stage * 2 ^ 16 + 8 < data.length → e.rank + 1 ≠ e.size ∧ came = none) →
      ∃ t, exec (.collContribution (g, n) rank data) s = .next t ∧
        t.collIn.get? g = some (s.collIn.getD g [] ++ [(n, came)]) ∧
        (∀ h, h ≠ g → t.collIn.get? h = s.collIn.get? h) ∧ t = { s with collIn := t.collIn }) ∧
  ∀ (s : State) (g : BitVec 8) (i : BitVec 4) (v : Word), let pa := mgmtBase + 0x20000 + 64 * g.toNat + 4 * i.toNat
    s.held = [] →
    (s.mustWait pa (toBytes 4 v.toNat) = false → Unguarded s pa 4 → (∀ h, h < 256 → s.collNumbers h = []) →
      ∃ t, exec (.collGroupEntryWrite g i v) s = .next t ∧ s.mem.Wrote t.mem pa (toBytes 4 v.toNat) ∧
        t = { s with mem := t.mem, slots := rereads s }) ∧
    (s.collBusy g.toNat = true → 128 ≤ (s.mem.read (mgmtBase + 0x20000 + 64 * g.toNat + 3)).toNat →
      (∀ h, h < 256 → s.collNumbers h = [] ∨ s.lostMember (s.collGroup h) = none) →
      ∃ t, exec (.collGroupEntryWrite g i v) s = .next t ∧ t = { s with held := [⟨256, pa, toBytes 4 v.toNat⟩] })

/-- R69, R70, R150, R230, R250 to R254: the next block's stream of a deterministic launch is performed record by record;
two runs of a sampled block with one stream let it commit. A block that is over gives back its contexts, group slots and
rows; a launch whose work is done writes its completion record, STATUS last, and is gone; a dispatch starts the next block
of its launch, and a take starts its task, as a block on the core that takes it. -/
def Obligations.LaunchProgress : Prop :=
  (∀ (s : State) (n : Nat) (q : Launch) (l : List Staged), s.launches.get? n = some q → q.ending = none →
    q.streams.get? q.committed = some l → q.trace = none →
    (∀ r ∈ l, r.kind = 0 ∧ r.pa + r.data.length ≤ 2 ^ 39 ∧ Unguarded s r.pa r.data.length) →
    ∃ t, exec (.detCommit n) s = .next t ∧ t.mem = l.foldl (fun m r => m.writeBytes r.pa r.data) s.mem ∧
      t.launches.get? n = some { q with streams := q.streams.erase q.committed, committed := q.committed + 1 } ∧
      (∀ k, k ≠ n → t.launches.get? k = s.launches.get? k) ∧
      t = { s with mem := t.mem, ecc := t.ecc, launches := t.launches, slots := if l = [] then s.slots else rereads s }) ∧
  (∀ (s : State) (n b x y : Nat) (q : Launch) (l m : List Staged), s.launches.get? n = some q →
    q.first.get? b = some (x, l) → q.second.get? b = some (y, m) →
    (l = m → ∃ t z, exec (.detSampleCompare n b) s = .next t ∧ t.launches.get? n = some z ∧ z.streams.get? b = some l ∧
      z = { q with first := q.first.erase b, second := q.second.erase b, streams := z.streams } ∧
      (∀ k, k ≠ n → t.launches.get? k = s.launches.get? k) ∧ t = { s with launches := t.launches }) ∧
    (sha256 (streamBytes l) ≠ sha256 (streamBytes m) → q.ending = none → q.gang = none → q.prop = none →
      ∃ t z, exec (.detSampleCompare n b) s = .next t ∧ t.launches.get? n = some z ∧
        z.ending = some ⟨2, 0x385, b, 0, 0, x % 256 + 256 * (y % 256)⟩ ∧ t.mem = s.mem)) ∧
  (∀ (s : State) (b : Nat), s.blockOver b = true → (s.block b).stage = [] → (s.block b).failed = none →
    (s.block b).sample = none → (s.tasks.getD (s.block b).task {}).record = none →
    (s.launches.getD (s.block b).launch {}).prop = none →
    (s.launches.getD (s.tasks.getD (s.block b).task {}).launch {}).prop = none →
    s.faults = [] → (∀ p ∈ s.cores, p.2.growQ = []) →
    ∃ t, exec (.blockEnd b) s = .next t ∧ t.blocks = s.blocks.erase b ∧
      t.ctxs = s.ctxs.filter (fun p => decide (p.2.block ≠ b)) ∧
      t.groups = s.groups.filter (fun p => decide (p.2.block ≠ b)) ∧ t.mem = s.mem ∧
      ∀ k, (t.core k).freeRows = (s.core k).freeRows +
        ((s.groups.filter (fun p => decide (p.2.block = b) && decide (p.1 / 128 = k))).map (fun p => p.2.alloc)).sum) ∧
  (∀ (s : State) (n : Nat) (q : Launch), s.launches.get? n = some q → s.launchDone n q = true → q.prop = none →
    let e := q.ending.getD ⟨1, 0, 0, 0, 0, 0⟩
    let w := s.virtStore q.part (q.compl.toNat + 4)
      (toBytes 4 e.cause.toNat ++ toBytes 4 e.block ++ toBytes 4 e.tid ++ toBytes 8 e.pc.toNat ++ toBytes 8 e.detail ++
        toBytes 4 n ++ toBytes 4 (q.trace.getD 0xFFFFFFFF) ++ toBytes 4 q.sacHit.toNat ++ toBytes 4 q.sacMiss.toNat ++
        toBytes 4 q.sacSkip.toNat ++ toBytes 12 0)
    ∃ t, exec (.launchComplete n) s = .next t ∧ t.mem = (w.virtStore q.part q.compl.toNat (toBytes 4 e.status)).mem ∧
      t.launches.get? n = none ∧ (∀ k, k ≠ n → t.launches.get? k = s.launches.get? k) ∧
      ∀ p ∈ t.tasks, p.2.launch ≠ n) ∧
  (∀ (s : State) (panel n : Nat) (c : Candidate) (cores : List Nat) (q : Launch), s.choose panel = some (c, none) →
    c.work = .block n cores [] → s.launches.get? n = some q → q.reserved = false → s.freeEntry.isSome = true →
    ∃ t b x y, exec (.blockDispatch panel) s = .next t ∧ t.blocks.get? b = some x ∧
      x.launch = n ∧ x.index = q.dispatched ∧ x.nthr = q.nthr ∧ x.cores = cores ∧
      t.launches.get? n = some y ∧ y.dispatched = q.dispatched + 1 ∧ y.bypass = 0) ∧
  ∀ (s : State) (core e : Nat) (c : Candidate) (cores : List Nat) (x : Task),
    (s.candidates (core / 48)).find? (Candidate.forCore core) = some c → s.choose (core / 48) = some (c, none) →
    c.work = .task e core → s.admits core e = some cores → s.tasks.get? e = some x →
    ∃ t b y z, exec (.taskTake core) s = .next t ∧ t.blocks.get? b = some y ∧ y.task = e ∧ y.launch = x.launch ∧
      y.cores = cores ∧ t.tasks.get? e = some z ∧ z.phase = .running ∧ z.block = some b ∧ z.queue = none ∧
      ∀ k, x.queue = some k → e ∉ (t.core k).taskQ

namespace Sys2Proof.Rules

/-- The command at a mapped slot's READ has finished its step (R246, R248): READ is one higher and AGE is 0. -/
def Finished (s t : State) (slot : Nat) : Prop :=
  ∃ y, t.slots.get? slot = some y ∧ y.read = (s.slots.getD slot {}).read + 1 ∧ y.age = 0 ∧ y.begun = false ∧
    y.running = false ∧ y.map = true ∧ y.qcb = (s.slots.getD slot {}).qcb

/-- A slot that is there and mapped, and the command at its READ, which may begin. -/
def Commands (s : State) (slot op : Nat) (l : List Word) : Prop :=
  (s.slots.getD slot {}).map = true ∧ s.judge slot op = .ok l

/-- 64 bits of a command. -/
def word64 (l : List Word) (i : Nat) : Nat := (l.getD i 0).toNat + (l.getD (i + 1) 0).toNat * 2 ^ 32

end Sys2Proof.Rules

/-- R196, R209, R213, R247 to R250: LAUNCH admits the launch that its descriptor describes under the next number; one that
is rejected is recorded and passed; a command that breaks a limit stops its queue and is logged. PROP answers 0 at once
where nothing is stale, and 0xFFFF_FFFF for a trace it cannot name; WAITW goes on where its relation holds and waits where
it does not, and reads again after a write and at a poll; SIGW begins at once, and stores its value when every earlier launch
of its queue has completed. Two of the clauses hold the model's choice and no rule of the spec's: the record of a rejected
launch is written with LAUNCH 0 (DESIGN CHOICE, log entry 30), and an admitted launch takes the number above every live one's
(DESIGN CHOICE, log entry 128). -/
def Obligations.QueueCommands : Prop :=
  (∀ (s : State) (slot op : Nat), s.slots.get? slot ≠ none → s.judge slot op = .bad → ∀ i,
    (i = .launch slot ∧ op = 1) ∨ (i = .gang slot ∧ op = 2) ∨ (i = .propCommand slot ∧ op = 3) ∨
      (i = .waitw slot ∧ op = 4) ∨ (i = .sigw slot ∧ op = 5) →
    let q := s.slots.getD slot {}
    ∃ t, exec i s = .next t ∧ (t.slots.getD slot {}).stopped = true ∧
      t.elogHead = (s.logReads q.part (s.entryAddress q) 16).elogHead + 1 ∧ t.launches = s.launches) ∧
  (∀ (s : State) (slot : Nat) (l : List Word), Commands s slot 1 l →
    let q := s.slots.getD slot {}
    let b := (s.beginCommand slot).logDescriptor q.part (word64 l 2)
    (∀ r region size, b.prepare q.part (word64 l 2) = .ok r region size → r.kernel.traced = false →
      r.kernel.bclass ≠ 0 → r.gang = none → withinBudget r.kernel r.nthr = true →
      ∃ t x, exec (.launch slot) s = .next t ∧ Finished s t slot ∧ t.launches.get? s.launchNumber = some x ∧
        x = { r with slot := some slot, queue := q.queue, prio := x.prio, order := s.seq, image := some b.mem } ∧
        (∀ k, k ≠ s.launchNumber → t.launches.get? k = s.launches.get? k) ∧ t.mem = b.mem ∧ t.blocks = s.blocks) ∧
    (∀ r cause, b.prepare q.part (word64 l 2) = .reject r cause →
      ∃ t, exec (.launch slot) s = .next t ∧ Finished s t slot ∧ t.launches = s.launches ∧
        t.mem = (b.writeRecord 0 r ⟨3, cause, 0, 0, 0, 0⟩).mem)) ∧
  (∀ (s : State) (slot : Nat) (l : List Word), Commands s slot 3 l →
    let q := s.slots.getD slot {}
    let b := s.beginCommand slot
    let k := q.part * 16 + (l.getD 2 0).toNat
    (∀ w, q.running = true → q.age = 0 → q.result = some w →
      ∃ t, exec (.propCommand slot) s = .next t ∧ Finished s t slot ∧
        t.mem = (s.virtStore q.part (word64 l 4) (toBytes 4 w.toNat)).mem) ∧
    (q.running = false → (15 < (l.getD 2 0).toNat ∨ s.traces.get? k = none) →
      ∃ t, exec (.propCommand slot) s = .next t ∧ Finished s t slot ∧
        t.mem = (b.virtStore q.part (word64 l 4) (toBytes 4 0xFFFFFFFF)).mem) ∧
    (∀ tr, q.running = false → (l.getD 2 0).toNat ≤ 15 → s.traces.get? k = some tr → tr.dead = false → tr.done = true → tr.props = [] → tr.spoiled = false →
      (∀ p ∈ tr.recs, p.2.stale = false) → s.propLaunch k = none →
      ∃ t y, exec (.propCommand slot) s = .next t ∧ t.slots.get? slot = some y ∧ y.running = true ∧ y.result = some 0 ∧
        y.read = q.read ∧ t.mem = s.mem)) ∧
  (∀ (s : State) (slot : Nat) (l : List Word), Commands s slot 4 l →
    let q := s.slots.getD slot {}
    let reads := fun (u : State) (i : Instr) =>
      let v := u.logReads q.part (word64 l 2) 1
      let holds := ∃ w, v.virtWord q.part (word64 l 2) = some w ∧
        ((l.getD 6 0).toNat % 2 = 0 ↔ w &&& l.getD 5 0 = l.getD 4 0)
      ∃ t, exec i s = .next t ∧ t.mem = v.mem ∧ (holds → Finished s t slot) ∧
        (¬ holds → ∃ y, t.slots.get? slot = some y ∧ y.begun = true ∧ y.awake = false ∧ y.read = q.read)
    (q.begun = false → reads (s.beginCommand slot) (.waitw slot)) ∧
    (q.begun = true → q.age = 0 → reads s (.waitwPoll slot) ∧ (q.awake = true → reads s (.waitw slot)))) ∧
  ∀ (s : State) (slot : Nat) (l : List Word), Commands s slot 5 l →
    let q := s.slots.getD slot {}
    (q.running = false → s.earlierLaunch q = true →
      ∃ t y, exec (.sigw slot) s = .next t ∧ t.slots.get? slot = some y ∧ y = { q with running := true, age := 0 } ∧
        (∀ k, k ≠ slot → t.slots.get? k = s.slots.get? k) ∧ t = { s with slots := t.slots }) ∧
    ∀ u : State, (q.running = true ∧ q.age = 0 ∧ u = s) ∨ (q.running = false ∧
        u = (s.beginCommand slot).updSlot slot (fun x => { x with running := true })) → s.earlierLaunch q = false →
      ∃ t, exec (.sigw slot) s = .next t ∧ Finished s t slot ∧
        t.mem = (u.virtStore q.part (word64 l 2) (toBytes 4 (l.getD 4 0).toNat)).mem

/-- R245 to R247: a kick awakes the slot that has its queue mapped, if there is something new, and otherwise sets the
pending bit of a valid queue of the partition. MAP = 1 loads READ and AGE; MAP = 0 writes them back; a millisecond raises
AGE, up to 65,280, where a queue's head waits. Two points are the model's choice and no rule of the spec's: a kick of an
unmapped queue sets the latch of all four stewards (DESIGN CHOICE, log entry 37), and a kick or a mapping sets awake to whether
the queue holds something that READ has not passed (DEDUCED, log entry 47). -/
def Obligations.SlotsAndKicks : Prop :=
  (∀ (s : State) (core k : Nat) (queue : BitVec 16) (x : Slot), s.slotOf (s.partOfCore core) queue.toNat = some k →
    s.slots.get? k = some x → s.responseError 255 (x.qcb + 16) 4 = none →
    ∃ t, exec (.kick false core queue) s = .next t ∧
      t.slots.get? k = some { x with awake := decide (x.read.toNat ≠ s.physNat 255 (x.qcb + 16) 4) } ∧
      (∀ j, j ≠ k → t.slots.get? j = s.slots.get? j) ∧ t = { s with slots := t.slots }) ∧
  (∀ (s : State) (byHost : Bool) (source part : Nat) (queue : BitVec 16) (p : Partition),
    (if byHost then source = part + 1 else s.partOfCore source = part) → s.slotOf part queue.toNat = none →
    s.parts.get? part = some p → s.responseError 255 (p.qtable + 64 * queue.toNat + 8) 4 = none →
    s.physNat 255 (p.qtable + 64 * queue.toNat + 8) 4 / 2 ^ 31 % 2 = 1 →
    s.physNat 255 (p.qtable + 64 * queue.toNat + 8) 4 / 2 ^ 8 % 2 ^ 4 = part →
    (∀ n, n < 4 → (s.ctx n).parkKind ≠ some .wfe) →
    ∃ t y, exec (.kick byHost source queue) s = .next t ∧ t.parts.get? part = some y ∧ queue.toNat ∈ y.pending ∧
      (∀ n, n ≠ queue.toNat → (n ∈ y.pending ↔ n ∈ p.pending)) ∧ y = { p with pending := y.pending } ∧
      (∀ n, n < 4 → (t.steward n).latch = true) ∧ t = { s with parts := t.parts, stewards := t.stewards }) ∧
  (∀ (s : State) (slot : Nat), let q := s.slots.getD slot {}
    let field := fun n : Nat => s.physNat 255 (q.qcb + n) 4
    let part := field 8 / 2 ^ 8 % 2 ^ 4
    q.map = false → q.busy = false → s.goodQcb q.qcb = true → (∀ p ∈ s.slots, p.2.map = true → p.2.qcb ≠ q.qcb) →
    ∃ t y, exec (.slotMap slot) s = .next t ∧ t.slots.get? slot = some y ∧ y.map = true ∧ y.busy = true ∧ y.qcb = q.qcb ∧
      y.part = part ∧ y.queue = (q.qcb - (s.parts.getD part {}).qtable) / 64 ∧
      y.read.toNat = field 20 ∧ y.age = field 12 ∧ y.awake = decide (field 20 ≠ field 16) ∧
      (∀ x, s.parts.get? part = some x → t.parts.get? part = some { x with pending := x.pending.filter (· ≠ y.queue) }) ∧
      (∀ k, k ≠ slot → t.slots.get? k = s.slots.get? k) ∧ t = { s with slots := t.slots, parts := t.parts }) ∧
  (∀ (s : State) (slot : Nat), let q := s.slots.getD slot {}
    q.map = true → q.running = false →
    (∀ n, n = 12 ∨ n = 20 → s.accessError 255 (q.qcb + n) 4 = none ∧ s.cutPeer (q.qcb + n) = false) →
    ∃ t y, exec (.slotUnmap slot) s = .next t ∧ t.slots.get? slot = some y ∧ y.map = false ∧ y.busy = false ∧
      (∀ a, t.mem.read a = if q.qcb + 20 ≤ a ∧ a < q.qcb + 24 then (toBytes 4 q.read.toNat).getD (a - (q.qcb + 20)) 0
        else if q.qcb + 12 ≤ a ∧ a < q.qcb + 16 then (toBytes 4 q.age).getD (a - (q.qcb + 12)) 0 else s.mem.read a) ∧
      (∀ k, k ≠ slot → t.slots.get? k = (rereads s).get? k) ∧
      t = { s with slots := t.slots, mem := t.mem, ecc := t.ecc }) ∧
  ∀ (s : State), (∀ p ∈ s.slots, s.responseError 255 (p.2.qcb + 16) 4 = none) →
    ∃ t, exec .queueAgeTick s = .next t ∧ t = { s with slots := t.slots } ∧
    ∀ k q, s.slots.get? k = some q → t.slots.get? k = some { q with
      age := if q.map = true ∧ q.begun = false ∧ q.running = false ∧ q.read.toNat ≠ s.physNat 255 (q.qcb + 16) 4 then
        min 65280 (q.age + 1) else q.age }

/-- R212 to R214, R255: a gang whose members can all be admitted is reserved whole: its own device's start, and another's
wait for the start; where another device has refused, what was reserved here is released. The start lets the members go; an
acknowledgement is noted; one that does not come aborts every member here, and so does the abort of another issuer. The
model's reading, no rule of the spec's (DEDUCED, log entry 34): a gang of device d and number n stands under (d + 1) · 2^32 + n, the
device's own under a number below 2^32; a refusal releases what is reserved at every device; the issuer's abort ends a
member as a missing acknowledgement does. -/
def Obligations.GangMessages : Prop :=
  (∀ (s s' : State) (slot : Nat) (l ws : List Word) (ms : List Nat), Commands s slot 2 l →
    let q := s.slots.getD slot {}
    let b := s.beginCommand slot
    let n := (l.getD 4 0).toNat % 32
    let ps := b.prepareAll q.part ((List.range n).map (fun i => word64 ws (2 * i)))
    let g := s.localGang
    (l.getD 5 0).toNat = 0 → b.virtWords q.part (word64 l 2) (2 * n) = some ws → b.logReads q.part (word64 l 2) (2 * n) = b →
    (∀ i, i < n → b.logDescriptor q.part (word64 ws (2 * i)) = b) → (goodMembers ps).length = n →
    { b with free := s.free + 256 : State }.admitAll g false ((goodMembers ps).map (fun p =>
      ({ p.1 with slot := some slot, queue := q.queue, prio := b.slotPriority (b.slots.getD slot {}) }, p.2))) = some (s', ms) →
    s'.slots = b.slots →
    ∃ t, exec (.gang slot) s = .next t ∧ Finished s t slot ∧ t.launches = s'.launches ∧ t.blocks = s'.blocks ∧
      t.gangs.get? g = some { members := ms, remote := [], awaiting := [], started := true, slot := some slot }) ∧
  (∀ (s s' : State) (device : BitVec 8) (n part : Nat) (ds ms : List Nat), let g := (device.toNat + 1) * 2 ^ 32 + n % 2 ^ 32
    let ps := s.prepareAll part ds
    (∀ va ∈ ds, s.logDescriptor part va = s) →
    (goodMembers ps).length = ds.length → s.gangs.get? g = none → s.admitAll g true (goodMembers ps) = some (s', ms) →
    ∃ t, exec (.gangReservation device n ds (.inl part)) s = .next t ∧
      t.gangs.get? g = some { members := ms, remote := [device.toNat] } ∧ t = { s' with gangs := t.gangs }) ∧
  (∀ (s : State) (device refuser : BitVec 8) (n : Nat) (x : Gang), let g := (device.toNat + 1) * 2 ^ 32 + n % 2 ^ 32
    s.gangs.get? g = some x → x.started = false →
    ∃ t, exec (.gangReservation device n [] (.inr refuser)) s = .next t ∧ ∀ m ∈ x.members, t.launches.get? m = none) ∧
  (∀ (s : State) (device : BitVec 8) (n : Nat) (x : Gang), let g := (device.toNat + 1) * 2 ^ 32 + n % 2 ^ 32
    s.gangs.get? g = some x →
    ∃ t, exec (.gangStart device n) s = .next t ∧ t.gangs.get? g = some { x with started := true } ∧
      (∀ k q, s.launches.get? k = some q →
        t.launches.get? k = some { q with held := if k ∈ x.members then false else q.held }) ∧
      t = { s with gangs := t.gangs, launches := t.launches }) ∧
  (∀ (s : State) (device : BitVec 8) (g : Nat) (x : Gang), s.gangs.get? g = some x → x.aborted = false →
    ∃ t, exec (.gangStartAck device g) s = .next t ∧
      t.gangs.get? g = some { x with awaiting := x.awaiting.filter (· ≠ device.toNat) } ∧
      (∀ k, k ≠ g → t.gangs.get? k = s.gangs.get? k) ∧ t = { s with gangs := t.gangs }) ∧
  ∀ (s : State) (device : BitVec 8) (n g : Nat) (issuer : Option (BitVec 8)) (x : Gang),
    (issuer = none → g = n ∧ device.toNat ∈ x.awaiting) → (∀ d, issuer = some d → g = (d.toNat + 1) * 2 ^ 32 + n % 2 ^ 32) →
    s.gangs.get? g = some x →
    ∃ t, exec (.gangAckTimeout device (n, issuer)) s = .next t ∧ (t.gangs.getD g {}).aborted = true ∧ t.mem = s.mem ∧
      ∀ m ∈ x.members, ∀ q, s.launches.get? m = some q → q.ending = none →
        (t.launches.getD m {}).ending = some ⟨2, 0x387, 0, 0, 0, device.toNat * 2 ^ 32⟩

/-- R18, R31, R38, R210, R236 to R238: the answer to a fault buffer entry sends its waiters back to their words, or traps
them; a wait that has been counted to the launch's 2 ^ k cycles traps WAIT_WATCHDOG at its word; when the deadlock check's
conditions have held for 65,536 cycles, the group that waits in GROW traps, and a thread without a handler ends its launch; a
machine check ends its block's threads without a handler, and their launch or, where the task is restartable, the run; a PC
of a class C group that has starved goes to the front of the rotation. Two clauses on the watchdog hold the model's choice and
no rule of the spec's: a thread that it takes out of a JOIN gives its arrival back (DEDUCED, log entry 54), and the scope
reported for a JOIN and a PROP is 0 (DESIGN CHOICE, log entry 117). -/
def Obligations.AnswersAndAlarms : Prop :=
  (∀ (s : State) (core entry : Nat), let k := core * 256 + entry
    (s.faults.get? k).isSome = true → s.NoneWait (fun q => match q with | .xfault none _ _ => true | _ => false) →
    (∀ w ∈ s.faultQ, w.core ≠ core) →
    (∃ t, exec (.frespReplay core entry) s = .next t ∧ t.faults = s.faults.erase k ∧
      (∀ id ∈ s.faultWaiters k, t.ctx id = { s.ctx id with status := .running }) ∧
      (∀ id, id ∉ s.faultWaiters k → t.ctx id = s.ctx id) ∧
      (∀ n o, s.ops.get? n = some o → t.ops.get? n = some (if o.fault = some k then { o with fault := none } else o)) ∧
      t.mem = s.mem) ∧
    ∀ id va info n sc m, s.faultWaiters k = [id] → (s.ctx id).status = .parked (.xfault (some k) va info) n sc m →
      let c := s.ctx id
      (s.ctxs.get? id).isSome = true → s.handlerOf c ≠ 0 → c.handler = false →
      ∃ t, exec (.frespFail core entry) s = .next t ∧ t.faults = s.faults.erase k ∧
        t.ctx id = entered c (s.handlerOf c) c.pc (BitVec.ofNat 64 va) 0x100 (BitVec.ofNat 32 info) ∧
        (∀ j, j ≠ id → t.ctx j = s.ctx j) ∧
        (∀ n o, s.ops.get? n = some o →
          t.ops.get? n = some (if o.fault = some k then { o with fault := none, err := some 0x101 } else o)) ∧
        t.mem = s.mem) ∧
  (∀ (s : State) (id scope : Nat), let c := s.ctx id
    isSteward c.core = false → (s.launchFor c).watchdog ≠ 0 → 2 ^ (s.launchFor c).watchdog ≤ c.count → s.resident id = true →
    s.watched id = some scope → (s.ctxs.get? id).isSome = true → s.handlerOf c ≠ 0 → c.handler = false →
    c.parkKind.any isRingWait = false →
    ∃ t, exec (.waitWatchdog id) s = .next t ∧
      t.ctx id = entered c (s.handlerOf c) c.pc c.pc 0x201 (BitVec.ofNat 32 scope) ∧
      (∀ j, j ≠ id → t.ctxs.get? j = s.ctxs.get? j) ∧
      (∀ n, c.parkKind = some (.join n) → ((t.groupOf c).arrived.getD n 0).getLsbD c.lane = false) ∧
      t = { s with ctxs := t.ctxs, groups := t.groups }) ∧
  (∀ (s : State) (core g n id : Nat), let c := s.ctx id
    let l := (s.block c.block).launch
    65536 ≤ (s.core core).quiet → s.deadlockHolds core = true → (s.core core).growQ = [(g, n)] →
    (s.group g).saved = none → (s.group g).members = [id] → (s.group g).block = c.block → c.parkKind = some (.grow n) →
    (s.ctxs.get? id).isSome = true → (s.launches.get? l).isSome = true →
    (s.handlerOf c ≠ 0 → c.handler = false →
      ∃ t, exec (.growDeadlockCheck core) s = .next t ∧
        t.ctx id = entered c (s.handlerOf c) c.pc c.pc 0x280 (BitVec.ofNat 32 n) ∧ (∀ j, j ≠ id → t.ctx j = s.ctx j) ∧
        t.core core = { s.core core with growQ := [], quiet := 0 } ∧
        (t.launches.getD l {}).ending = (s.launches.getD l {}).ending ∧
        t = { s with ctxs := t.ctxs, cores := t.cores, launches := t.launches }) ∧
    ∀ q, s.launches.get? l = some q → s.handlerOf c = 0 → q.deadlocked = [] → q.deadlock = none → q.ending = none →
      q.prop = none → q.gang = none →
      ∃ t y, exec (.growDeadlockCheck core) s = .next t ∧ t.launches.get? l = some y ∧
        y.ending = some ⟨2, 0x280, (s.block c.block).index, c.tid, c.pc, core⟩ ∧ (t.ctx id).live = false) ∧
  (∀ (s : State) (b core code : Nat) (k : Block), s.blocks.get? b = some k →
    let runs := if k.sample = some 1 then k.runs else (s.tasks.getD k.task {}).runs
    (k.restart = true → runs < 3 →
      ∃ t, exec (.machineCheck b core code) s = .next t ∧
        t.blocks.get? b = some { k with failing := none, failed := some 0x106 } ∧ t.elogHead = s.elogHead + 1 ∧
        t.launches = s.launches ∧ ∀ id, (t.ctx id).block = b → (t.ctxs.get? id).isSome = true → (t.ctx id).live = false) ∧
    ∀ q, (k.restart = true → 3 ≤ runs) → s.launches.get? k.launch = some q → q.ending = none → q.gang = none → q.prop = none →
      ∃ t y, exec (.machineCheck b core code) s = .next t ∧ t.launches.get? k.launch = some y ∧
        y.ending = some ⟨2, 0x106, 0, 0, 0, code % 256 + core % 256 * 2 ^ 8⟩ ∧ t.elogHead = s.elogHead + 1 ∧
        ∀ id, (t.ctx id).block = b → (t.ctxs.get? id).isSome = true → (t.ctx id).live = false) ∧
  ∀ (s : State) (core slot : Nat) (pc : DWord), let g := s.group (groupKey core slot)
    (s.groups.get? (groupKey core slot)).isSome = true → (s.block g.block).kernel.tclass = 0 → pc ∉ g.starved →
    (∃ n, (pc, n) ∈ g.pcSince ∧ n + (s.launches.getD (s.block g.block).launch {}).starve ≤ s.now core) →
    ∃ t, exec (.starvationTimeExpiry core slot pc) s = .next t ∧
      t.group (groupKey core slot) = { g with starved := g.starved ++ [pc] } ∧
      (∀ k, k ≠ groupKey core slot → t.groups.get? k = s.groups.get? k) ∧ t = { s with groups := t.groups }

/-- R239 to R243: a request asks every group of the unit to stop; once one is quiet, and no block of it has failed, its threads'
results land and it is saved, keeping its slot and its registers; it resumes with the registers it had where nothing has
written its save area. A swap takes one partition off its cores, whose cycle counters go on, and puts the other on them.
That the save area of a group stands at 2^16 times its index above its block's base is the model's choice (DESIGN CHOICE,
log entry 24). -/
def Obligations.PreemptionSteps : Prop :=
  (∀ (s : State) (core slot : Nat), core < 192 → (s.groups.get? (groupKey core slot)).isSome = true →
    ∃ t, exec (.preemptionRequest core slot) s = .next t ∧ t = { s with groups := t.groups } ∧
      ∀ k g, s.groups.get? k = some g → t.groups.get? k = some { g with
        preempt := if k ∈ s.unitKeys (groupKey core slot) then true else g.preempt }) ∧
  (∀ (s : State) (core slot : Nat) (g : Group), let key := groupKey core slot
    core < 192 → s.groups.get? key = some g → s.unitKeys key = [key] → s.groupQuiet key = true →
    (s.block g.block).kernel.gclass ≠ 0 → (s.block g.block).failed = none → (s.block g.block).failing = none →
    s.faults = [] → s.faultQ = [] →
    ∃ t y, exec (.contextSave core slot) s = .next t ∧ t.groups.get? key = some y ∧
      y.saved.map (·.1) = some (s.saveBase g.block + 2 ^ 16 * g.index) ∧
      y = { g with saved := y.saved, pcSince := [], starved := [], since := none, preempt := false } ∧
      (∀ id ∈ g.members, (s.ctxs.get? id).isSome = true →
        t.ctx id = (s.ctx id).land.saved ∧ (t.ctx id).pc = (s.ctx id).pc ∧ (t.ctx id).v = (s.ctx id).v) ∧
      (∀ id, id ∉ g.members → t.ctxs.get? id = s.ctxs.get? id) ∧
      (∀ k, k ≠ key → t.groups.get? k = s.groups.get? k) ∧
      (∀ k x, s.slots.get? k = some x → ∃ z, t.slots.get? k = some z ∧ z = { x with awake := z.awake }) ∧
      t = { s with ctxs := t.ctxs, groups := t.groups, mem := t.mem, ecc := t.ecc, slots := t.slots }) ∧
  (∀ (s : State) (core slot toCore : Nat) (g : Group), let key := groupKey core slot
    let kept := fun off n => s.areaKept (s.launches.getD (s.block g.block).launch {}).part g.saved off n
    core < 192 → slot < 128 → s.groups.get? key = some g → g.saved.isSome = true → s.unitKeys key = [key] →
    kept 0 256 = true → (∀ id ∈ g.members, kept (256 + 1280 * (s.ctx id).lane) 1280 = true) →
    s.NoneWait (fun q => match q with | .regrp _ => true | _ => false) →
    ∃ t, exec (.contextRestore core slot toCore) s = .next t ∧
      t.groups.get? key = some { g with
        saved := none, preempt := false, lastPc := none, yielded := none, since := none, pcSince := [], starved := [] } ∧
      (∀ k, k ≠ key → t.groups.get? k = s.groups.get? k) ∧
      (∀ id ∈ g.members, ∀ c, s.ctxs.get? id = some c → t.ctxs.get? id = some { c with due := c.deferred.isSome }) ∧
      (∀ id, id ∉ g.members → t.ctxs.get? id = s.ctxs.get? id) ∧ t = { s with ctxs := t.ctxs, groups := t.groups }) ∧
  ∀ (s : State) (p q : Nat) (x y : Partition), s.parts.get? p = some x → s.parts.get? q = some y → p ≠ q →
    x.swapped = false → y.swapped = true → s.partSaved p = true → (∀ d ∈ y.quads, d ∈ x.quads) →
    (∀ b ∈ s.blocks, b.2.saved.isSome = true → (s.launches.getD b.2.launch {}).part ≠ q) →
    ∃ t, exec (.partitionSwap p q) s = .next t ∧ t.parts.get? p = some { x with swapped := true } ∧
      t.parts.get? q = some { y with swapped := false } ∧
      (∀ k, k ≠ p → k ≠ q → t.parts.get? k = s.parts.get? k) ∧ ∀ c ∈ s.coresOf p, t.now c = s.now c

namespace Sys2Proof.Rules

/-- The device is in tack mode: no partition, no launch, no block (R268, R270). -/
def Tack (t : State) (reason : Nat) : Prop :=
  t.boot.state = 4 ∧ t.boot.reason = reason ∧ t.parts = [] ∧ t.launches = [] ∧ t.blocks = [] ∧ t.ops = []

/-- A boot attempt has failed (R265, R267): the third in a row leads to tack mode. -/
def Fails (s t : State) (reason : Nat) : Prop :=
  if s.boot.attempts + 1 < 3 then
    t = { s with boot := { s.boot with
      state := 0, attempts := s.boot.attempts + 1, reason := reason, linkUp := false, url := false } }
  else Tack t reason ∧ t.boot.attempts = 3 ∧ t.mem = s.mem

/-- A verified image runs on the four stewards (R265, R267, R269): the measurement log begins with its digest, the key
hash and the boot status. -/
def Runs (s t : State) (image : List Byte) : Prop :=
  t.boot.state = 3 ∧ t.boot.image = image ∧ t.boot.logEnd = 0x1044 ∧ t.mem.readBytes (mgmtBase + 0x1000) 32 = sha256 image ∧
    ∀ p, p < 4 → (s.ctxs.get? p).isSome = true → (t.ctx p).status = .running ∧ (t.ctx p).pc = 0x090080000000

/-- No group has a collective in flight, or a partial result of one. -/
def NoCollective (s : State) : Prop := ∀ h, h < 256 → s.collNumbers h = []

/-- What a write of a management register may find in its way: earlier writes that wait, and objects at the address. -/
def Free (s : State) (off n : Nat) : Prop := s.held = [] ∧ Unguarded s (mgmtBase + off) n

/-- A share of the Step Activation Cache that a partition may have: a multiple of 16, of the 16,384 entries that the others
leave (R10, R221). -/
def Shares (s : State) (part share : Nat) : Prop :=
  share % 16 = 0 ∧ share + ((s.parts.filter (fun p => decide (p.1 ≠ part))).map (fun p => p.2.sacShare)).sum ≤ 16384

end Sys2Proof.Rules

/-- R16, R251, R261, R262, R270: a refresh gives a panel its headroom and its clock; a junction of 110 °C, or a supply out
of its limits, ends in tack mode. A flit in sequence with a good CRC clears the failures and moves the sequence numbers; a
failure and
1,024 failed retransmissions after it take the link down. A write of a route entry takes effect, or waits while a request of a
pair that it would move is in flight; writes of the link timeout and of a plain word of the management space take effect, and
those of read-only words none. Two clauses hold the model's choice and no rule of the spec's: where a held write stands
until it can be made (DESIGN CHOICE, log entry 109), and that a word that no rule lists, at 0x2000 to 0xFFFF of the management
space, holds what is written (DESIGN CHOICE, log entry 126). -/
def Obligations.PowerAndLinks : Prop :=
  (∀ (s : State) (panel j : Nat) (h : BitVec 2),
    (110 ≤ j → ∃ t, exec (.powerRefresh panel h j) s = .next t ∧ Tack t 9) ∧
    (j < 110 → let p := s.panel panel
      let hot := 95 < j ∨ (p.hot = true ∧ 90 < j)
      let waits := ∃ n ∈ s.bypassCounts panel, 0 < n
      ∃ t, exec (.powerRefresh panel h j) s = .next t ∧ (t.panel panel).headroom = h.toNat ∧
        ((t.panel panel).hot = true ↔ hot) ∧
        (95 < j → (t.panel panel).clock = max 9 (p.clock - 1)) ∧
        (h = 3 → ¬ waits → ¬ hot → (t.panel panel).clock = min 17 (p.clock + 1)) ∧
        (j ≤ 95 → (h ≠ 3 ∨ waits ∨ hot) → (t.panel panel).clock = p.clock) ∧
        (∀ k, k ≠ panel → t.panels.get? k = s.panels.get? k) ∧ t = { s with panels := t.panels })) ∧
  (∀ s : State, ∃ t, exec .powerFault s = .next t ∧ Tack t 10) ∧
  (∀ (s : State) (link : Nat) (seq ack : BitVec 12), let x := s.links.getD link {}
    x.up = true → NoCollective s →
    (∃ t, exec (.flitReceive link true seq ack) s = .next t ∧
      t.links.getD link {} = { x with
        failures := if seq.toNat = x.expect then 0 else x.failures
        acked := ack.toNat, expect := if seq.toNat = x.expect then (x.expect + 1) % 2 ^ 12 else x.expect } ∧
      (∀ k, k ≠ link → t.links.get? k = s.links.get? k) ∧ t = { s with links := t.links }) ∧
    (∃ t, exec (.flitReceive link false seq ack) s = .next t ∧
      t.links.getD link {} = { x with failures := x.failures + 1, up := decide (x.failures + 1 ≤ 2 ^ 10) } ∧
      (∀ k, k ≠ link → t.links.get? k = s.links.get? k) ∧ t = { s with links := t.links })) ∧
  (∀ (s : State) (link : Nat), NoCollective s →
    (∃ t, exec (.linkDown link) s = .next t ∧ t.links.getD link {} = { s.links.getD link {} with up := false } ∧
      (∀ k, k ≠ link → t.links.get? k = s.links.get? k) ∧ t = { s with links := t.links }) ∧
    ∃ t, exec (.laneLoss link) s = .next t ∧ t.links.getD link {} = { s.links.getD link {} with lanes := 4 } ∧
      (∀ k, k ≠ link → t.links.get? k = s.links.get? k) ∧ t = { s with links := t.links }) ∧
  (∀ (s : State) (device : BitVec 8) (mask : BitVec 12), NoCollective s →
    let off := 0x30000 + 8 * device.toNat
    let l := toBytes 8 mask.toNat
    s.held = [] →
    (s.mustWait (mgmtBase + off) l = false → Unguarded s (mgmtBase + off) 8 →
      ∃ t, exec (.routeEntryWrite device mask) s = .next t ∧
        s.mem.Wrote t.mem (mgmtBase + off) l ∧ t = { s with mem := t.mem, slots := rereads s }) ∧
    (s.mustWait (mgmtBase + off) l = true → ∃ t, exec (.routeEntryWrite device mask) s = .next t ∧
      t = { s with held := [⟨256, mgmtBase + off, l⟩] })) ∧
  ∀ (s : State) (v : Word),
    (∀ off, 0x2000 ≤ off → off + 4 ≤ 0x10000 → Free s off 4 → ∃ t, exec (.registerWrite (mgmtBase + off) v) s = .next t ∧
      s.mem.Wrote t.mem (mgmtBase + off) (toBytes 4 v.toNat) ∧ t = { s with mem := t.mem, slots := rereads s }) ∧
    (Free s 0x30800 4 → ∃ t, exec (.registerWrite (mgmtBase + 0x30800) v) s = .next t ∧
      t = { s with linkTimeout := v.toNat, slots := rereads s }) ∧
    (∀ off, off = 0x100 ∨ off = 0x110 ∨ off = 0x340 → Free s off 4 →
      exec (.registerWrite (mgmtBase + off) v) s = .next { s with slots := rereads s }) ∧
    ∀ core off, core < 192 → off = 0x200 ∨ off = 0x204 → s.held = [] →
      let a := windowBase + core * 0x4000000 + 0x1000000 + off
      Unguarded s a 4 → exec (.registerWrite a v) s = .next { s with slots := rereads s }

/-- R10, R221, R256 to R259, R265: the host reads and writes HBM through its apertures, as far as BAR 2 of the function
reaches, and gets all ones where nothing answers and 0 from a doorbell; a training gives the link its rate (that it also sets
the sizes of BARs is the model's choice: DESIGN CHOICE, log entry 121); a function-level reset of a virtual function ends its
partition's launches and leaves the partition, one of the physical function leaves the device as after reset but for its HBM
(DEDUCED, log entry 27). A partition is made within the limits of its quads, slots and share, is taken down with all it ran,
and loses its Step Activation Cache entries when its share changes. The model's choices, no rules of the spec's: all ones
where nothing answers (DESIGN CHOICE, log entry 36), a partition made on the quads of another that is there begins swapped
out (DEDUCED, log entry 28), PARTITION_DESTROY leaves memory and writes no records (DEDUCED, log entry 51), and a share beyond
the limit changes nothing (DESIGN CHOICE, log entry 122). -/
def Obligations.HostAndPartitions : Prop :=
  (∀ (s : State) (off n : Nat),
    (s.boot.state ≠ 4 → off + n ≤ s.barSize 0 → off + n ≤ 2 ^ 39 → (∀ i, i < n → s.storeAt (off + i) = off + i) →
      ∃ t, exec (.hostApertureRead 0 2 off n) s = .next t ∧
        t.host.data = s.mem.readBytes off n ∧ t = { s with host := t.host }) ∧
    (∀ (vf : Nat) (pa : Nat → Nat), 1 ≤ vf → (s.parts.get? (vf - 1)).isSome = true → off + n ≤ s.barSize vf →
      (∀ i, i < n → pa i < 2 ^ 39 ∧ ∃ uc mod, s.translate (vf - 1) (off + i) needR = .ok (pa i) uc mod) →
      ∃ t, exec (.hostApertureRead vf 2 off n) s = .next t ∧
        t.host.data = (List.range n).map (fun i => s.mem.read (pa i)) ∧ t = { s with host := t.host }) ∧
    (∀ fn bar, bar ≠ 0 → bar ≠ 2 → ∃ t, exec (.hostApertureRead fn bar off n) s = .next t ∧
      t.host.data = List.replicate n 0xFF ∧ t.mem = s.mem) ∧
    (∀ fn, (fn = 0 → s.boot.state ≠ 4) → 0 < n → s.barSize fn ≤ off → ∃ t, exec (.hostApertureRead fn 2 off n) s = .next t ∧
      t.host.data = List.replicate n 0xFF ∧ t.mem = s.mem) ∧
    ∀ vf, 1 ≤ vf → (s.parts.get? (vf - 1)).isSome = true → off + n ≤ 65536 →
      ∃ t, exec (.hostApertureRead vf 0 off n) s = .next t ∧ t.host.data = List.replicate n 0 ∧ t.mem = s.mem) ∧
  (∀ (s : State) (off : Nat) (data : List Byte), s.boot.state ≠ 4 → off + data.length ≤ s.barSize 0 →
    off + data.length ≤ 2 ^ 39 → (∀ i, i < data.length → s.storeAt (off + i) = off + i) → data ≠ [] → s.held = [] →
    Unguarded s off data.length → NoCollective s →
    ∃ t, exec (.hostApertureWrite 0 2 off data) s = .next t ∧ s.mem.Wrote t.mem off data ∧
      t = { s with mem := t.mem, ecc := eccLeft s off data.length, slots := rereads s }) ∧
  (∀ (s : State) (rate : Nat), rate ∈ [25, 50, 80, 160, 320, 640] →
    (∀ bars, ∃ t, exec (.pcieLinkTraining (rate, bars)) s = .next t ∧
      t.host.rate = rate ∧ (t.host.flits = true ↔ rate = 640) ∧ t = { s with host := t.host }) ∧
    ∀ fn k, fn ≤ 16 → 30 ≤ k → (k ≤ if fn = 0 then 39 else 36) →
      ∃ t, exec (.pcieLinkTraining (rate, [(fn, 2 ^ k)])) s = .next t ∧
        ∀ f, t.barSize f = if f = fn then 2 ^ k else s.barSize f) ∧
  (∀ (s : State) (vf n : Nat) (q : Launch), 1 ≤ vf → (s.parts.get? (vf - 1)).isSome = true →
    s.launches.filter (fun p => decide (p.2.part = vf - 1)) = [(n, q)] → q.prop = none →
    ∃ t, exec (.vfFlr vf) s = .next t ∧ (∀ p ∈ t.launches, p.2.part ≠ vf - 1) ∧ (t.parts.get? (vf - 1)).isSome = true ∧
      (∀ p ∈ t.blocks, p.2.launch ≠ n) ∧ (∀ p ∈ t.sac, p.2.part ≠ vf - 1) ∧
      t.mem = (s.writeRecord n q ⟨2, 0, 0, 0, 0, 0⟩).mem) ∧
  (∀ s : State, (∃ t, exec .pfFlr s = .next t ∧
      t = { State.reset with
        mem := t.mem, dev := s.dev, free := s.free, images := s.images, inputs := s.inputs
        host := { rate := s.host.rate, flits := s.host.flits } } ∧
      ∀ a, t.mem.read a = if a < 2 ^ 39 then s.mem.read a else unwrittenByte) ∧
    ∃ t, exec .powerOnReset s = .next t ∧ t = { State.reset with dev := s.dev, free := s.free, inputs := s.inputs }) ∧
  (∀ (s : State) (part root qt share region : Nat) (quads slots : List Nat), part < 16 → s.parts.get? part = none →
    1 ≤ quads.length → quads.length ≤ 48 → (∀ q ∈ quads, q < 48) → quads.Nodup → (∀ n ∈ slots, n < 256) → slots.Nodup →
    Shares s part share → s.boot.state = 3 →
    ∃ t x, exec (.partitionCreate part quads root qt slots share region) s = .next t ∧ t.parts.get? part = some x ∧
      x.quads = quads ∧ x.root = root ∧ x.qtable = qt ∧ x.slots = slots ∧ x.sacShare = share ∧ x.sacRegion = region ∧
      x.pending = [] ∧ (x.swapped = true ↔ ∃ p ∈ s.parts, p.2.swapped = false ∧ ∃ q ∈ p.2.quads, q ∈ quads) ∧
      (∀ k, k ≠ part → t.parts.get? k = s.parts.get? k) ∧ t = { s with parts := t.parts }) ∧
  ∀ (s : State) (part share : Nat) (x : Partition), s.parts.get? part = some x →
    (∃ t, exec (.partitionDestroy part) s = .next t ∧ t.parts.get? part = none ∧
      (∀ k, k ≠ part → t.parts.get? k = s.parts.get? k) ∧ (∀ p ∈ t.launches, p.2.part ≠ part) ∧
      (∀ k tr, t.traces.get? k = some tr → k / 16 ≠ part) ∧ t.mem = s.mem) ∧
    (Shares s part share →
      ∃ t, exec (.sacShareChange part share) s = .next t ∧ t.parts.get? part = some { x with sacShare := share } ∧
        (∀ p, p ∈ t.sac ↔ p ∈ s.sac ∧ p.2.part ≠ part) ∧ (∀ k, k ≠ part → t.parts.get? k = s.parts.get? k) ∧
        t = { s with parts := t.parts, sac := t.sac }) ∧
    (¬ Shares s part share → exec (.sacShareChange part share) s = .next s)

/-- R157, R265 to R269: each event of a boot takes it one step further or fails the attempt with its reason; the third
failure in a row leads to tack mode; a verified image runs on the stewards. A signing takes the nonce and leaves its
signature; a steward's timer sets its latch, or wakes it out of WFE. Three points are the model's, no rules of the spec's:
an attempt that times out before its link is up fails with REASON 1 (DEDUCED, log entry 39), the stewards start at
0x090080000000 (DESIGN CHOICE, log entry 6), and the measurement log is at the start of its space (DEDUCED, log entry 38). -/
def Obligations.BootSteps : Prop :=
  (∀ s : State, s.boot.state ≤ 2 →
    (∃ t, exec .bootLinkUp s = .next t ∧ t = { s with boot := { s.boot with linkUp := true } }) ∧
    (∃ t, exec .bootAttemptTimeout s = .next t ∧ Fails s t (if s.boot.linkUp then 5 else 1)) ∧
    (s.boot.linkUp = true →
      (∃ t, exec (.bootDhcpReply (some true)) s = .next t ∧ t = { s with boot := { s.boot with url := true, state := 1 } }) ∧
      (∃ t, exec (.bootDhcpReply none) s = .next t ∧ Fails s t 2) ∧
      ∃ t, exec (.bootDhcpReply (some false)) s = .next t ∧ Fails s t 3) ∧
    (s.boot.url = true → ∀ status image, ∃ t, exec (.bootImageFetched status image) s = .next t ∧
      if status ≠ 200 then Fails s t 4
      else match verifyImage image with
        | some reason => Fails s t reason
        | none => Runs s t image)) ∧
  (∀ s : State, s.boot.state = 4 → s.boot.verifying = true → ∃ t, exec .bootcmdVerify s = .next t ∧
    match verifyImage s.recoveryImage with
    | some reason => t = { s with boot := { s.boot with reason := reason, verifying := false } }
    | none => Runs s t s.recoveryImage) ∧
  (∀ s : State, (s.boot.signing = false → ∃ t, exec .attestationSign s = .next t ∧
      t = { s with boot := { s.boot with signing := true, nonce := s.mem.readBytes (mgmtBase + 0x200) 32 } }) ∧
    (s.boot.signing = true → ∃ t l, exec .attestationComplete s = .next t ∧ l.length = 64 ∧
      s.mem.Wrote t.mem (mgmtBase + 0x300) l ∧ t = { s with mem := t.mem, boot := { s.boot with signing := false } })) ∧
  ∀ (s : State) (p : Nat), (s.ctxs.get? p).isSome = true →
    ((s.ctx p).parkKind ≠ some .wfe → ∃ t, exec (.stewardTimer p) s = .next t ∧ (t.steward p).latch = true ∧
      (∀ k, k ≠ p → t.stewards.get? k = s.stewards.get? k) ∧ t = { s with stewards := t.stewards }) ∧
    ((s.ctx p).parkKind = some .wfe → ∃ t, exec (.stewardTimer p) s = .next t ∧
      t.ctx p = { s.ctx p with status := .running, pc := (s.ctx p).pc + 4 } ∧
      (∀ k, k ≠ p → t.ctxs.get? k = s.ctxs.get? k) ∧ t = { s with ctxs := t.ctxs })

namespace Sys2Proof.Rules

/-- No chain, no end of run, no stall. -/
def plain : Ctl := ⟨false, false, 0⟩
/-- The end of a run. -/
def ends : Ctl := ⟨false, true, 0⟩

/-- Words that the spec writes out, bit by bit or in hexadecimal, beside their lines of assembly: on a steward or not, the
word, the instruction. -/
def specWords : List (Bool × Nat × Instr) :=
  [(false, 0x00706105, .bfx plain 6 4 5), (false, 0x00C04001, .mfs plain 4 0 1), (false, 0x00C40587, .mts plain 0 22 7),
   (false, 0x00DC9207, .gscan plain 9 8 7), (false, 0x0134A105, .fdiv plain 10 4 5),
   (false, 0x19307105, .fcmpun ⟨false, false, 3⟩ 7 4 5), (false, 0x41D03080, .cvtf8a ends 3 2),
   (false, 0x02B00240, .xset plain 0 2 64), (false, 0x0743FFFF, .lih plain 3 0xFFFF),
   (false, 0x03290102, .ldl plain 8 2 2), (false, 0x46003FFB, .bra ends (-5)), (false, 0x46114003, .bnz ends 5 3),
   (false, 0x46717FFF, .dbnz ends 5 (-1)), (false, 0x46418000, .brx ends 6), (false, 0x46810006, .exit ends 6),
   (false, 0x46830050, .trap ends 5), (false, 0x46860400, .join ends 1), (false, 0x468900E0, .shrink ends 14),
   (false, 0x46920280, .cvset ends 40 0), (false, 0x469A2600, .twalk ends 9 32 0), (false, 0x46A01680, .copy ends 5 40 0),
   (false, 0x46A87A80, .spawn ends 30 40), (false, 0x46AB1840, .prop ends 6 4), (false, 0x46B01826, .rclaim ends 6 2 6),
   (true, 0x46B80000, .wfe ends), (true, 0x46B90040, .itlb ends 4)]

/-- The words that a chain goes on with after the word of an issue, n of them at most, take their effects one after another, each
in the state that the one before it leaves; one that decodes to no instruction traps, and the words before it stand (R25). -/
def ChainTo : Nat → State → Issue → State → Prop
  | 0, t, is, z => t.chainedTo is = none ∧ z = t
  | n + 1, t, is, z => (t.chainedTo is = none ∧ z = t) ∨
    ∃ (b : Issue) (w : Word), t.chainedTo is = some b ∧ t.fetch (t.ctx (b.cohort.headD 0)) b.pc = .ok w ∧
      ((∃ r, decode (isSteward b.core) w.toNat = .error r ∧ z = t.trapAll { b with word := w } ⟨r.cause, b.pc, w⟩) ∨
        ∃ i v, decode (isSteward b.core) w.toNat = .ok i ∧ exec i { t with issue := some { b with word := w } } = .next v ∧
          v.standsAt b = false ∧ ChainTo n v b z)

end Sys2Proof.Rules

/-- Tables 11.1 to 11.10: each word that the spec writes out decodes to the instruction it stands for. -/
def Obligations.DecodesSpecWords : Prop := ∀ p ∈ specWords, decode p.1 p.2.1 = .ok p.2.2

/-- R84, R86, R98 steps 1 to 5: every well-formed word of a thread is encoded in 32 bits that decode to it, with every field
as it was; and every 32-bit word that decodes at all is the word of the instruction it decodes to, so no two words stand
for one instruction and no bit of a word is passed over. -/
def Obligations.DecodeEncode : Prop :=
  (∀ (st : Bool) (i : Instr), i.isWord = true → i.wf st = true → encode i < 2 ^ 32 ∧ decode st (encode i) = .ok i) ∧
  ∀ (st : Bool) (w : Nat) (i : Instr), w < 2 ^ 32 → decode st w = .ok i →
    encode i = w ∧ i.isWord = true ∧ i.wf st = true

/-- The canonical form of memory is an invariant of the machine: every step that answers a next state keeps it. -/
def Obligations.StepKeepsMemoryForm : Prop :=
  ∀ s t : State, s.MemCanonical → step s = .next t → t.MemCanonical

/-- R18, R19, R25, R85, R98: a step of the next agent that can issue runs the word its lead cohort stands at: in a run under
way, the word at the run's PC; at the start of a run, the same after every result in flight to the cohort's registers has
landed and the group's run has begun. The step is exec of the decoded instruction where its C bit is clear; the second and the
third word of a chain take their effects after it in the same step. A word that decodes to no instruction, and one that cannot
be fetched, which is logged where the rules log it, trap in every thread of the cohort. Around all this a step keeps, for the
launches and PROPs that may fetch them yet, words as they stood before it where it has changed memory (R274: DESIGN CHOICE,
log entry 100). An event that is due comes before any word (the model's choice, DESIGN CHOICE, log entry 1). -/
def Obligations.StepRunsDecoded : Prop :=
  (∀ (s : State) (i : Instr) (rest : List Instr), s.inputs = i :: rest →
    step s = s.recall (exec i { s with inputs := rest, issue := none })) ∧
  (∀ s t : State, ∃ u, s.recall (.next t) = .next u ∧ u = { t with launches := u.launches, traces := u.traces } ∧
    (∀ k q, t.launches.get? k = some q → ∃ p, u.launches.get? k = some { q with past := p } ∧
      (p = q.past ∨ (t.mem ≠ s.mem ∧ ∃ l : List (Nat × Word), p = l ++ q.past ∧
        ∀ x ∈ l, x.2 = BitVec.ofNat 32 (ofBytes (s.mem.readBytes x.1 4))))) ∧
    (∀ k x, t.traces.get? k = some x → ∃ p, u.traces.get? k = some { x with props := p } ∧ p.length = x.props.length)) ∧
  ∀ (s : State) (a : Nat) (l : Lead), s.inputs = [] → s.nextAgent = some a → s.lead a = some l →
    let is : Issue := ⟨a, l.slot, l.pc, 0, l.cohort⟩
    let v : State := { s with turn := a + 1 }.ageGroups a
    let u : State := if l.fresh then v.beginRun a l else v
    (l.fresh = true → ∀ id ∈ l.cohort, (s.ctx id).due = false) →
    (l.fresh = true → (u.group is.key).run = some ⟨l.pc, l.cohort, 0, none, false, []⟩ ∧
      (∀ id ∈ l.cohort, u.ctx id = (s.ctx id).land) ∧ ∀ id, id ∉ l.cohort → u.ctx id = s.ctx id) ∧
    (l.fresh = false → u.ctxs = s.ctxs) ∧ u = { s with ctxs := u.ctxs, groups := u.groups, turn := a + 1 } ∧
    (∀ k g, s.groups.get? k = some g → (l.fresh = true → k ≠ is.key) →
      ∃ h, u.groups.get? k = some h ∧ h = { g with since := h.since, pcSince := h.pcSince }) ∧
    (∀ (w : Word) (i : Instr), u.fetch (u.ctx (l.cohort.headD 0)) l.pc = .ok w → decode (isSteward a) w.toNat = .ok i →
      let x : State := { u with issue := some { is with word := w } }
      (w.msb = false → step s = s.recall (exec i x)) ∧
      ∀ t z, w.msb = true → exec i x = .next t → ChainTo 2 t { is with word := w } z → step s = s.recall (.next z)) ∧
    (∀ (w : Word) r, u.fetch (u.ctx (l.cohort.headD 0)) l.pc = .ok w → decode (isSteward a) w.toNat = .error r →
      step s = s.recall (.next (u.trapAll { is with word := w } ⟨r.cause, l.pc, w⟩))) ∧
    ∀ cause, u.fetch (u.ctx (l.cohort.headD 0)) l.pc = .bad cause →
      step s = s.recall (.next ((u.logDenied (u.ctx (l.cohort.headD 0)) l.pc 4 needX false targetInfo.toNat).trapAll is
        ⟨cause, l.pc, targetInfo⟩))

/-- R27, R29, R101, R265, R267: after reset nothing is resident, launched or in flight, every core has its 6,144 rows free,
the four stewards wait in the boot ROM with their regions of SRAM, BOOTSTAT is 0, and no agent can issue. Registers and
memory the spec gives no reset value read 0, which is the model's choice (DESIGN CHOICE, log entries 3 and 4). -/
def Obligations.ResetState : Prop :=
  State.reset.MemCanonical ∧ (∀ a, State.reset.mem.read a = 0) ∧
  (∀ p, p < 4 → (State.reset.ctxs.get? p).isSome = true ∧ (State.reset.ctx p).core = 192 + p ∧
    (State.reset.ctx p).parkKind = some .boot ∧ (State.reset.ctx p).tls = 0x0900803F0000 ∧ (State.reset.ctx p).hw = [] ∧
    (State.reset.ctx p).handler = false ∧ (State.reset.steward p).halted = false ∧ (State.reset.steward p).latch = false ∧
    ∀ m k, (State.reset.ctx p).readV m k = 0) ∧
  (∀ id, 4 ≤ id → State.reset.ctxs.get? id = none) ∧
  (∀ k, k < 192 → (State.reset.core k).freeRows = 6144 ∧ (State.reset.core k).growQ = [] ∧
    (State.reset.core k).taskQ = [] ∧ (State.reset.core k).cycle = 0) ∧
  State.reset.launches = [] ∧ State.reset.blocks = [] ∧ State.reset.tasks = [] ∧ State.reset.parts = [] ∧
  State.reset.traces = [] ∧ State.reset.slots = [] ∧ State.reset.ops = [] ∧ State.reset.faults = [] ∧
  State.reset.locks = [] ∧ State.reset.bars = [] ∧ State.reset.rings = [] ∧ State.reset.ecc = [] ∧ State.reset.held = [] ∧
  State.reset.collCount = [] ∧ State.reset.sac = [] ∧ State.reset.gangs = [] ∧ State.reset.elogHead = 0 ∧
  State.reset.boot.state = 0 ∧ State.reset.boot.attempts = 0 ∧ State.reset.linkTimeout = 100 ∧
  State.reset.nextAgent = none
end

