-- ==== Sys2Proof/Laws/State.lean ====
section
/-!
SUPPORT. What each update of a part of the state leaves in every field: one lemma for a field and an update, true by
definition, so that no proof unfolds a record update.
-/
set_option Elab.async false

namespace Sys2Proof.Machine.State

section

variable (s : State) (id : Nat) (f : Ctx → Ctx)

@[simp] theorem updCtx_mem : (s.updCtx id f).mem = s.mem := rfl
@[simp] theorem updCtx_full : (s.updCtx id f).full = s.full := rfl
@[simp] theorem updCtx_sat : (s.updCtx id f).sat = s.sat := rfl
@[simp] theorem updCtx_locks : (s.updCtx id f).locks = s.locks := rfl
@[simp] theorem updCtx_bars : (s.updCtx id f).bars = s.bars := rfl
@[simp] theorem updCtx_barFaults : (s.updCtx id f).barFaults = s.barFaults := rfl
@[simp] theorem updCtx_rings : (s.updCtx id f).rings = s.rings := rfl
@[simp] theorem updCtx_ecc : (s.updCtx id f).ecc = s.ecc := rfl
@[simp] theorem updCtx_ctxs : (s.updCtx id f).ctxs = s.ctxs.adjust id f := rfl
@[simp] theorem updCtx_groups : (s.updCtx id f).groups = s.groups := rfl
@[simp] theorem updCtx_blocks : (s.updCtx id f).blocks = s.blocks := rfl
@[simp] theorem updCtx_tasks : (s.updCtx id f).tasks = s.tasks := rfl
@[simp] theorem updCtx_gens : (s.updCtx id f).gens = s.gens := rfl
@[simp] theorem updCtx_launches : (s.updCtx id f).launches = s.launches := rfl
@[simp] theorem updCtx_parts : (s.updCtx id f).parts = s.parts := rfl
@[simp] theorem updCtx_traces : (s.updCtx id f).traces = s.traces := rfl
@[simp] theorem updCtx_cores : (s.updCtx id f).cores = s.cores := rfl
@[simp] theorem updCtx_faults : (s.updCtx id f).faults = s.faults := rfl
@[simp] theorem updCtx_faultQ : (s.updCtx id f).faultQ = s.faultQ := rfl
@[simp] theorem updCtx_stewards : (s.updCtx id f).stewards = s.stewards := rfl
@[simp] theorem updCtx_slots : (s.updCtx id f).slots = s.slots := rfl
@[simp] theorem updCtx_ops : (s.updCtx id f).ops = s.ops := rfl
@[simp] theorem updCtx_sac : (s.updCtx id f).sac = s.sac := rfl
@[simp] theorem updCtx_panels : (s.updCtx id f).panels = s.panels := rfl
@[simp] theorem updCtx_links : (s.updCtx id f).links = s.links := rfl
@[simp] theorem updCtx_gangs : (s.updCtx id f).gangs = s.gangs := rfl
@[simp] theorem updCtx_collCount : (s.updCtx id f).collCount = s.collCount := rfl
@[simp] theorem updCtx_collIn : (s.updCtx id f).collIn = s.collIn := rfl
@[simp] theorem updCtx_collDone : (s.updCtx id f).collDone = s.collDone := rfl
@[simp] theorem updCtx_images : (s.updCtx id f).images = s.images := rfl
@[simp] theorem updCtx_held : (s.updCtx id f).held = s.held := rfl
@[simp] theorem updCtx_elogHead : (s.updCtx id f).elogHead = s.elogHead := rfl
@[simp] theorem updCtx_linkTimeout : (s.updCtx id f).linkTimeout = s.linkTimeout := rfl
@[simp] theorem updCtx_time : (s.updCtx id f).time = s.time := rfl
@[simp] theorem updCtx_dev : (s.updCtx id f).dev = s.dev := rfl
@[simp] theorem updCtx_boot : (s.updCtx id f).boot = s.boot := rfl
@[simp] theorem updCtx_host : (s.updCtx id f).host = s.host := rfl
@[simp] theorem updCtx_nextOp : (s.updCtx id f).nextOp = s.nextOp := rfl
@[simp] theorem updCtx_seq : (s.updCtx id f).seq = s.seq := rfl
@[simp] theorem updCtx_free : (s.updCtx id f).free = s.free := rfl
@[simp] theorem updCtx_turn : (s.updCtx id f).turn = s.turn := rfl
@[simp] theorem updCtx_inputs : (s.updCtx id f).inputs = s.inputs := rfl
@[simp] theorem updCtx_issue : (s.updCtx id f).issue = s.issue := rfl

end

section

variable (s : State) (ids : List Nat) (f : Ctx → Ctx)

@[simp] theorem mapCtxs_mem : (s.mapCtxs ids f).mem = s.mem := rfl
@[simp] theorem mapCtxs_full : (s.mapCtxs ids f).full = s.full := rfl
@[simp] theorem mapCtxs_sat : (s.mapCtxs ids f).sat = s.sat := rfl
@[simp] theorem mapCtxs_locks : (s.mapCtxs ids f).locks = s.locks := rfl
@[simp] theorem mapCtxs_bars : (s.mapCtxs ids f).bars = s.bars := rfl
@[simp] theorem mapCtxs_barFaults : (s.mapCtxs ids f).barFaults = s.barFaults := rfl
@[simp] theorem mapCtxs_rings : (s.mapCtxs ids f).rings = s.rings := rfl
@[simp] theorem mapCtxs_ecc : (s.mapCtxs ids f).ecc = s.ecc := rfl
@[simp] theorem mapCtxs_ctxs : (s.mapCtxs ids f).ctxs = s.ctxs.mapKeys ids f := rfl
@[simp] theorem mapCtxs_groups : (s.mapCtxs ids f).groups = s.groups := rfl
@[simp] theorem mapCtxs_blocks : (s.mapCtxs ids f).blocks = s.blocks := rfl
@[simp] theorem mapCtxs_tasks : (s.mapCtxs ids f).tasks = s.tasks := rfl
@[simp] theorem mapCtxs_gens : (s.mapCtxs ids f).gens = s.gens := rfl
@[simp] theorem mapCtxs_launches : (s.mapCtxs ids f).launches = s.launches := rfl
@[simp] theorem mapCtxs_parts : (s.mapCtxs ids f).parts = s.parts := rfl
@[simp] theorem mapCtxs_traces : (s.mapCtxs ids f).traces = s.traces := rfl
@[simp] theorem mapCtxs_cores : (s.mapCtxs ids f).cores = s.cores := rfl
@[simp] theorem mapCtxs_faults : (s.mapCtxs ids f).faults = s.faults := rfl
@[simp] theorem mapCtxs_faultQ : (s.mapCtxs ids f).faultQ = s.faultQ := rfl
@[simp] theorem mapCtxs_stewards : (s.mapCtxs ids f).stewards = s.stewards := rfl
@[simp] theorem mapCtxs_slots : (s.mapCtxs ids f).slots = s.slots := rfl
@[simp] theorem mapCtxs_ops : (s.mapCtxs ids f).ops = s.ops := rfl
@[simp] theorem mapCtxs_sac : (s.mapCtxs ids f).sac = s.sac := rfl
@[simp] theorem mapCtxs_panels : (s.mapCtxs ids f).panels = s.panels := rfl
@[simp] theorem mapCtxs_links : (s.mapCtxs ids f).links = s.links := rfl
@[simp] theorem mapCtxs_gangs : (s.mapCtxs ids f).gangs = s.gangs := rfl
@[simp] theorem mapCtxs_collCount : (s.mapCtxs ids f).collCount = s.collCount := rfl
@[simp] theorem mapCtxs_collIn : (s.mapCtxs ids f).collIn = s.collIn := rfl
@[simp] theorem mapCtxs_collDone : (s.mapCtxs ids f).collDone = s.collDone := rfl
@[simp] theorem mapCtxs_images : (s.mapCtxs ids f).images = s.images := rfl
@[simp] theorem mapCtxs_held : (s.mapCtxs ids f).held = s.held := rfl
@[simp] theorem mapCtxs_elogHead : (s.mapCtxs ids f).elogHead = s.elogHead := rfl
@[simp] theorem mapCtxs_linkTimeout : (s.mapCtxs ids f).linkTimeout = s.linkTimeout := rfl
@[simp] theorem mapCtxs_time : (s.mapCtxs ids f).time = s.time := rfl
@[simp] theorem mapCtxs_dev : (s.mapCtxs ids f).dev = s.dev := rfl
@[simp] theorem mapCtxs_boot : (s.mapCtxs ids f).boot = s.boot := rfl
@[simp] theorem mapCtxs_host : (s.mapCtxs ids f).host = s.host := rfl
@[simp] theorem mapCtxs_nextOp : (s.mapCtxs ids f).nextOp = s.nextOp := rfl
@[simp] theorem mapCtxs_seq : (s.mapCtxs ids f).seq = s.seq := rfl
@[simp] theorem mapCtxs_free : (s.mapCtxs ids f).free = s.free := rfl
@[simp] theorem mapCtxs_turn : (s.mapCtxs ids f).turn = s.turn := rfl
@[simp] theorem mapCtxs_inputs : (s.mapCtxs ids f).inputs = s.inputs := rfl
@[simp] theorem mapCtxs_issue : (s.mapCtxs ids f).issue = s.issue := rfl

end

section

variable (s : State) (c : Nat) (f : Core → Core)

@[simp] theorem updCore_mem : (s.updCore c f).mem = s.mem := rfl
@[simp] theorem updCore_full : (s.updCore c f).full = s.full := rfl
@[simp] theorem updCore_sat : (s.updCore c f).sat = s.sat := rfl
@[simp] theorem updCore_locks : (s.updCore c f).locks = s.locks := rfl
@[simp] theorem updCore_bars : (s.updCore c f).bars = s.bars := rfl
@[simp] theorem updCore_barFaults : (s.updCore c f).barFaults = s.barFaults := rfl
@[simp] theorem updCore_rings : (s.updCore c f).rings = s.rings := rfl
@[simp] theorem updCore_ecc : (s.updCore c f).ecc = s.ecc := rfl
@[simp] theorem updCore_ctxs : (s.updCore c f).ctxs = s.ctxs := rfl
@[simp] theorem updCore_groups : (s.updCore c f).groups = s.groups := rfl
@[simp] theorem updCore_blocks : (s.updCore c f).blocks = s.blocks := rfl
@[simp] theorem updCore_tasks : (s.updCore c f).tasks = s.tasks := rfl
@[simp] theorem updCore_gens : (s.updCore c f).gens = s.gens := rfl
@[simp] theorem updCore_launches : (s.updCore c f).launches = s.launches := rfl
@[simp] theorem updCore_parts : (s.updCore c f).parts = s.parts := rfl
@[simp] theorem updCore_traces : (s.updCore c f).traces = s.traces := rfl
@[simp] theorem updCore_cores : (s.updCore c f).cores = s.cores.set c (f (s.core c)) := rfl
@[simp] theorem updCore_faults : (s.updCore c f).faults = s.faults := rfl
@[simp] theorem updCore_faultQ : (s.updCore c f).faultQ = s.faultQ := rfl
@[simp] theorem updCore_stewards : (s.updCore c f).stewards = s.stewards := rfl
@[simp] theorem updCore_slots : (s.updCore c f).slots = s.slots := rfl
@[simp] theorem updCore_ops : (s.updCore c f).ops = s.ops := rfl
@[simp] theorem updCore_sac : (s.updCore c f).sac = s.sac := rfl
@[simp] theorem updCore_panels : (s.updCore c f).panels = s.panels := rfl
@[simp] theorem updCore_links : (s.updCore c f).links = s.links := rfl
@[simp] theorem updCore_gangs : (s.updCore c f).gangs = s.gangs := rfl
@[simp] theorem updCore_collCount : (s.updCore c f).collCount = s.collCount := rfl
@[simp] theorem updCore_collIn : (s.updCore c f).collIn = s.collIn := rfl
@[simp] theorem updCore_collDone : (s.updCore c f).collDone = s.collDone := rfl
@[simp] theorem updCore_images : (s.updCore c f).images = s.images := rfl
@[simp] theorem updCore_held : (s.updCore c f).held = s.held := rfl
@[simp] theorem updCore_elogHead : (s.updCore c f).elogHead = s.elogHead := rfl
@[simp] theorem updCore_linkTimeout : (s.updCore c f).linkTimeout = s.linkTimeout := rfl
@[simp] theorem updCore_time : (s.updCore c f).time = s.time := rfl
@[simp] theorem updCore_dev : (s.updCore c f).dev = s.dev := rfl
@[simp] theorem updCore_boot : (s.updCore c f).boot = s.boot := rfl
@[simp] theorem updCore_host : (s.updCore c f).host = s.host := rfl
@[simp] theorem updCore_nextOp : (s.updCore c f).nextOp = s.nextOp := rfl
@[simp] theorem updCore_seq : (s.updCore c f).seq = s.seq := rfl
@[simp] theorem updCore_free : (s.updCore c f).free = s.free := rfl
@[simp] theorem updCore_turn : (s.updCore c f).turn = s.turn := rfl
@[simp] theorem updCore_inputs : (s.updCore c f).inputs = s.inputs := rfl
@[simp] theorem updCore_issue : (s.updCore c f).issue = s.issue := rfl

end

section

variable (s : State) (k : Nat) (f : Group → Group)

@[simp] theorem updGroup_mem : (s.updGroup k f).mem = s.mem := rfl
@[simp] theorem updGroup_full : (s.updGroup k f).full = s.full := rfl
@[simp] theorem updGroup_sat : (s.updGroup k f).sat = s.sat := rfl
@[simp] theorem updGroup_locks : (s.updGroup k f).locks = s.locks := rfl
@[simp] theorem updGroup_bars : (s.updGroup k f).bars = s.bars := rfl
@[simp] theorem updGroup_barFaults : (s.updGroup k f).barFaults = s.barFaults := rfl
@[simp] theorem updGroup_rings : (s.updGroup k f).rings = s.rings := rfl
@[simp] theorem updGroup_ecc : (s.updGroup k f).ecc = s.ecc := rfl
@[simp] theorem updGroup_ctxs : (s.updGroup k f).ctxs = s.ctxs := rfl
@[simp] theorem updGroup_groups : (s.updGroup k f).groups = s.groups.adjust k f := rfl
@[simp] theorem updGroup_blocks : (s.updGroup k f).blocks = s.blocks := rfl
@[simp] theorem updGroup_tasks : (s.updGroup k f).tasks = s.tasks := rfl
@[simp] theorem updGroup_gens : (s.updGroup k f).gens = s.gens := rfl
@[simp] theorem updGroup_launches : (s.updGroup k f).launches = s.launches := rfl
@[simp] theorem updGroup_parts : (s.updGroup k f).parts = s.parts := rfl
@[simp] theorem updGroup_traces : (s.updGroup k f).traces = s.traces := rfl
@[simp] theorem updGroup_cores : (s.updGroup k f).cores = s.cores := rfl
@[simp] theorem updGroup_faults : (s.updGroup k f).faults = s.faults := rfl
@[simp] theorem updGroup_faultQ : (s.updGroup k f).faultQ = s.faultQ := rfl
@[simp] theorem updGroup_stewards : (s.updGroup k f).stewards = s.stewards := rfl
@[simp] theorem updGroup_slots : (s.updGroup k f).slots = s.slots := rfl
@[simp] theorem updGroup_ops : (s.updGroup k f).ops = s.ops := rfl
@[simp] theorem updGroup_sac : (s.updGroup k f).sac = s.sac := rfl
@[simp] theorem updGroup_panels : (s.updGroup k f).panels = s.panels := rfl
@[simp] theorem updGroup_links : (s.updGroup k f).links = s.links := rfl
@[simp] theorem updGroup_gangs : (s.updGroup k f).gangs = s.gangs := rfl
@[simp] theorem updGroup_collCount : (s.updGroup k f).collCount = s.collCount := rfl
@[simp] theorem updGroup_collIn : (s.updGroup k f).collIn = s.collIn := rfl
@[simp] theorem updGroup_collDone : (s.updGroup k f).collDone = s.collDone := rfl
@[simp] theorem updGroup_images : (s.updGroup k f).images = s.images := rfl
@[simp] theorem updGroup_held : (s.updGroup k f).held = s.held := rfl
@[simp] theorem updGroup_elogHead : (s.updGroup k f).elogHead = s.elogHead := rfl
@[simp] theorem updGroup_linkTimeout : (s.updGroup k f).linkTimeout = s.linkTimeout := rfl
@[simp] theorem updGroup_time : (s.updGroup k f).time = s.time := rfl
@[simp] theorem updGroup_dev : (s.updGroup k f).dev = s.dev := rfl
@[simp] theorem updGroup_boot : (s.updGroup k f).boot = s.boot := rfl
@[simp] theorem updGroup_host : (s.updGroup k f).host = s.host := rfl
@[simp] theorem updGroup_nextOp : (s.updGroup k f).nextOp = s.nextOp := rfl
@[simp] theorem updGroup_seq : (s.updGroup k f).seq = s.seq := rfl
@[simp] theorem updGroup_free : (s.updGroup k f).free = s.free := rfl
@[simp] theorem updGroup_turn : (s.updGroup k f).turn = s.turn := rfl
@[simp] theorem updGroup_inputs : (s.updGroup k f).inputs = s.inputs := rfl
@[simp] theorem updGroup_issue : (s.updGroup k f).issue = s.issue := rfl

end

section

variable (s : State) (k : Nat) (f : Block → Block)

@[simp] theorem updBlock_mem : (s.updBlock k f).mem = s.mem := rfl
@[simp] theorem updBlock_full : (s.updBlock k f).full = s.full := rfl
@[simp] theorem updBlock_sat : (s.updBlock k f).sat = s.sat := rfl
@[simp] theorem updBlock_locks : (s.updBlock k f).locks = s.locks := rfl
@[simp] theorem updBlock_bars : (s.updBlock k f).bars = s.bars := rfl
@[simp] theorem updBlock_barFaults : (s.updBlock k f).barFaults = s.barFaults := rfl
@[simp] theorem updBlock_rings : (s.updBlock k f).rings = s.rings := rfl
@[simp] theorem updBlock_ecc : (s.updBlock k f).ecc = s.ecc := rfl
@[simp] theorem updBlock_ctxs : (s.updBlock k f).ctxs = s.ctxs := rfl
@[simp] theorem updBlock_groups : (s.updBlock k f).groups = s.groups := rfl
@[simp] theorem updBlock_blocks : (s.updBlock k f).blocks = s.blocks.adjust k f := rfl
@[simp] theorem updBlock_tasks : (s.updBlock k f).tasks = s.tasks := rfl
@[simp] theorem updBlock_gens : (s.updBlock k f).gens = s.gens := rfl
@[simp] theorem updBlock_launches : (s.updBlock k f).launches = s.launches := rfl
@[simp] theorem updBlock_parts : (s.updBlock k f).parts = s.parts := rfl
@[simp] theorem updBlock_traces : (s.updBlock k f).traces = s.traces := rfl
@[simp] theorem updBlock_cores : (s.updBlock k f).cores = s.cores := rfl
@[simp] theorem updBlock_faults : (s.updBlock k f).faults = s.faults := rfl
@[simp] theorem updBlock_faultQ : (s.updBlock k f).faultQ = s.faultQ := rfl
@[simp] theorem updBlock_stewards : (s.updBlock k f).stewards = s.stewards := rfl
@[simp] theorem updBlock_slots : (s.updBlock k f).slots = s.slots := rfl
@[simp] theorem updBlock_ops : (s.updBlock k f).ops = s.ops := rfl
@[simp] theorem updBlock_sac : (s.updBlock k f).sac = s.sac := rfl
@[simp] theorem updBlock_panels : (s.updBlock k f).panels = s.panels := rfl
@[simp] theorem updBlock_links : (s.updBlock k f).links = s.links := rfl
@[simp] theorem updBlock_gangs : (s.updBlock k f).gangs = s.gangs := rfl
@[simp] theorem updBlock_collCount : (s.updBlock k f).collCount = s.collCount := rfl
@[simp] theorem updBlock_collIn : (s.updBlock k f).collIn = s.collIn := rfl
@[simp] theorem updBlock_collDone : (s.updBlock k f).collDone = s.collDone := rfl
@[simp] theorem updBlock_images : (s.updBlock k f).images = s.images := rfl
@[simp] theorem updBlock_held : (s.updBlock k f).held = s.held := rfl
@[simp] theorem updBlock_elogHead : (s.updBlock k f).elogHead = s.elogHead := rfl
@[simp] theorem updBlock_linkTimeout : (s.updBlock k f).linkTimeout = s.linkTimeout := rfl
@[simp] theorem updBlock_time : (s.updBlock k f).time = s.time := rfl
@[simp] theorem updBlock_dev : (s.updBlock k f).dev = s.dev := rfl
@[simp] theorem updBlock_boot : (s.updBlock k f).boot = s.boot := rfl
@[simp] theorem updBlock_host : (s.updBlock k f).host = s.host := rfl
@[simp] theorem updBlock_nextOp : (s.updBlock k f).nextOp = s.nextOp := rfl
@[simp] theorem updBlock_seq : (s.updBlock k f).seq = s.seq := rfl
@[simp] theorem updBlock_free : (s.updBlock k f).free = s.free := rfl
@[simp] theorem updBlock_turn : (s.updBlock k f).turn = s.turn := rfl
@[simp] theorem updBlock_inputs : (s.updBlock k f).inputs = s.inputs := rfl
@[simp] theorem updBlock_issue : (s.updBlock k f).issue = s.issue := rfl

end

section

variable (s : State) (k : Nat) (f : Task → Task)

@[simp] theorem updTask_mem : (s.updTask k f).mem = s.mem := rfl
@[simp] theorem updTask_full : (s.updTask k f).full = s.full := rfl
@[simp] theorem updTask_sat : (s.updTask k f).sat = s.sat := rfl
@[simp] theorem updTask_locks : (s.updTask k f).locks = s.locks := rfl
@[simp] theorem updTask_bars : (s.updTask k f).bars = s.bars := rfl
@[simp] theorem updTask_barFaults : (s.updTask k f).barFaults = s.barFaults := rfl
@[simp] theorem updTask_rings : (s.updTask k f).rings = s.rings := rfl
@[simp] theorem updTask_ecc : (s.updTask k f).ecc = s.ecc := rfl
@[simp] theorem updTask_ctxs : (s.updTask k f).ctxs = s.ctxs := rfl
@[simp] theorem updTask_groups : (s.updTask k f).groups = s.groups := rfl
@[simp] theorem updTask_blocks : (s.updTask k f).blocks = s.blocks := rfl
@[simp] theorem updTask_tasks : (s.updTask k f).tasks = s.tasks.adjust k f := rfl
@[simp] theorem updTask_gens : (s.updTask k f).gens = s.gens := rfl
@[simp] theorem updTask_launches : (s.updTask k f).launches = s.launches := rfl
@[simp] theorem updTask_parts : (s.updTask k f).parts = s.parts := rfl
@[simp] theorem updTask_traces : (s.updTask k f).traces = s.traces := rfl
@[simp] theorem updTask_cores : (s.updTask k f).cores = s.cores := rfl
@[simp] theorem updTask_faults : (s.updTask k f).faults = s.faults := rfl
@[simp] theorem updTask_faultQ : (s.updTask k f).faultQ = s.faultQ := rfl
@[simp] theorem updTask_stewards : (s.updTask k f).stewards = s.stewards := rfl
@[simp] theorem updTask_slots : (s.updTask k f).slots = s.slots := rfl
@[simp] theorem updTask_ops : (s.updTask k f).ops = s.ops := rfl
@[simp] theorem updTask_sac : (s.updTask k f).sac = s.sac := rfl
@[simp] theorem updTask_panels : (s.updTask k f).panels = s.panels := rfl
@[simp] theorem updTask_links : (s.updTask k f).links = s.links := rfl
@[simp] theorem updTask_gangs : (s.updTask k f).gangs = s.gangs := rfl
@[simp] theorem updTask_collCount : (s.updTask k f).collCount = s.collCount := rfl
@[simp] theorem updTask_collIn : (s.updTask k f).collIn = s.collIn := rfl
@[simp] theorem updTask_collDone : (s.updTask k f).collDone = s.collDone := rfl
@[simp] theorem updTask_images : (s.updTask k f).images = s.images := rfl
@[simp] theorem updTask_held : (s.updTask k f).held = s.held := rfl
@[simp] theorem updTask_elogHead : (s.updTask k f).elogHead = s.elogHead := rfl
@[simp] theorem updTask_linkTimeout : (s.updTask k f).linkTimeout = s.linkTimeout := rfl
@[simp] theorem updTask_time : (s.updTask k f).time = s.time := rfl
@[simp] theorem updTask_dev : (s.updTask k f).dev = s.dev := rfl
@[simp] theorem updTask_boot : (s.updTask k f).boot = s.boot := rfl
@[simp] theorem updTask_host : (s.updTask k f).host = s.host := rfl
@[simp] theorem updTask_nextOp : (s.updTask k f).nextOp = s.nextOp := rfl
@[simp] theorem updTask_seq : (s.updTask k f).seq = s.seq := rfl
@[simp] theorem updTask_free : (s.updTask k f).free = s.free := rfl
@[simp] theorem updTask_turn : (s.updTask k f).turn = s.turn := rfl
@[simp] theorem updTask_inputs : (s.updTask k f).inputs = s.inputs := rfl
@[simp] theorem updTask_issue : (s.updTask k f).issue = s.issue := rfl

end

section

variable (s : State) (k : Nat) (f : Launch → Launch)

@[simp] theorem updLaunch_mem : (s.updLaunch k f).mem = s.mem := rfl
@[simp] theorem updLaunch_full : (s.updLaunch k f).full = s.full := rfl
@[simp] theorem updLaunch_sat : (s.updLaunch k f).sat = s.sat := rfl
@[simp] theorem updLaunch_locks : (s.updLaunch k f).locks = s.locks := rfl
@[simp] theorem updLaunch_bars : (s.updLaunch k f).bars = s.bars := rfl
@[simp] theorem updLaunch_barFaults : (s.updLaunch k f).barFaults = s.barFaults := rfl
@[simp] theorem updLaunch_rings : (s.updLaunch k f).rings = s.rings := rfl
@[simp] theorem updLaunch_ecc : (s.updLaunch k f).ecc = s.ecc := rfl
@[simp] theorem updLaunch_ctxs : (s.updLaunch k f).ctxs = s.ctxs := rfl
@[simp] theorem updLaunch_groups : (s.updLaunch k f).groups = s.groups := rfl
@[simp] theorem updLaunch_blocks : (s.updLaunch k f).blocks = s.blocks := rfl
@[simp] theorem updLaunch_tasks : (s.updLaunch k f).tasks = s.tasks := rfl
@[simp] theorem updLaunch_gens : (s.updLaunch k f).gens = s.gens := rfl
@[simp] theorem updLaunch_launches : (s.updLaunch k f).launches = s.launches.adjust k f := rfl
@[simp] theorem updLaunch_parts : (s.updLaunch k f).parts = s.parts := rfl
@[simp] theorem updLaunch_traces : (s.updLaunch k f).traces = s.traces := rfl
@[simp] theorem updLaunch_cores : (s.updLaunch k f).cores = s.cores := rfl
@[simp] theorem updLaunch_faults : (s.updLaunch k f).faults = s.faults := rfl
@[simp] theorem updLaunch_faultQ : (s.updLaunch k f).faultQ = s.faultQ := rfl
@[simp] theorem updLaunch_stewards : (s.updLaunch k f).stewards = s.stewards := rfl
@[simp] theorem updLaunch_slots : (s.updLaunch k f).slots = s.slots := rfl
@[simp] theorem updLaunch_ops : (s.updLaunch k f).ops = s.ops := rfl
@[simp] theorem updLaunch_sac : (s.updLaunch k f).sac = s.sac := rfl
@[simp] theorem updLaunch_panels : (s.updLaunch k f).panels = s.panels := rfl
@[simp] theorem updLaunch_links : (s.updLaunch k f).links = s.links := rfl
@[simp] theorem updLaunch_gangs : (s.updLaunch k f).gangs = s.gangs := rfl
@[simp] theorem updLaunch_collCount : (s.updLaunch k f).collCount = s.collCount := rfl
@[simp] theorem updLaunch_collIn : (s.updLaunch k f).collIn = s.collIn := rfl
@[simp] theorem updLaunch_collDone : (s.updLaunch k f).collDone = s.collDone := rfl
@[simp] theorem updLaunch_images : (s.updLaunch k f).images = s.images := rfl
@[simp] theorem updLaunch_held : (s.updLaunch k f).held = s.held := rfl
@[simp] theorem updLaunch_elogHead : (s.updLaunch k f).elogHead = s.elogHead := rfl
@[simp] theorem updLaunch_linkTimeout : (s.updLaunch k f).linkTimeout = s.linkTimeout := rfl
@[simp] theorem updLaunch_time : (s.updLaunch k f).time = s.time := rfl
@[simp] theorem updLaunch_dev : (s.updLaunch k f).dev = s.dev := rfl
@[simp] theorem updLaunch_boot : (s.updLaunch k f).boot = s.boot := rfl
@[simp] theorem updLaunch_host : (s.updLaunch k f).host = s.host := rfl
@[simp] theorem updLaunch_nextOp : (s.updLaunch k f).nextOp = s.nextOp := rfl
@[simp] theorem updLaunch_seq : (s.updLaunch k f).seq = s.seq := rfl
@[simp] theorem updLaunch_free : (s.updLaunch k f).free = s.free := rfl
@[simp] theorem updLaunch_turn : (s.updLaunch k f).turn = s.turn := rfl
@[simp] theorem updLaunch_inputs : (s.updLaunch k f).inputs = s.inputs := rfl
@[simp] theorem updLaunch_issue : (s.updLaunch k f).issue = s.issue := rfl

end

section

variable (s : State) (k : Nat) (f : Trace → Trace)

@[simp] theorem updTrace_mem : (s.updTrace k f).mem = s.mem := rfl
@[simp] theorem updTrace_full : (s.updTrace k f).full = s.full := rfl
@[simp] theorem updTrace_sat : (s.updTrace k f).sat = s.sat := rfl
@[simp] theorem updTrace_locks : (s.updTrace k f).locks = s.locks := rfl
@[simp] theorem updTrace_bars : (s.updTrace k f).bars = s.bars := rfl
@[simp] theorem updTrace_barFaults : (s.updTrace k f).barFaults = s.barFaults := rfl
@[simp] theorem updTrace_rings : (s.updTrace k f).rings = s.rings := rfl
@[simp] theorem updTrace_ecc : (s.updTrace k f).ecc = s.ecc := rfl
@[simp] theorem updTrace_ctxs : (s.updTrace k f).ctxs = s.ctxs := rfl
@[simp] theorem updTrace_groups : (s.updTrace k f).groups = s.groups := rfl
@[simp] theorem updTrace_blocks : (s.updTrace k f).blocks = s.blocks := rfl
@[simp] theorem updTrace_tasks : (s.updTrace k f).tasks = s.tasks := rfl
@[simp] theorem updTrace_gens : (s.updTrace k f).gens = s.gens := rfl
@[simp] theorem updTrace_launches : (s.updTrace k f).launches = s.launches := rfl
@[simp] theorem updTrace_parts : (s.updTrace k f).parts = s.parts := rfl
@[simp] theorem updTrace_traces : (s.updTrace k f).traces = s.traces.adjust k f := rfl
@[simp] theorem updTrace_cores : (s.updTrace k f).cores = s.cores := rfl
@[simp] theorem updTrace_faults : (s.updTrace k f).faults = s.faults := rfl
@[simp] theorem updTrace_faultQ : (s.updTrace k f).faultQ = s.faultQ := rfl
@[simp] theorem updTrace_stewards : (s.updTrace k f).stewards = s.stewards := rfl
@[simp] theorem updTrace_slots : (s.updTrace k f).slots = s.slots := rfl
@[simp] theorem updTrace_ops : (s.updTrace k f).ops = s.ops := rfl
@[simp] theorem updTrace_sac : (s.updTrace k f).sac = s.sac := rfl
@[simp] theorem updTrace_panels : (s.updTrace k f).panels = s.panels := rfl
@[simp] theorem updTrace_links : (s.updTrace k f).links = s.links := rfl
@[simp] theorem updTrace_gangs : (s.updTrace k f).gangs = s.gangs := rfl
@[simp] theorem updTrace_collCount : (s.updTrace k f).collCount = s.collCount := rfl
@[simp] theorem updTrace_collIn : (s.updTrace k f).collIn = s.collIn := rfl
@[simp] theorem updTrace_collDone : (s.updTrace k f).collDone = s.collDone := rfl
@[simp] theorem updTrace_images : (s.updTrace k f).images = s.images := rfl
@[simp] theorem updTrace_held : (s.updTrace k f).held = s.held := rfl
@[simp] theorem updTrace_elogHead : (s.updTrace k f).elogHead = s.elogHead := rfl
@[simp] theorem updTrace_linkTimeout : (s.updTrace k f).linkTimeout = s.linkTimeout := rfl
@[simp] theorem updTrace_time : (s.updTrace k f).time = s.time := rfl
@[simp] theorem updTrace_dev : (s.updTrace k f).dev = s.dev := rfl
@[simp] theorem updTrace_boot : (s.updTrace k f).boot = s.boot := rfl
@[simp] theorem updTrace_host : (s.updTrace k f).host = s.host := rfl
@[simp] theorem updTrace_nextOp : (s.updTrace k f).nextOp = s.nextOp := rfl
@[simp] theorem updTrace_seq : (s.updTrace k f).seq = s.seq := rfl
@[simp] theorem updTrace_free : (s.updTrace k f).free = s.free := rfl
@[simp] theorem updTrace_turn : (s.updTrace k f).turn = s.turn := rfl
@[simp] theorem updTrace_inputs : (s.updTrace k f).inputs = s.inputs := rfl
@[simp] theorem updTrace_issue : (s.updTrace k f).issue = s.issue := rfl

end

section

variable (s : State) (k : Nat) (f : Slot → Slot)

@[simp] theorem updSlot_mem : (s.updSlot k f).mem = s.mem := rfl
@[simp] theorem updSlot_full : (s.updSlot k f).full = s.full := rfl
@[simp] theorem updSlot_sat : (s.updSlot k f).sat = s.sat := rfl
@[simp] theorem updSlot_locks : (s.updSlot k f).locks = s.locks := rfl
@[simp] theorem updSlot_bars : (s.updSlot k f).bars = s.bars := rfl
@[simp] theorem updSlot_barFaults : (s.updSlot k f).barFaults = s.barFaults := rfl
@[simp] theorem updSlot_rings : (s.updSlot k f).rings = s.rings := rfl
@[simp] theorem updSlot_ecc : (s.updSlot k f).ecc = s.ecc := rfl
@[simp] theorem updSlot_ctxs : (s.updSlot k f).ctxs = s.ctxs := rfl
@[simp] theorem updSlot_groups : (s.updSlot k f).groups = s.groups := rfl
@[simp] theorem updSlot_blocks : (s.updSlot k f).blocks = s.blocks := rfl
@[simp] theorem updSlot_tasks : (s.updSlot k f).tasks = s.tasks := rfl
@[simp] theorem updSlot_gens : (s.updSlot k f).gens = s.gens := rfl
@[simp] theorem updSlot_launches : (s.updSlot k f).launches = s.launches := rfl
@[simp] theorem updSlot_parts : (s.updSlot k f).parts = s.parts := rfl
@[simp] theorem updSlot_traces : (s.updSlot k f).traces = s.traces := rfl
@[simp] theorem updSlot_cores : (s.updSlot k f).cores = s.cores := rfl
@[simp] theorem updSlot_faults : (s.updSlot k f).faults = s.faults := rfl
@[simp] theorem updSlot_faultQ : (s.updSlot k f).faultQ = s.faultQ := rfl
@[simp] theorem updSlot_stewards : (s.updSlot k f).stewards = s.stewards := rfl
@[simp] theorem updSlot_slots : (s.updSlot k f).slots = s.slots.adjust k f := rfl
@[simp] theorem updSlot_ops : (s.updSlot k f).ops = s.ops := rfl
@[simp] theorem updSlot_sac : (s.updSlot k f).sac = s.sac := rfl
@[simp] theorem updSlot_panels : (s.updSlot k f).panels = s.panels := rfl
@[simp] theorem updSlot_links : (s.updSlot k f).links = s.links := rfl
@[simp] theorem updSlot_gangs : (s.updSlot k f).gangs = s.gangs := rfl
@[simp] theorem updSlot_collCount : (s.updSlot k f).collCount = s.collCount := rfl
@[simp] theorem updSlot_collIn : (s.updSlot k f).collIn = s.collIn := rfl
@[simp] theorem updSlot_collDone : (s.updSlot k f).collDone = s.collDone := rfl
@[simp] theorem updSlot_images : (s.updSlot k f).images = s.images := rfl
@[simp] theorem updSlot_held : (s.updSlot k f).held = s.held := rfl
@[simp] theorem updSlot_elogHead : (s.updSlot k f).elogHead = s.elogHead := rfl
@[simp] theorem updSlot_linkTimeout : (s.updSlot k f).linkTimeout = s.linkTimeout := rfl
@[simp] theorem updSlot_time : (s.updSlot k f).time = s.time := rfl
@[simp] theorem updSlot_dev : (s.updSlot k f).dev = s.dev := rfl
@[simp] theorem updSlot_boot : (s.updSlot k f).boot = s.boot := rfl
@[simp] theorem updSlot_host : (s.updSlot k f).host = s.host := rfl
@[simp] theorem updSlot_nextOp : (s.updSlot k f).nextOp = s.nextOp := rfl
@[simp] theorem updSlot_seq : (s.updSlot k f).seq = s.seq := rfl
@[simp] theorem updSlot_free : (s.updSlot k f).free = s.free := rfl
@[simp] theorem updSlot_turn : (s.updSlot k f).turn = s.turn := rfl
@[simp] theorem updSlot_inputs : (s.updSlot k f).inputs = s.inputs := rfl
@[simp] theorem updSlot_issue : (s.updSlot k f).issue = s.issue := rfl

end

section

variable (s : State) (k : Nat) (f : Partition → Partition)

@[simp] theorem updPart_mem : (s.updPart k f).mem = s.mem := rfl
@[simp] theorem updPart_full : (s.updPart k f).full = s.full := rfl
@[simp] theorem updPart_sat : (s.updPart k f).sat = s.sat := rfl
@[simp] theorem updPart_locks : (s.updPart k f).locks = s.locks := rfl
@[simp] theorem updPart_bars : (s.updPart k f).bars = s.bars := rfl
@[simp] theorem updPart_barFaults : (s.updPart k f).barFaults = s.barFaults := rfl
@[simp] theorem updPart_rings : (s.updPart k f).rings = s.rings := rfl
@[simp] theorem updPart_ecc : (s.updPart k f).ecc = s.ecc := rfl
@[simp] theorem updPart_ctxs : (s.updPart k f).ctxs = s.ctxs := rfl
@[simp] theorem updPart_groups : (s.updPart k f).groups = s.groups := rfl
@[simp] theorem updPart_blocks : (s.updPart k f).blocks = s.blocks := rfl
@[simp] theorem updPart_tasks : (s.updPart k f).tasks = s.tasks := rfl
@[simp] theorem updPart_gens : (s.updPart k f).gens = s.gens := rfl
@[simp] theorem updPart_launches : (s.updPart k f).launches = s.launches := rfl
@[simp] theorem updPart_parts : (s.updPart k f).parts = s.parts.adjust k f := rfl
@[simp] theorem updPart_traces : (s.updPart k f).traces = s.traces := rfl
@[simp] theorem updPart_cores : (s.updPart k f).cores = s.cores := rfl
@[simp] theorem updPart_faults : (s.updPart k f).faults = s.faults := rfl
@[simp] theorem updPart_faultQ : (s.updPart k f).faultQ = s.faultQ := rfl
@[simp] theorem updPart_stewards : (s.updPart k f).stewards = s.stewards := rfl
@[simp] theorem updPart_slots : (s.updPart k f).slots = s.slots := rfl
@[simp] theorem updPart_ops : (s.updPart k f).ops = s.ops := rfl
@[simp] theorem updPart_sac : (s.updPart k f).sac = s.sac := rfl
@[simp] theorem updPart_panels : (s.updPart k f).panels = s.panels := rfl
@[simp] theorem updPart_links : (s.updPart k f).links = s.links := rfl
@[simp] theorem updPart_gangs : (s.updPart k f).gangs = s.gangs := rfl
@[simp] theorem updPart_collCount : (s.updPart k f).collCount = s.collCount := rfl
@[simp] theorem updPart_collIn : (s.updPart k f).collIn = s.collIn := rfl
@[simp] theorem updPart_collDone : (s.updPart k f).collDone = s.collDone := rfl
@[simp] theorem updPart_images : (s.updPart k f).images = s.images := rfl
@[simp] theorem updPart_held : (s.updPart k f).held = s.held := rfl
@[simp] theorem updPart_elogHead : (s.updPart k f).elogHead = s.elogHead := rfl
@[simp] theorem updPart_linkTimeout : (s.updPart k f).linkTimeout = s.linkTimeout := rfl
@[simp] theorem updPart_time : (s.updPart k f).time = s.time := rfl
@[simp] theorem updPart_dev : (s.updPart k f).dev = s.dev := rfl
@[simp] theorem updPart_boot : (s.updPart k f).boot = s.boot := rfl
@[simp] theorem updPart_host : (s.updPart k f).host = s.host := rfl
@[simp] theorem updPart_nextOp : (s.updPart k f).nextOp = s.nextOp := rfl
@[simp] theorem updPart_seq : (s.updPart k f).seq = s.seq := rfl
@[simp] theorem updPart_free : (s.updPart k f).free = s.free := rfl
@[simp] theorem updPart_turn : (s.updPart k f).turn = s.turn := rfl
@[simp] theorem updPart_inputs : (s.updPart k f).inputs = s.inputs := rfl
@[simp] theorem updPart_issue : (s.updPart k f).issue = s.issue := rfl

end

section

variable (s : State) (k : Nat) (f : Op → Op)

@[simp] theorem updOp_mem : (s.updOp k f).mem = s.mem := rfl
@[simp] theorem updOp_full : (s.updOp k f).full = s.full := rfl
@[simp] theorem updOp_sat : (s.updOp k f).sat = s.sat := rfl
@[simp] theorem updOp_locks : (s.updOp k f).locks = s.locks := rfl
@[simp] theorem updOp_bars : (s.updOp k f).bars = s.bars := rfl
@[simp] theorem updOp_barFaults : (s.updOp k f).barFaults = s.barFaults := rfl
@[simp] theorem updOp_rings : (s.updOp k f).rings = s.rings := rfl
@[simp] theorem updOp_ecc : (s.updOp k f).ecc = s.ecc := rfl
@[simp] theorem updOp_ctxs : (s.updOp k f).ctxs = s.ctxs := rfl
@[simp] theorem updOp_groups : (s.updOp k f).groups = s.groups := rfl
@[simp] theorem updOp_blocks : (s.updOp k f).blocks = s.blocks := rfl
@[simp] theorem updOp_tasks : (s.updOp k f).tasks = s.tasks := rfl
@[simp] theorem updOp_gens : (s.updOp k f).gens = s.gens := rfl
@[simp] theorem updOp_launches : (s.updOp k f).launches = s.launches := rfl
@[simp] theorem updOp_parts : (s.updOp k f).parts = s.parts := rfl
@[simp] theorem updOp_traces : (s.updOp k f).traces = s.traces := rfl
@[simp] theorem updOp_cores : (s.updOp k f).cores = s.cores := rfl
@[simp] theorem updOp_faults : (s.updOp k f).faults = s.faults := rfl
@[simp] theorem updOp_faultQ : (s.updOp k f).faultQ = s.faultQ := rfl
@[simp] theorem updOp_stewards : (s.updOp k f).stewards = s.stewards := rfl
@[simp] theorem updOp_slots : (s.updOp k f).slots = s.slots := rfl
@[simp] theorem updOp_ops : (s.updOp k f).ops = s.ops.adjust k f := rfl
@[simp] theorem updOp_sac : (s.updOp k f).sac = s.sac := rfl
@[simp] theorem updOp_panels : (s.updOp k f).panels = s.panels := rfl
@[simp] theorem updOp_links : (s.updOp k f).links = s.links := rfl
@[simp] theorem updOp_gangs : (s.updOp k f).gangs = s.gangs := rfl
@[simp] theorem updOp_collCount : (s.updOp k f).collCount = s.collCount := rfl
@[simp] theorem updOp_collIn : (s.updOp k f).collIn = s.collIn := rfl
@[simp] theorem updOp_collDone : (s.updOp k f).collDone = s.collDone := rfl
@[simp] theorem updOp_images : (s.updOp k f).images = s.images := rfl
@[simp] theorem updOp_held : (s.updOp k f).held = s.held := rfl
@[simp] theorem updOp_elogHead : (s.updOp k f).elogHead = s.elogHead := rfl
@[simp] theorem updOp_linkTimeout : (s.updOp k f).linkTimeout = s.linkTimeout := rfl
@[simp] theorem updOp_time : (s.updOp k f).time = s.time := rfl
@[simp] theorem updOp_dev : (s.updOp k f).dev = s.dev := rfl
@[simp] theorem updOp_boot : (s.updOp k f).boot = s.boot := rfl
@[simp] theorem updOp_host : (s.updOp k f).host = s.host := rfl
@[simp] theorem updOp_nextOp : (s.updOp k f).nextOp = s.nextOp := rfl
@[simp] theorem updOp_seq : (s.updOp k f).seq = s.seq := rfl
@[simp] theorem updOp_free : (s.updOp k f).free = s.free := rfl
@[simp] theorem updOp_turn : (s.updOp k f).turn = s.turn := rfl
@[simp] theorem updOp_inputs : (s.updOp k f).inputs = s.inputs := rfl
@[simp] theorem updOp_issue : (s.updOp k f).issue = s.issue := rfl

end

section

variable (s : State) (p : Nat) (f : Steward → Steward)

@[simp] theorem updSteward_mem : (s.updSteward p f).mem = s.mem := rfl
@[simp] theorem updSteward_full : (s.updSteward p f).full = s.full := rfl
@[simp] theorem updSteward_sat : (s.updSteward p f).sat = s.sat := rfl
@[simp] theorem updSteward_locks : (s.updSteward p f).locks = s.locks := rfl
@[simp] theorem updSteward_bars : (s.updSteward p f).bars = s.bars := rfl
@[simp] theorem updSteward_barFaults : (s.updSteward p f).barFaults = s.barFaults := rfl
@[simp] theorem updSteward_rings : (s.updSteward p f).rings = s.rings := rfl
@[simp] theorem updSteward_ecc : (s.updSteward p f).ecc = s.ecc := rfl
@[simp] theorem updSteward_ctxs : (s.updSteward p f).ctxs = s.ctxs := rfl
@[simp] theorem updSteward_groups : (s.updSteward p f).groups = s.groups := rfl
@[simp] theorem updSteward_blocks : (s.updSteward p f).blocks = s.blocks := rfl
@[simp] theorem updSteward_tasks : (s.updSteward p f).tasks = s.tasks := rfl
@[simp] theorem updSteward_gens : (s.updSteward p f).gens = s.gens := rfl
@[simp] theorem updSteward_launches : (s.updSteward p f).launches = s.launches := rfl
@[simp] theorem updSteward_parts : (s.updSteward p f).parts = s.parts := rfl
@[simp] theorem updSteward_traces : (s.updSteward p f).traces = s.traces := rfl
@[simp] theorem updSteward_cores : (s.updSteward p f).cores = s.cores := rfl
@[simp] theorem updSteward_faults : (s.updSteward p f).faults = s.faults := rfl
@[simp] theorem updSteward_faultQ : (s.updSteward p f).faultQ = s.faultQ := rfl
@[simp] theorem updSteward_stewards : (s.updSteward p f).stewards = s.stewards.set p (f (s.steward p)) := rfl
@[simp] theorem updSteward_slots : (s.updSteward p f).slots = s.slots := rfl
@[simp] theorem updSteward_ops : (s.updSteward p f).ops = s.ops := rfl
@[simp] theorem updSteward_sac : (s.updSteward p f).sac = s.sac := rfl
@[simp] theorem updSteward_panels : (s.updSteward p f).panels = s.panels := rfl
@[simp] theorem updSteward_links : (s.updSteward p f).links = s.links := rfl
@[simp] theorem updSteward_gangs : (s.updSteward p f).gangs = s.gangs := rfl
@[simp] theorem updSteward_collCount : (s.updSteward p f).collCount = s.collCount := rfl
@[simp] theorem updSteward_collIn : (s.updSteward p f).collIn = s.collIn := rfl
@[simp] theorem updSteward_collDone : (s.updSteward p f).collDone = s.collDone := rfl
@[simp] theorem updSteward_images : (s.updSteward p f).images = s.images := rfl
@[simp] theorem updSteward_held : (s.updSteward p f).held = s.held := rfl
@[simp] theorem updSteward_elogHead : (s.updSteward p f).elogHead = s.elogHead := rfl
@[simp] theorem updSteward_linkTimeout : (s.updSteward p f).linkTimeout = s.linkTimeout := rfl
@[simp] theorem updSteward_time : (s.updSteward p f).time = s.time := rfl
@[simp] theorem updSteward_dev : (s.updSteward p f).dev = s.dev := rfl
@[simp] theorem updSteward_boot : (s.updSteward p f).boot = s.boot := rfl
@[simp] theorem updSteward_host : (s.updSteward p f).host = s.host := rfl
@[simp] theorem updSteward_nextOp : (s.updSteward p f).nextOp = s.nextOp := rfl
@[simp] theorem updSteward_seq : (s.updSteward p f).seq = s.seq := rfl
@[simp] theorem updSteward_free : (s.updSteward p f).free = s.free := rfl
@[simp] theorem updSteward_turn : (s.updSteward p f).turn = s.turn := rfl
@[simp] theorem updSteward_inputs : (s.updSteward p f).inputs = s.inputs := rfl
@[simp] theorem updSteward_issue : (s.updSteward p f).issue = s.issue := rfl

end

section

variable (s : State) (p : Nat) (f : Panel → Panel)

@[simp] theorem updPanel_mem : (s.updPanel p f).mem = s.mem := rfl
@[simp] theorem updPanel_full : (s.updPanel p f).full = s.full := rfl
@[simp] theorem updPanel_sat : (s.updPanel p f).sat = s.sat := rfl
@[simp] theorem updPanel_locks : (s.updPanel p f).locks = s.locks := rfl
@[simp] theorem updPanel_bars : (s.updPanel p f).bars = s.bars := rfl
@[simp] theorem updPanel_barFaults : (s.updPanel p f).barFaults = s.barFaults := rfl
@[simp] theorem updPanel_rings : (s.updPanel p f).rings = s.rings := rfl
@[simp] theorem updPanel_ecc : (s.updPanel p f).ecc = s.ecc := rfl
@[simp] theorem updPanel_ctxs : (s.updPanel p f).ctxs = s.ctxs := rfl
@[simp] theorem updPanel_groups : (s.updPanel p f).groups = s.groups := rfl
@[simp] theorem updPanel_blocks : (s.updPanel p f).blocks = s.blocks := rfl
@[simp] theorem updPanel_tasks : (s.updPanel p f).tasks = s.tasks := rfl
@[simp] theorem updPanel_gens : (s.updPanel p f).gens = s.gens := rfl
@[simp] theorem updPanel_launches : (s.updPanel p f).launches = s.launches := rfl
@[simp] theorem updPanel_parts : (s.updPanel p f).parts = s.parts := rfl
@[simp] theorem updPanel_traces : (s.updPanel p f).traces = s.traces := rfl
@[simp] theorem updPanel_cores : (s.updPanel p f).cores = s.cores := rfl
@[simp] theorem updPanel_faults : (s.updPanel p f).faults = s.faults := rfl
@[simp] theorem updPanel_faultQ : (s.updPanel p f).faultQ = s.faultQ := rfl
@[simp] theorem updPanel_stewards : (s.updPanel p f).stewards = s.stewards := rfl
@[simp] theorem updPanel_slots : (s.updPanel p f).slots = s.slots := rfl
@[simp] theorem updPanel_ops : (s.updPanel p f).ops = s.ops := rfl
@[simp] theorem updPanel_sac : (s.updPanel p f).sac = s.sac := rfl
@[simp] theorem updPanel_panels : (s.updPanel p f).panels = s.panels.set p (f (s.panel p)) := rfl
@[simp] theorem updPanel_links : (s.updPanel p f).links = s.links := rfl
@[simp] theorem updPanel_gangs : (s.updPanel p f).gangs = s.gangs := rfl
@[simp] theorem updPanel_collCount : (s.updPanel p f).collCount = s.collCount := rfl
@[simp] theorem updPanel_collIn : (s.updPanel p f).collIn = s.collIn := rfl
@[simp] theorem updPanel_collDone : (s.updPanel p f).collDone = s.collDone := rfl
@[simp] theorem updPanel_images : (s.updPanel p f).images = s.images := rfl
@[simp] theorem updPanel_held : (s.updPanel p f).held = s.held := rfl
@[simp] theorem updPanel_elogHead : (s.updPanel p f).elogHead = s.elogHead := rfl
@[simp] theorem updPanel_linkTimeout : (s.updPanel p f).linkTimeout = s.linkTimeout := rfl
@[simp] theorem updPanel_time : (s.updPanel p f).time = s.time := rfl
@[simp] theorem updPanel_dev : (s.updPanel p f).dev = s.dev := rfl
@[simp] theorem updPanel_boot : (s.updPanel p f).boot = s.boot := rfl
@[simp] theorem updPanel_host : (s.updPanel p f).host = s.host := rfl
@[simp] theorem updPanel_nextOp : (s.updPanel p f).nextOp = s.nextOp := rfl
@[simp] theorem updPanel_seq : (s.updPanel p f).seq = s.seq := rfl
@[simp] theorem updPanel_free : (s.updPanel p f).free = s.free := rfl
@[simp] theorem updPanel_turn : (s.updPanel p f).turn = s.turn := rfl
@[simp] theorem updPanel_inputs : (s.updPanel p f).inputs = s.inputs := rfl
@[simp] theorem updPanel_issue : (s.updPanel p f).issue = s.issue := rfl

end

section

variable (s : State) (o : Op)

@[simp] theorem addOp_mem : (s.addOp o).mem = s.mem := rfl
@[simp] theorem addOp_full : (s.addOp o).full = s.full := rfl
@[simp] theorem addOp_sat : (s.addOp o).sat = s.sat := rfl
@[simp] theorem addOp_locks : (s.addOp o).locks = s.locks := rfl
@[simp] theorem addOp_bars : (s.addOp o).bars = s.bars := rfl
@[simp] theorem addOp_barFaults : (s.addOp o).barFaults = s.barFaults := rfl
@[simp] theorem addOp_rings : (s.addOp o).rings = s.rings := rfl
@[simp] theorem addOp_ecc : (s.addOp o).ecc = s.ecc := rfl
@[simp] theorem addOp_ctxs : (s.addOp o).ctxs = s.ctxs := rfl
@[simp] theorem addOp_groups : (s.addOp o).groups = s.groups := rfl
@[simp] theorem addOp_blocks : (s.addOp o).blocks = s.blocks := rfl
@[simp] theorem addOp_tasks : (s.addOp o).tasks = s.tasks := rfl
@[simp] theorem addOp_gens : (s.addOp o).gens = s.gens := rfl
@[simp] theorem addOp_launches : (s.addOp o).launches = s.launches := rfl
@[simp] theorem addOp_parts : (s.addOp o).parts = s.parts := rfl
@[simp] theorem addOp_traces : (s.addOp o).traces = s.traces := rfl
@[simp] theorem addOp_cores : (s.addOp o).cores = s.cores := rfl
@[simp] theorem addOp_faults : (s.addOp o).faults = s.faults := rfl
@[simp] theorem addOp_faultQ : (s.addOp o).faultQ = s.faultQ := rfl
@[simp] theorem addOp_stewards : (s.addOp o).stewards = s.stewards := rfl
@[simp] theorem addOp_slots : (s.addOp o).slots = s.slots := rfl
@[simp] theorem addOp_ops : (s.addOp o).ops = s.ops.set s.nextOp o := rfl
@[simp] theorem addOp_sac : (s.addOp o).sac = s.sac := rfl
@[simp] theorem addOp_panels : (s.addOp o).panels = s.panels := rfl
@[simp] theorem addOp_links : (s.addOp o).links = s.links := rfl
@[simp] theorem addOp_gangs : (s.addOp o).gangs = s.gangs := rfl
@[simp] theorem addOp_collCount : (s.addOp o).collCount = s.collCount := rfl
@[simp] theorem addOp_collIn : (s.addOp o).collIn = s.collIn := rfl
@[simp] theorem addOp_collDone : (s.addOp o).collDone = s.collDone := rfl
@[simp] theorem addOp_images : (s.addOp o).images = s.images := rfl
@[simp] theorem addOp_held : (s.addOp o).held = s.held := rfl
@[simp] theorem addOp_elogHead : (s.addOp o).elogHead = s.elogHead := rfl
@[simp] theorem addOp_linkTimeout : (s.addOp o).linkTimeout = s.linkTimeout := rfl
@[simp] theorem addOp_time : (s.addOp o).time = s.time := rfl
@[simp] theorem addOp_dev : (s.addOp o).dev = s.dev := rfl
@[simp] theorem addOp_boot : (s.addOp o).boot = s.boot := rfl
@[simp] theorem addOp_host : (s.addOp o).host = s.host := rfl
@[simp] theorem addOp_nextOp : (s.addOp o).nextOp = s.nextOp + 1 := rfl
@[simp] theorem addOp_seq : (s.addOp o).seq = s.seq := rfl
@[simp] theorem addOp_free : (s.addOp o).free = s.free := rfl
@[simp] theorem addOp_turn : (s.addOp o).turn = s.turn := rfl
@[simp] theorem addOp_inputs : (s.addOp o).inputs = s.inputs := rfl
@[simp] theorem addOp_issue : (s.addOp o).issue = s.issue := rfl

end

section

variable (s : State) (k : Nat)

@[simp] theorem dropOp_mem : (s.dropOp k).mem = s.mem := rfl
@[simp] theorem dropOp_full : (s.dropOp k).full = s.full := rfl
@[simp] theorem dropOp_sat : (s.dropOp k).sat = s.sat := rfl
@[simp] theorem dropOp_locks : (s.dropOp k).locks = s.locks := rfl
@[simp] theorem dropOp_bars : (s.dropOp k).bars = s.bars := rfl
@[simp] theorem dropOp_barFaults : (s.dropOp k).barFaults = s.barFaults := rfl
@[simp] theorem dropOp_rings : (s.dropOp k).rings = s.rings := rfl
@[simp] theorem dropOp_ecc : (s.dropOp k).ecc = s.ecc := rfl
@[simp] theorem dropOp_ctxs : (s.dropOp k).ctxs = s.ctxs := rfl
@[simp] theorem dropOp_groups : (s.dropOp k).groups = s.groups := rfl
@[simp] theorem dropOp_blocks : (s.dropOp k).blocks = s.blocks := rfl
@[simp] theorem dropOp_tasks : (s.dropOp k).tasks = s.tasks := rfl
@[simp] theorem dropOp_gens : (s.dropOp k).gens = s.gens := rfl
@[simp] theorem dropOp_launches : (s.dropOp k).launches = s.launches := rfl
@[simp] theorem dropOp_parts : (s.dropOp k).parts = s.parts := rfl
@[simp] theorem dropOp_traces : (s.dropOp k).traces = s.traces := rfl
@[simp] theorem dropOp_cores : (s.dropOp k).cores = s.cores := rfl
@[simp] theorem dropOp_faults : (s.dropOp k).faults = s.faults := rfl
@[simp] theorem dropOp_faultQ : (s.dropOp k).faultQ = s.faultQ := rfl
@[simp] theorem dropOp_stewards : (s.dropOp k).stewards = s.stewards := rfl
@[simp] theorem dropOp_slots : (s.dropOp k).slots = s.slots := rfl
@[simp] theorem dropOp_ops : (s.dropOp k).ops = s.ops.erase k := rfl
@[simp] theorem dropOp_sac : (s.dropOp k).sac = s.sac := rfl
@[simp] theorem dropOp_panels : (s.dropOp k).panels = s.panels := rfl
@[simp] theorem dropOp_links : (s.dropOp k).links = s.links := rfl
@[simp] theorem dropOp_gangs : (s.dropOp k).gangs = s.gangs := rfl
@[simp] theorem dropOp_collCount : (s.dropOp k).collCount = s.collCount := rfl
@[simp] theorem dropOp_collIn : (s.dropOp k).collIn = s.collIn := rfl
@[simp] theorem dropOp_collDone : (s.dropOp k).collDone = s.collDone := rfl
@[simp] theorem dropOp_images : (s.dropOp k).images = s.images := rfl
@[simp] theorem dropOp_held : (s.dropOp k).held = s.held := rfl
@[simp] theorem dropOp_elogHead : (s.dropOp k).elogHead = s.elogHead := rfl
@[simp] theorem dropOp_linkTimeout : (s.dropOp k).linkTimeout = s.linkTimeout := rfl
@[simp] theorem dropOp_time : (s.dropOp k).time = s.time := rfl
@[simp] theorem dropOp_dev : (s.dropOp k).dev = s.dev := rfl
@[simp] theorem dropOp_boot : (s.dropOp k).boot = s.boot := rfl
@[simp] theorem dropOp_host : (s.dropOp k).host = s.host := rfl
@[simp] theorem dropOp_nextOp : (s.dropOp k).nextOp = s.nextOp := rfl
@[simp] theorem dropOp_seq : (s.dropOp k).seq = s.seq := rfl
@[simp] theorem dropOp_free : (s.dropOp k).free = s.free := rfl
@[simp] theorem dropOp_turn : (s.dropOp k).turn = s.turn := rfl
@[simp] theorem dropOp_inputs : (s.dropOp k).inputs = s.inputs := rfl
@[simp] theorem dropOp_issue : (s.dropOp k).issue = s.issue := rfl

end

section

variable (s : State) (id : Nat) (p : Park) (scope : Nat)

@[simp] theorem parkThread_mem : (s.parkThread id p scope).mem = s.mem := rfl
@[simp] theorem parkThread_full : (s.parkThread id p scope).full = s.full := rfl
@[simp] theorem parkThread_sat : (s.parkThread id p scope).sat = s.sat := rfl
@[simp] theorem parkThread_locks : (s.parkThread id p scope).locks = s.locks := rfl
@[simp] theorem parkThread_bars : (s.parkThread id p scope).bars = s.bars := rfl
@[simp] theorem parkThread_barFaults : (s.parkThread id p scope).barFaults = s.barFaults := rfl
@[simp] theorem parkThread_rings : (s.parkThread id p scope).rings = s.rings := rfl
@[simp] theorem parkThread_ecc : (s.parkThread id p scope).ecc = s.ecc := rfl
@[simp] theorem parkThread_ctxs : (s.parkThread id p scope).ctxs = s.ctxs.adjust id (fun c => c.park p s.seq scope) := rfl
@[simp] theorem parkThread_groups : (s.parkThread id p scope).groups = s.groups := rfl
@[simp] theorem parkThread_blocks : (s.parkThread id p scope).blocks = s.blocks := rfl
@[simp] theorem parkThread_tasks : (s.parkThread id p scope).tasks = s.tasks := rfl
@[simp] theorem parkThread_gens : (s.parkThread id p scope).gens = s.gens := rfl
@[simp] theorem parkThread_launches : (s.parkThread id p scope).launches = s.launches := rfl
@[simp] theorem parkThread_parts : (s.parkThread id p scope).parts = s.parts := rfl
@[simp] theorem parkThread_traces : (s.parkThread id p scope).traces = s.traces := rfl
@[simp] theorem parkThread_cores : (s.parkThread id p scope).cores = s.cores := rfl
@[simp] theorem parkThread_faults : (s.parkThread id p scope).faults = s.faults := rfl
@[simp] theorem parkThread_faultQ : (s.parkThread id p scope).faultQ = s.faultQ := rfl
@[simp] theorem parkThread_stewards : (s.parkThread id p scope).stewards = s.stewards := rfl
@[simp] theorem parkThread_slots : (s.parkThread id p scope).slots = s.slots := rfl
@[simp] theorem parkThread_ops : (s.parkThread id p scope).ops = s.ops := rfl
@[simp] theorem parkThread_sac : (s.parkThread id p scope).sac = s.sac := rfl
@[simp] theorem parkThread_panels : (s.parkThread id p scope).panels = s.panels := rfl
@[simp] theorem parkThread_links : (s.parkThread id p scope).links = s.links := rfl
@[simp] theorem parkThread_gangs : (s.parkThread id p scope).gangs = s.gangs := rfl
@[simp] theorem parkThread_collCount : (s.parkThread id p scope).collCount = s.collCount := rfl
@[simp] theorem parkThread_collIn : (s.parkThread id p scope).collIn = s.collIn := rfl
@[simp] theorem parkThread_collDone : (s.parkThread id p scope).collDone = s.collDone := rfl
@[simp] theorem parkThread_images : (s.parkThread id p scope).images = s.images := rfl
@[simp] theorem parkThread_held : (s.parkThread id p scope).held = s.held := rfl
@[simp] theorem parkThread_elogHead : (s.parkThread id p scope).elogHead = s.elogHead := rfl
@[simp] theorem parkThread_linkTimeout : (s.parkThread id p scope).linkTimeout = s.linkTimeout := rfl
@[simp] theorem parkThread_time : (s.parkThread id p scope).time = s.time := rfl
@[simp] theorem parkThread_dev : (s.parkThread id p scope).dev = s.dev := rfl
@[simp] theorem parkThread_boot : (s.parkThread id p scope).boot = s.boot := rfl
@[simp] theorem parkThread_host : (s.parkThread id p scope).host = s.host := rfl
@[simp] theorem parkThread_nextOp : (s.parkThread id p scope).nextOp = s.nextOp := rfl
@[simp] theorem parkThread_seq : (s.parkThread id p scope).seq = s.seq + 1 := rfl
@[simp] theorem parkThread_free : (s.parkThread id p scope).free = s.free := rfl
@[simp] theorem parkThread_turn : (s.parkThread id p scope).turn = s.turn := rfl
@[simp] theorem parkThread_inputs : (s.parkThread id p scope).inputs = s.inputs := rfl
@[simp] theorem parkThread_issue : (s.parkThread id p scope).issue = s.issue := rfl

end

section

variable (s : State) (id : Nat) (pc tpc : DWord) (t : Trap)

@[simp] theorem enterOnly_mem : (s.enterOnly id pc tpc t).mem = s.mem := rfl
@[simp] theorem enterOnly_full : (s.enterOnly id pc tpc t).full = s.full := rfl
@[simp] theorem enterOnly_sat : (s.enterOnly id pc tpc t).sat = s.sat := rfl
@[simp] theorem enterOnly_locks : (s.enterOnly id pc tpc t).locks = s.locks := rfl
@[simp] theorem enterOnly_bars : (s.enterOnly id pc tpc t).bars = s.bars := rfl
@[simp] theorem enterOnly_barFaults : (s.enterOnly id pc tpc t).barFaults = s.barFaults := rfl
@[simp] theorem enterOnly_rings : (s.enterOnly id pc tpc t).rings = s.rings := rfl
@[simp] theorem enterOnly_ecc : (s.enterOnly id pc tpc t).ecc = s.ecc := rfl
@[simp] theorem enterOnly_ctxs : (s.enterOnly id pc tpc t).ctxs = s.ctxs.adjust id (fun c => c.enterTrap (s.handlerOf c) pc tpc t) := rfl
@[simp] theorem enterOnly_groups : (s.enterOnly id pc tpc t).groups = s.groups := rfl
@[simp] theorem enterOnly_blocks : (s.enterOnly id pc tpc t).blocks = s.blocks := rfl
@[simp] theorem enterOnly_tasks : (s.enterOnly id pc tpc t).tasks = s.tasks := rfl
@[simp] theorem enterOnly_gens : (s.enterOnly id pc tpc t).gens = s.gens := rfl
@[simp] theorem enterOnly_launches : (s.enterOnly id pc tpc t).launches = s.launches := rfl
@[simp] theorem enterOnly_parts : (s.enterOnly id pc tpc t).parts = s.parts := rfl
@[simp] theorem enterOnly_traces : (s.enterOnly id pc tpc t).traces = s.traces := rfl
@[simp] theorem enterOnly_cores : (s.enterOnly id pc tpc t).cores = s.cores := rfl
@[simp] theorem enterOnly_faults : (s.enterOnly id pc tpc t).faults = s.faults := rfl
@[simp] theorem enterOnly_faultQ : (s.enterOnly id pc tpc t).faultQ = s.faultQ := rfl
@[simp] theorem enterOnly_stewards : (s.enterOnly id pc tpc t).stewards = s.stewards := rfl
@[simp] theorem enterOnly_slots : (s.enterOnly id pc tpc t).slots = s.slots := rfl
@[simp] theorem enterOnly_ops : (s.enterOnly id pc tpc t).ops = s.ops := rfl
@[simp] theorem enterOnly_sac : (s.enterOnly id pc tpc t).sac = s.sac := rfl
@[simp] theorem enterOnly_panels : (s.enterOnly id pc tpc t).panels = s.panels := rfl
@[simp] theorem enterOnly_links : (s.enterOnly id pc tpc t).links = s.links := rfl
@[simp] theorem enterOnly_gangs : (s.enterOnly id pc tpc t).gangs = s.gangs := rfl
@[simp] theorem enterOnly_collCount : (s.enterOnly id pc tpc t).collCount = s.collCount := rfl
@[simp] theorem enterOnly_collIn : (s.enterOnly id pc tpc t).collIn = s.collIn := rfl
@[simp] theorem enterOnly_collDone : (s.enterOnly id pc tpc t).collDone = s.collDone := rfl
@[simp] theorem enterOnly_images : (s.enterOnly id pc tpc t).images = s.images := rfl
@[simp] theorem enterOnly_held : (s.enterOnly id pc tpc t).held = s.held := rfl
@[simp] theorem enterOnly_elogHead : (s.enterOnly id pc tpc t).elogHead = s.elogHead := rfl
@[simp] theorem enterOnly_linkTimeout : (s.enterOnly id pc tpc t).linkTimeout = s.linkTimeout := rfl
@[simp] theorem enterOnly_time : (s.enterOnly id pc tpc t).time = s.time := rfl
@[simp] theorem enterOnly_dev : (s.enterOnly id pc tpc t).dev = s.dev := rfl
@[simp] theorem enterOnly_boot : (s.enterOnly id pc tpc t).boot = s.boot := rfl
@[simp] theorem enterOnly_host : (s.enterOnly id pc tpc t).host = s.host := rfl
@[simp] theorem enterOnly_nextOp : (s.enterOnly id pc tpc t).nextOp = s.nextOp := rfl
@[simp] theorem enterOnly_seq : (s.enterOnly id pc tpc t).seq = s.seq := rfl
@[simp] theorem enterOnly_free : (s.enterOnly id pc tpc t).free = s.free := rfl
@[simp] theorem enterOnly_turn : (s.enterOnly id pc tpc t).turn = s.turn := rfl
@[simp] theorem enterOnly_inputs : (s.enterOnly id pc tpc t).inputs = s.inputs := rfl
@[simp] theorem enterOnly_issue : (s.enterOnly id pc tpc t).issue = s.issue := rfl

end

/-! ## Updates of a run -/

section

variable (s : State) (is : Issue) (ev : Option Instr)

@[simp] theorem hold_mem : (s.hold is ev).mem = s.mem := rfl
@[simp] theorem hold_full : (s.hold is ev).full = s.full := rfl
@[simp] theorem hold_sat : (s.hold is ev).sat = s.sat := rfl
@[simp] theorem hold_locks : (s.hold is ev).locks = s.locks := rfl
@[simp] theorem hold_bars : (s.hold is ev).bars = s.bars := rfl
@[simp] theorem hold_barFaults : (s.hold is ev).barFaults = s.barFaults := rfl
@[simp] theorem hold_rings : (s.hold is ev).rings = s.rings := rfl
@[simp] theorem hold_ecc : (s.hold is ev).ecc = s.ecc := rfl
@[simp] theorem hold_ctxs : (s.hold is ev).ctxs = s.ctxs := rfl
@[simp] theorem hold_groups : (s.hold is ev).groups = s.groups.adjust is.key (fun g => { g with run := g.run.map Run.wait }) := rfl
@[simp] theorem hold_blocks : (s.hold is ev).blocks = s.blocks := rfl
@[simp] theorem hold_tasks : (s.hold is ev).tasks = s.tasks := rfl
@[simp] theorem hold_gens : (s.hold is ev).gens = s.gens := rfl
@[simp] theorem hold_launches : (s.hold is ev).launches = s.launches := rfl
@[simp] theorem hold_parts : (s.hold is ev).parts = s.parts := rfl
@[simp] theorem hold_traces : (s.hold is ev).traces = s.traces := rfl
@[simp] theorem hold_faults : (s.hold is ev).faults = s.faults := rfl
@[simp] theorem hold_faultQ : (s.hold is ev).faultQ = s.faultQ := rfl
@[simp] theorem hold_stewards : (s.hold is ev).stewards = s.stewards := rfl
@[simp] theorem hold_slots : (s.hold is ev).slots = s.slots := rfl
@[simp] theorem hold_ops : (s.hold is ev).ops = s.ops := rfl
@[simp] theorem hold_sac : (s.hold is ev).sac = s.sac := rfl
@[simp] theorem hold_panels : (s.hold is ev).panels = s.panels := rfl
@[simp] theorem hold_links : (s.hold is ev).links = s.links := rfl
@[simp] theorem hold_gangs : (s.hold is ev).gangs = s.gangs := rfl
@[simp] theorem hold_collCount : (s.hold is ev).collCount = s.collCount := rfl
@[simp] theorem hold_collIn : (s.hold is ev).collIn = s.collIn := rfl
@[simp] theorem hold_collDone : (s.hold is ev).collDone = s.collDone := rfl
@[simp] theorem hold_images : (s.hold is ev).images = s.images := rfl
@[simp] theorem hold_held : (s.hold is ev).held = s.held := rfl
@[simp] theorem hold_elogHead : (s.hold is ev).elogHead = s.elogHead := rfl
@[simp] theorem hold_linkTimeout : (s.hold is ev).linkTimeout = s.linkTimeout := rfl
@[simp] theorem hold_time : (s.hold is ev).time = s.time := rfl
@[simp] theorem hold_dev : (s.hold is ev).dev = s.dev := rfl
@[simp] theorem hold_boot : (s.hold is ev).boot = s.boot := rfl
@[simp] theorem hold_host : (s.hold is ev).host = s.host := rfl
@[simp] theorem hold_nextOp : (s.hold is ev).nextOp = s.nextOp := rfl
@[simp] theorem hold_seq : (s.hold is ev).seq = s.seq := rfl
@[simp] theorem hold_free : (s.hold is ev).free = s.free := rfl
@[simp] theorem hold_turn : (s.hold is ev).turn = s.turn := rfl
@[simp] theorem hold_inputs : (s.hold is ev).inputs = ev.toList ++ s.inputs := rfl
@[simp] theorem hold_issue : (s.hold is ev).issue = none := rfl

end

section

variable (s : State) (is : Issue) (w : WordInfo) (cont : List Nat) (ch : Option Chain)

@[simp] theorem finish_mem : (s.finish is w cont ch).mem = s.mem := rfl
@[simp] theorem finish_full : (s.finish is w cont ch).full = s.full := rfl
@[simp] theorem finish_sat : (s.finish is w cont ch).sat = s.sat := rfl
@[simp] theorem finish_locks : (s.finish is w cont ch).locks = s.locks := rfl
@[simp] theorem finish_bars : (s.finish is w cont ch).bars = s.bars := rfl
@[simp] theorem finish_barFaults : (s.finish is w cont ch).barFaults = s.barFaults := rfl
@[simp] theorem finish_rings : (s.finish is w cont ch).rings = s.rings := rfl
@[simp] theorem finish_ecc : (s.finish is w cont ch).ecc = s.ecc := rfl
@[simp] theorem finish_ctxs : (s.finish is w cont ch).ctxs = s.ctxs := rfl
@[simp] theorem finish_blocks : (s.finish is w cont ch).blocks = s.blocks := rfl
@[simp] theorem finish_tasks : (s.finish is w cont ch).tasks = s.tasks := rfl
@[simp] theorem finish_gens : (s.finish is w cont ch).gens = s.gens := rfl
@[simp] theorem finish_launches : (s.finish is w cont ch).launches = s.launches := rfl
@[simp] theorem finish_parts : (s.finish is w cont ch).parts = s.parts := rfl
@[simp] theorem finish_traces : (s.finish is w cont ch).traces = s.traces := rfl
@[simp] theorem finish_faults : (s.finish is w cont ch).faults = s.faults := rfl
@[simp] theorem finish_faultQ : (s.finish is w cont ch).faultQ = s.faultQ := rfl
@[simp] theorem finish_stewards : (s.finish is w cont ch).stewards = s.stewards := rfl
@[simp] theorem finish_slots : (s.finish is w cont ch).slots = s.slots := rfl
@[simp] theorem finish_ops : (s.finish is w cont ch).ops = s.ops := rfl
@[simp] theorem finish_sac : (s.finish is w cont ch).sac = s.sac := rfl
@[simp] theorem finish_panels : (s.finish is w cont ch).panels = s.panels := rfl
@[simp] theorem finish_links : (s.finish is w cont ch).links = s.links := rfl
@[simp] theorem finish_gangs : (s.finish is w cont ch).gangs = s.gangs := rfl
@[simp] theorem finish_collCount : (s.finish is w cont ch).collCount = s.collCount := rfl
@[simp] theorem finish_collIn : (s.finish is w cont ch).collIn = s.collIn := rfl
@[simp] theorem finish_collDone : (s.finish is w cont ch).collDone = s.collDone := rfl
@[simp] theorem finish_images : (s.finish is w cont ch).images = s.images := rfl
@[simp] theorem finish_held : (s.finish is w cont ch).held = s.held := rfl
@[simp] theorem finish_elogHead : (s.finish is w cont ch).elogHead = s.elogHead := rfl
@[simp] theorem finish_linkTimeout : (s.finish is w cont ch).linkTimeout = s.linkTimeout := rfl
@[simp] theorem finish_time : (s.finish is w cont ch).time = s.time := rfl
@[simp] theorem finish_dev : (s.finish is w cont ch).dev = s.dev := rfl
@[simp] theorem finish_boot : (s.finish is w cont ch).boot = s.boot := rfl
@[simp] theorem finish_host : (s.finish is w cont ch).host = s.host := rfl
@[simp] theorem finish_nextOp : (s.finish is w cont ch).nextOp = s.nextOp := rfl
@[simp] theorem finish_seq : (s.finish is w cont ch).seq = s.seq := rfl
@[simp] theorem finish_free : (s.finish is w cont ch).free = s.free := rfl
@[simp] theorem finish_turn : (s.finish is w cont ch).turn = s.turn := rfl
@[simp] theorem finish_inputs : (s.finish is w cont ch).inputs = s.inputs := rfl
@[simp] theorem finish_issue : (s.finish is w cont ch).issue = none := rfl

end

end Sys2Proof.Machine.State
end

