-- ==== Sys2Proof/Laws/Store.lean ====
section
/-!
SUPPORT. What the operations on a sparse map leave at each key, and with that what an update of one part of the state
leaves of the others of its kind.
-/
set_option Elab.async false

namespace Sys2Proof.Machine

/-! ## Sparse maps -/

section

variable {α : Type}

@[simp] theorem Store.get?_nil (k : Nat) : Store.get? ([] : Store α) k = none := rfl

theorem Store.get?_cons (j : Nat) (a : α) (t : Store α) (k : Nat) :
    Store.get? ((j, a) :: t) k = if j = k then some a else Store.get? t k := rfl

theorem Store.getD_eq (m : Store α) (k : Nat) (d : α) : m.getD k d = (m.get? k).getD d := rfl

theorem Store.get?_set (m : Store α) (k : Nat) (a : α) (j : Nat) :
    (m.set k a).get? j = if j = k then some a else m.get? j := by
  induction m with
  | nil => by_cases h : j = k <;> simp [Store.set, Store.get?_cons, h, Ne.symm]
  | cons p t ih =>
    obtain ⟨i, b⟩ := p
    simp only [Store.set]
    by_cases hi : i = k
    · subst hi
      by_cases h : j = i
      · simp [Store.get?_cons, h]
      · simp [Store.get?_cons, h, Ne.symm h]
    · by_cases hk : k < i
      · by_cases h : j = k
        · simp [Store.get?_cons, hi, hk, h]
        · simp [Store.get?_cons, hi, hk, h, Ne.symm h]
      · by_cases h : i = j
        · subst h; simp [Store.get?_cons, hi, hk]
        · simp [Store.get?_cons, hi, hk, ih, h]

@[simp] theorem Store.get?_set_same (m : Store α) (k : Nat) (a : α) : (m.set k a).get? k = some a := by
  simp [Store.get?_set]

theorem Store.get?_set_other (m : Store α) {k j : Nat} (a : α) (h : j ≠ k) : (m.set k a).get? j = m.get? j := by
  simp [Store.get?_set, h]

theorem Store.get?_filter (m : Store α) (q : Nat → Bool) (j : Nat) :
    Store.get? (m.filter (fun p => q p.1)) j = if q j then m.get? j else none := by
  induction m with
  | nil => simp
  | cons p t ih =>
    obtain ⟨i, b⟩ := p
    simp only [List.filter_cons]
    split
    · next h => simp only [Store.get?_cons, ih]; split <;> simp_all
    · next h => rw [ih, Store.get?_cons]; by_cases hi : i = j <;> simp_all

theorem Store.get?_erase (m : Store α) (k j : Nat) : (m.erase k).get? j = if j = k then none else m.get? j := by
  unfold Store.erase
  rw [Store.get?_filter m (fun i => i != k) j]
  by_cases h : j = k <;> simp [h]

@[simp] theorem Store.get?_erase_same (m : Store α) (k : Nat) : (m.erase k).get? k = none := by simp [Store.get?_erase]

theorem Store.get?_map (m : Store α) (f : Nat → α → α) (j : Nat) :
    Store.get? (m.map (fun p => (p.1, f p.1 p.2))) j = (m.get? j).map (f j) := by
  induction m with
  | nil => rfl
  | cons p t ih =>
    obtain ⟨i, b⟩ := p
    simp only [List.map_cons, Store.get?_cons, ih]
    split
    · next h => subst h; rfl
    · rfl

theorem Store.get?_adjust (m : Store α) (k : Nat) (f : α → α) (j : Nat) :
    (m.adjust k f).get? j = if j = k then (m.get? j).map f else m.get? j := by
  have h := Store.get?_map m (fun i a => if i = k then f a else a) j
  have e : (m.map (fun p => (p.1, if p.1 = k then f p.2 else p.2)) : Store α) = m.adjust k f := by
    unfold Store.adjust
    exact List.map_congr_left (fun p _ => by split <;> rfl)
  rw [e] at h
  rw [h]
  by_cases hj : j = k
  · simp [hj]
  · simp only [hj, if_false]; cases m.get? j <;> rfl

theorem Store.get?_adjust_other (m : Store α) {k j : Nat} (f : α → α) (h : j ≠ k) :
    (m.adjust k f).get? j = m.get? j := by simp [Store.get?_adjust, h]

theorem Store.get?_mapKeys (m : Store α) (ks : List Nat) (f : α → α) (j : Nat) :
    (m.mapKeys ks f).get? j = if j ∈ ks then (m.get? j).map f else m.get? j := by
  have h := Store.get?_map m (fun i a => if ks.contains i then f a else a) j
  have e : (m.map (fun p => (p.1, if ks.contains p.1 then f p.2 else p.2)) : Store α) = m.mapKeys ks f := by
    unfold Store.mapKeys
    exact List.map_congr_left (fun p _ => by split <;> rfl)
  rw [e] at h
  rw [h]
  by_cases hj : j ∈ ks
  · simp [hj]
  · simp only [List.contains_eq_mem, hj, decide_false, if_false, Bool.false_eq_true]; cases m.get? j <;> rfl

/-- A key beyond the greatest is free. -/
theorem Store.get?_nextKey_le (m : Store α) (k : Nat) (h : m.nextKey ≤ k) : m.get? k = none := by
  have bound : ∀ (l : Store α) (n : Nat), n ≤ l.foldl (fun n p => Nat.max n (p.1 + 1)) n ∧
      ∀ p ∈ l, p.1 < l.foldl (fun n p => Nat.max n (p.1 + 1)) n := by
    intro l
    induction l with
    | nil => intro n; simp
    | cons p t ih =>
      intro n
      have := ih (Nat.max n (p.1 + 1))
      simp only [List.foldl_cons, List.mem_cons, forall_eq_or_imp]
      have hm : n ≤ Nat.max n (p.1 + 1) := Nat.le_max_left ..
      have hp : p.1 + 1 ≤ Nat.max n (p.1 + 1) := Nat.le_max_right ..
      exact ⟨by omega, by omega, this.2⟩
  have miss : ∀ l : Store α, (∀ p ∈ l, p.1 ≠ k) → l.get? k = none := by
    intro l
    induction l with
    | nil => simp
    | cons p t ih => intro hl; obtain ⟨i, b⟩ := p; simp_all [Store.get?_cons]
  refine miss m (fun p hp => ?_)
  have := (bound m 0).2 p hp
  unfold Store.nextKey at h
  omega

end

/-! ## Parts of the state after an update -/

namespace State

/-- A context after an update of one that is there. -/
theorem ctx_updCtx (s : State) (id j : Nat) (f : Ctx → Ctx) (h : (s.ctxs.get? id).isSome = true) :
    (s.updCtx id f).ctx j = if j = id then f (s.ctx id) else s.ctx j := by
  simp only [State.ctx, State.updCtx, Store.getD_eq, Store.get?_adjust]
  split
  · next e => subst e; cases e : s.ctxs.get? j <;> simp_all
  · rfl

theorem ctx_updCtx_other (s : State) {id j : Nat} (f : Ctx → Ctx) (h : j ≠ id) : (s.updCtx id f).ctx j = s.ctx j := by
  simp [State.ctx, State.updCtx, Store.getD_eq, Store.get?_adjust, h]

/-- A context after an update of several that are there. -/
theorem ctx_mapCtxs (s : State) (ids : List Nat) (j : Nat) (f : Ctx → Ctx)
    (h : ∀ id ∈ ids, (s.ctxs.get? id).isSome = true) :
    (s.mapCtxs ids f).ctx j = if j ∈ ids then f (s.ctx j) else s.ctx j := by
  simp only [State.ctx, State.mapCtxs, Store.getD_eq, Store.get?_mapKeys]
  split
  · next e => have := h j e; cases e : s.ctxs.get? j <;> simp_all
  · rfl

theorem core_updCore (s : State) (c j : Nat) (f : Core → Core) :
    (s.updCore c f).core j = if j = c then f (s.core c) else s.core j := by
  simp only [State.core, State.updCore, Store.getD_eq, Store.get?_set]
  split <;> rfl

/-- A group after an update of one that is there. -/
theorem group_updGroup (s : State) (k j : Nat) (f : Group → Group) (h : (s.groups.get? k).isSome = true) :
    (s.updGroup k f).group j = if j = k then f (s.group k) else s.group j := by
  simp only [State.group, State.updGroup, Store.getD_eq, Store.get?_adjust]
  split
  · next e => subst e; cases e : s.groups.get? j <;> simp_all
  · rfl

/-- A block after an update of one that is there. -/
theorem block_updBlock (s : State) (k j : Nat) (f : Block → Block) (h : (s.blocks.get? k).isSome = true) :
    (s.updBlock k f).block j = if j = k then f (s.block k) else s.block j := by
  simp only [State.block, State.updBlock, Store.getD_eq, Store.get?_adjust]
  split
  · next e => subst e; cases e : s.blocks.get? j <;> simp_all
  · rfl

theorem steward_updSteward (s : State) (p j : Nat) (f : Steward → Steward) :
    (s.updSteward p f).steward j = if j = p then f (s.steward p) else s.steward j := by
  simp only [State.steward, State.updSteward, Store.getD_eq, Store.get?_set]
  split <;> rfl

theorem panel_updPanel (s : State) (p j : Nat) (f : Panel → Panel) :
    (s.updPanel p f).panel j = if j = p then f (s.panel p) else s.panel j := by
  simp only [State.panel, State.updPanel, Store.getD_eq, Store.get?_set]
  split <;> rfl

/-- A new operation stands under the next number, and every other where it was. -/
theorem addOp_get? (s : State) (o : Op) (k : Nat) :
    (s.addOp o).ops.get? k = if k = s.nextOp then some o else s.ops.get? k := by
  simp [State.addOp, Store.get?_set]

end State

end Sys2Proof.Machine
end

