-- ==== Sys2Proof/Laws/Issue.lean ====
section
/-!
SUPPORT. What the wrappers of the instruction words do where a word may take its effect in every thread of its cohort,
and what the end of a word's issue leaves as it was.
-/
set_option Elab.async false

namespace Sys2Proof.Machine

/-! ## The start of a word -/

theorem foldl_fixed {α β : Type} (l : List α) (f : β → α → β) (b : β) (h : ∀ a ∈ l, f b a = b) : l.foldl f b = b := by
  induction l with
  | nil => rfl
  | cons a t ih =>
    rw [List.foldl_cons, h a (List.mem_cons_self ..)]
    exact ih (fun x hx => h x (List.mem_cons_of_mem _ hx))

/-- A word that is clear starts with the whole cohort and changes nothing. -/
theorem State.start_clear {s : State} {is : Issue} {w : WordInfo} {busy : Op → Bool} (h : s.Clear is w busy) :
    s.start is w busy = .go s is.cohort := by
  obtain ⟨hw, hb, hl, hc⟩ := h
  have late : is.cohort.filter (fun id => (s.lateFor is w id).isSome) = [] := by
    rw [List.filter_eq_nil_iff]; intro id hid; simp [hl id hid]
  have rest : is.cohort.filter (fun id => (s.lateFor is w id).isNone) = is.cohort := by
    rw [List.filter_eq_self]; intro id hid; simp [hl id hid]
  have ids : is.cohort.filter (fun id => (s.issueCheck is w id).isNone) = is.cohort := by
    rw [List.filter_eq_self]; intro id hid; simp [hc id hid]
  unfold State.start
  simp only [hw, hb, late, rest, ids, ne_eq, not_true_eq_false, false_and, if_false, List.foldl_nil]
  congr 1
  exact foldl_fixed _ _ _ (fun id hid => by simp [hc id hid])

/-- Where the run waits for an operation, the word holds it and starts nothing (R22). -/
theorem State.start_held {s : State} {is : Issue} {w : WordInfo} {busy : Op → Bool} {k : Nat} {o : Op}
    (hw : wordFault w (s.position is) (s.runOf is).count (s.chainOf is) = none) (hb : s.heldBy is w busy = some (k, o)) :
    s.start is w busy = .done (s.hold is (completion k o)) := by
  unfold State.start; simp [hw, hb]

/-- Where the word's place in its chain or run is illegal, every thread traps (R98 steps 6 to 8). -/
theorem State.start_fault {s : State} {is : Issue} {w : WordInfo} {busy : Op → Bool} {cause : BitVec 10}
    (hw : wordFault w (s.position is) (s.runOf is).count (s.chainOf is) = some cause) :
    s.start is w busy = .done (s.trapAll is ⟨cause, is.pc, is.word⟩) := by
  unfold State.start; simp [hw]

/-! ## The wrappers where the cohort is ready -/

theorem threadWord_ready {s : State} {is : Issue} {w : WordInfo} {busy : Op → Bool} (f : State → Issue → Ctx → Ctx)
    (h : s.Ready is w busy) :
    threadWord s w busy f =
      (s.mapCtxs is.cohort (fun c => (f s is c).advance)).finish is w is.cohort (s.chainAfter is w is.cohort) := by
  unfold threadWord; simp only [h.1.1, State.start_clear h.2]

theorem foldWord_ready {s : State} {is : Issue} {w : WordInfo} {busy : Op → Bool}
    (g : State → Issue → Nat → State × Bool) (h : s.Ready is w busy) :
    foldWord s w busy g =
      (let fin := is.cohort.foldl (fun (p : State × List Nat) id =>
          let r := g p.1 is id
          if r.2 then (r.1.updCtx id Ctx.advance, p.2 ++ [id]) else (r.1, p.2)) (s, [])
       fin.1.finish is w fin.2 (s.chainAfter is w is.cohort)) := by
  unfold foldWord; simp only [h.1.1, State.start_clear h.2]

/-- A word of one thread that goes on. -/
theorem foldWord_one {s t : State} {is : Issue} {w : WordInfo} {busy : Op → Bool} {id : Nat}
    (g : State → Issue → Nat → State × Bool) (h : s.Ready is w busy) (hc : is.cohort = [id]) (hg : g s is id = (t, true)) :
    foldWord s w busy g = (t.updCtx id Ctx.advance).finish is w [id] (s.chainAfter is w [id]) := by
  rw [foldWord_ready g h, hc]; simp [hg]

/-- A word of one thread that leaves the run: it parks, traps or goes elsewhere. -/
theorem foldWord_one_ends {s t : State} {is : Issue} {w : WordInfo} {busy : Op → Bool} {id : Nat}
    (g : State → Issue → Nat → State × Bool) (h : s.Ready is w busy) (hc : is.cohort = [id]) (hg : g s is id = (t, false)) :
    foldWord s w busy g = t.finish is w [] (s.chainAfter is w [id]) := by
  rw [foldWord_ready g h, hc]; simp [hg]

theorem branchWord_ready {s : State} {is : Issue} {w : WordInfo} {busy : Op → Bool} (f : State → Issue → Ctx → TOut)
    (h : s.Ready is w busy) :
    branchWord s w busy f =
      (let fin := is.cohort.foldl (fun (p : State × List Nat) id =>
          match f s is (s.ctx id) with
          | .next c => (p.1.updCtx id (fun _ => c.advance), p.2 ++ [id])
          | .jump c pc => (p.1.updCtx id (fun _ => { c with pc := pc }), p.2)
          | .trap t => (p.1.trapAt id is.pc t, p.2)) (s, [])
       fin.1.finish is w fin.2 (s.chainAfter is w is.cohort)) := by
  unfold branchWord; simp only [h.1.1, State.start_clear h.2] <;> rfl

theorem onceWord_next {s t : State} {is : Issue} {w : WordInfo} {busy : Op → Bool} {cont : List Nat}
    (g : State → Issue → List Nat → Once) (h : s.Ready is w busy) (hg : g s is is.cohort = .next t cont) :
    onceWord s w busy g = (t.mapCtxs cont Ctx.advance).finish is w cont (s.chainAfter is w is.cohort) := by
  unfold onceWord
  cases e : is.cohort with
  | nil => exact absurd e h.1.2.1
  | cons a l => rw [e] at hg; simp only [h.1.1, State.start_clear h.2, e, hg]

theorem onceWord_trap {s : State} {is : Issue} {w : WordInfo} {busy : Op → Bool} {tr : Trap}
    (g : State → Issue → List Nat → Once) (h : s.Ready is w busy) (hg : g s is is.cohort = .trap tr) :
    onceWord s w busy g = (is.cohort.foldl (fun s id => s.trapAt id is.pc tr) s).finish is w [] none := by
  unfold onceWord
  cases e : is.cohort with
  | nil => exact absurd e h.1.2.1
  | cons a l => rw [e] at hg; simp only [h.1.1, State.start_clear h.2, e, hg]

theorem onceWord_hold {s : State} {is : Issue} {w : WordInfo} {busy : Op → Bool} {ev : Option Instr}
    (g : State → Issue → List Nat → Once) (h : s.Ready is w busy) (hg : g s is is.cohort = .hold ev) :
    onceWord s w busy g = s.hold is ev := by
  unfold onceWord
  cases e : is.cohort with
  | nil => exact absurd e h.1.2.1
  | cons a l => rw [e] at hg; simp only [h.1.1, State.start_clear h.2, e, hg]

theorem holdFirst_pass {s : State} {is : Issue} {h : State → Issue → Option (Option Instr)} {k : State → State}
    (hi : s.issue = some is) (hn : h s is = none) : s.holdFirst h k = k s := by
  unfold State.holdFirst; simp only [hi, hn]

theorem holdFirst_hold {s : State} {is : Issue} {h : State → Issue → Option (Option Instr)} {k : State → State}
    {ev : Option Instr} (hi : s.issue = some is) (hn : h s is = some ev) : s.holdFirst h k = s.hold is ev := by
  unfold State.holdFirst; simp only [hi, hn]

/-! ## The end of a word's issue -/

theorem finish_cores (s : State) (is : Issue) (w : WordInfo) (cont : List Nat) (ch : Option Chain) :
    ∃ n, (s.finish is w cont ch).cores = s.cores.set is.core { s.core is.core with cycle := n } := ⟨_, rfl⟩

theorem finish_groups (s : State) (is : Issue) (w : WordInfo) (cont : List Nat) (ch : Option Chain) :
    ∃ f : Group → Group, (s.finish is w cont ch).groups = s.groups.adjust is.key f ∧
      ∀ g, f g = { g with
        run := (f g).run, yielded := (f g).yielded, yielding := (f g).yielding, notBefore := (f g).notBefore } := by
  refine ⟨fun g =>
    if w.ctl.e || cont.isEmpty then
      { g with
        run := none
        yielded := if g.yielding then some (s.ctx (is.cohort.headD 0)).pc else none
        yielding := false
        notBefore := s.now is.core + 1 + (w.ctl.s.toNat + (s.runOf is).chain.elim 0 (·.waited)) }
    else { g with
        run := some ⟨is.pc + 4, cont, (s.runOf is).count + 1, if w.ctl.c && !(w.ctl.e || cont.isEmpty) then ch else none, false, []⟩ },
    rfl, fun g => ?_⟩
  split <;> rfl

/-- The end of a word's issue leaves every other core, thread and group as it was, of its core all but the cycle and of
its group all but the run. -/
theorem elsewhere_finish {s u : State} {is : Issue} (w : WordInfo) (cont : List Nat) (ch : Option Chain)
    (hg : (s.groups.get? is.key).isSome = true) (hc : u.cores = s.cores) (hu : u.groups = s.groups)
    (ht : ∀ id, id ∉ is.cohort → u.ctxs.get? id = s.ctxs.get? id) : s.Elsewhere (u.finish is w cont ch) is := by
  obtain ⟨n, hn⟩ := finish_cores u is w cont ch
  obtain ⟨f, hf, hr⟩ := finish_groups u is w cont ch
  have hgr : (u.finish is w cont ch).group is.key = f (s.group is.key) := by
    obtain ⟨g, e⟩ := Option.isSome_iff_exists.mp hg
    simp only [State.group, hf, hu, Store.getD_eq, Store.get?_adjust, if_true, e, Option.map_some, Option.getD_some]
  refine ⟨ht, fun k hk => ?_, ?_, fun k hk => ?_, ?_⟩
  · rw [hn, hc, Store.get?_set_other _ _ hk]
  · simp only [State.core, hn, Store.getD_eq, hc, Store.get?_set_same, Option.getD_some]
  · rw [hf, hu, Store.get?_adjust_other _ _ hk]
  · rw [hgr]; exact hr _

/-- The end of a word's issue changes cores, groups and the issue alone. -/
theorem finish_frame (s : State) (is : Issue) (w : WordInfo) (cont : List Nat) (ch : Option Chain) :
    s.finish is w cont ch =
      { s with cores := (s.finish is w cont ch).cores, groups := (s.finish is w cont ch).groups, issue := none } := rfl

/-- A word whose whole effect is on its own threads: each thread of a ready cohort takes its new state and goes on, and
nothing else changes. -/
theorem threadWord_spec {s : State} {is : Issue} {w : WordInfo} {busy : Op → Bool} (f : State → Issue → Ctx → Ctx)
    (h : s.Ready is w busy) :
    (∀ id ∈ is.cohort, (threadWord s w busy f).ctx id = (f s is (s.ctx id)).advance) ∧
      threadWord s w busy f = { s with
        ctxs := (threadWord s w busy f).ctxs, cores := (threadWord s w busy f).cores
        groups := (threadWord s w busy f).groups, issue := none } ∧
      s.Elsewhere (threadWord s w busy f) is := by
  rw [threadWord_ready f h]
  obtain ⟨-, -, -, hx, hg⟩ := h.1
  refine ⟨fun id hid => ?_, rfl, elsewhere_finish _ _ _ hg rfl rfl (fun id hid => ?_)⟩
  · have := State.ctx_mapCtxs s is.cohort id (fun c => (f s is c).advance) hx
    simp only [hid, if_true] at this
    exact this
  · simp [Store.get?_mapKeys, hid]

/-! ## Traps -/

/-- A trap where a handler may be entered changes the thread alone (R232). -/
theorem trapThread_enters {s : State} {id : Nat} (pc tpc : DWord) (t : Trap) (h : s.trapEnds (s.ctx id) = false) :
    s.trapThread id pc tpc t = s.enterOnly id pc tpc t := by
  unfold State.trapThread; simp [h]

/-- What the thread holds in its handler (R232, R233). -/
theorem enterTrap_enters {c : Ctx} {handler : DWord} (pc tpc : DWord) (t : Trap) (hf : c.handler = false)
    (h0 : handler ≠ 0) :
    c.enterTrap handler pc tpc t = { c.land with
      status := .running, tpc := tpc, fcause := t.cause.setWidth 32, faddr := t.addr, finfo := t.info, handler := true
      pc := handler } := by
  unfold Ctx.enterTrap; rw [if_neg (by simp only [hf, h0, Bool.false_eq_true, or_self, not_false_eq_true])]

theorem enterTrap_ends {c : Ctx} {handler : DWord} (pc tpc : DWord) (t : Trap) (h : c.handler = true ∨ handler = 0) :
    c.enterTrap handler pc tpc t = { c.land with status := .ended t pc, pc := pc } := by
  unfold Ctx.enterTrap; rw [if_pos h]

end Sys2Proof.Machine
end

