-- ==== Sys2Proof/Laws/Operations.lean ====
section
/-!
SUPPORT. Words that put operations into flight, and what the operations in flight are afterwards.
-/
set_option Elab.async false

namespace Sys2Proof.Machine

/-- The keys of the operations in flight lie below the next number. -/
abbrev State.OpsBelow (s : State) : Prop := ∀ k, s.nextOp ≤ k → s.ops.get? k = none

theorem started_nil (s t : State) (ho : t.ops = s.ops) (hn : t.nextOp = s.nextOp) : s.Started t [] :=
  ⟨nofun, fun k _ => by rw [ho], by simpa using hn⟩

/-- One operation more is in flight. -/
theorem started_snoc {s t u : State} {l : List Op} {o : Op} (h : s.Started t l) (ho : u.ops = (t.addOp o).ops)
    (hn : u.nextOp = (t.addOp o).nextOp) : s.Started u (l ++ [o]) := by
  have hu : ∀ k, u.ops.get? k = if k = t.nextOp then some o else t.ops.get? k := fun k => by
    rw [ho]; exact State.addOp_get? t o k
  refine ⟨fun j x hx => ?_, fun k hk => ?_, ?_⟩
  · rw [hu, h.count]
    by_cases e : j = l.length
    · subst e; simp_all
    · have hj : j < l.length := by
        have := List.getElem?_eq_some_iff.mp hx
        obtain ⟨hlt, -⟩ := this
        simp only [List.length_append, List.length_singleton] at hlt
        omega
      rw [if_neg (by omega)]
      exact h.fresh j x (by rwa [List.getElem?_append_left hj] at hx)
  · rw [hu, if_neg (by have := h.count; omega)]; exact h.old k hk
  · rw [hn]; simp [h.count]; omega

theorem started_one (s : State) (o : Op) : s.Started (s.addOp o) [o] :=
  started_snoc (started_nil s s rfl rfl) rfl rfl

/-- Started says nothing of the rest of the state. -/
theorem Started.congr {s t u : State} {l : List Op} (h : s.Started t l) (ho : u.ops = t.ops) (hn : u.nextOp = t.nextOp) :
    s.Started u l := ⟨fun j o hj => by rw [ho]; exact h.fresh j o hj, fun k hk => by rw [ho]; exact h.old k hk, hn.trans h.count⟩

/-- What a word that puts one operation of each thread into flight has done after some of its threads. -/
theorem foldl_addOp (s : State) (is : Issue) (o : Nat → Op) (l : List Nat) (hn : l.Nodup)
    (hx : ∀ id ∈ l, (s.ctxs.get? id).isSome = true) (g : State → Issue → Nat → State × Bool)
    (hg : ∀ u id, id ∈ l → u.ctx id = s.ctx id → u = { s with ctxs := u.ctxs, ops := u.ops, nextOp := u.nextOp } →
      g u is id = (u.addOp (o id), true)) :
    ∀ (u : State) (done c : List Nat), u = { s with ctxs := u.ctxs, ops := u.ops, nextOp := u.nextOp } →
      s.Started u (done.map o) → (∀ id ∈ l, u.ctx id = s.ctx id) →
      (∀ id ∈ l, (u.ctxs.get? id).isSome = true) →
      let r := l.foldl (fun (p : State × List Nat) id =>
        let q := g p.1 is id
        if q.2 then (q.1.updCtx id Ctx.advance, p.2 ++ [id]) else (q.1, p.2)) (u, c)
      r.1 = { s with ctxs := r.1.ctxs, ops := r.1.ops, nextOp := r.1.nextOp } ∧ r.2 = c ++ l ∧
        s.Started r.1 ((done ++ l).map o) ∧ (∀ id ∈ l, r.1.ctx id = (s.ctx id).advance) ∧
        ∀ id, id ∉ l → r.1.ctxs.get? id = u.ctxs.get? id := by
  induction l with
  | nil => intro u done c hu hs _ _; simpa using ⟨hu, hs⟩
  | cons a l ih =>
    intro u done c hu hs hc hp
    have ha := List.mem_cons_self (a := a) (l := l)
    have hal : a ∉ l := (List.nodup_cons.mp hn).1
    have e := hg u a ha (hc a ha) hu
    have ne : ∀ id ∈ l, id ≠ a := fun id hid he => hal (he ▸ hid)
    simp only [List.foldl_cons, e, if_true]
    have step := ih (List.nodup_cons.mp hn).2 (fun id hid => hx id (List.mem_cons_of_mem _ hid))
      (fun v id hid => hg v id (List.mem_cons_of_mem _ hid))
      ((u.addOp (o a)).updCtx a Ctx.advance) (done ++ [a]) (c ++ [a]) (by rw [hu]; rfl)
      (by rw [List.map_append]; exact started_snoc hs rfl rfl)
      (fun id hid => by
        rw [State.ctx_updCtx_other _ _ (ne id hid)]; exact hc id (List.mem_cons_of_mem _ hid))
      (fun id hid => by
        rw [State.updCtx_ctxs, Store.get?_adjust_other _ _ (ne id hid)]; exact hp id (List.mem_cons_of_mem _ hid))
    obtain ⟨h1, h2, h3, h4, h5⟩ := step
    refine ⟨h1, by rw [h2]; simp, by simpa using h3, fun id hid => ?_, fun id hid => ?_⟩
    · rcases List.mem_cons.mp hid with rfl | hid
      · have := h5 id hal
        have hs' : (u.ctxs.get? id).isSome = true := hp id ha
        obtain ⟨x, hx'⟩ := Option.isSome_iff_exists.mp hs'
        have hu' := hc id ha
        simp only [State.ctx, Store.getD_eq, this, State.updCtx_ctxs, Store.get?_adjust, if_true, State.addOp_ctxs, hx',
          Option.map_some, Option.getD_some] at hu' ⊢
        rw [hu']
      · exact h4 id hid
    · have hne : id ≠ a := fun e => hid (e ▸ ha)
      rw [h5 id (fun h => hid (List.mem_cons_of_mem _ h)), State.updCtx_ctxs, Store.get?_adjust_other _ _ hne,
        State.addOp_ctxs]

/-- A word each of whose threads puts one operation into flight and goes on: nothing else changes. -/
theorem foldWord_addOp {s : State} {is : Issue} {w : WordInfo} {busy : Op → Bool} (o : Nat → Op)
    (g : State → Issue → Nat → State × Bool) (h : s.Ready is w busy)
    (hg : ∀ u id, id ∈ is.cohort → u.ctx id = s.ctx id → u = { s with ctxs := u.ctxs, ops := u.ops, nextOp := u.nextOp } →
      g u is id = (u.addOp (o id), true)) :
    s.Started (foldWord s w busy g) (is.cohort.map o) ∧
      (∀ id ∈ is.cohort, (foldWord s w busy g).ctx id = (s.ctx id).advance) ∧
      foldWord s w busy g = { s with
        ctxs := (foldWord s w busy g).ctxs, cores := (foldWord s w busy g).cores
        groups := (foldWord s w busy g).groups, issue := none
        ops := (foldWord s w busy g).ops, nextOp := (foldWord s w busy g).nextOp } ∧
      s.Elsewhere (foldWord s w busy g) is := by
  obtain ⟨-, -, nodup, hx, hgr⟩ := h.1
  have key := foldl_addOp s is o is.cohort nodup hx g hg s [] [] rfl (started_nil s s rfl rfl) (fun _ _ => rfl) hx
  rw [foldWord_ready g h]
  dsimp only at key ⊢
  generalize is.cohort.foldl _ (s, ([] : List Nat)) = r at key ⊢
  obtain ⟨h1, -, h3, h4, h5⟩ := key
  rw [List.nil_append] at h3
  refine ⟨Started.congr h3 rfl rfl, h4, ?_, elsewhere_finish _ _ _ hgr ?_ ?_ h5⟩
  · rw [finish_frame r.1]
    generalize (r.1.finish is w r.2 (s.chainAfter is w is.cohort)).cores = c
    generalize (r.1.finish is w r.2 (s.chainAfter is w is.cohort)).groups = k
    rw [h1]
  · rw [h1]
  · rw [h1]

/-- A word with a variable-latency result: it completes, each thread goes on with one operation more in flight, and
nothing else changes. -/
theorem resultWord_spec {s : State} {is : Issue} {w : WordInfo} (d : RegField) (n : Nat)
    (f : State → Issue → Ctx → List Word × BitVec 6)
    (hf : ∀ u c, u = { s with ctxs := u.ctxs, ops := u.ops, nextOp := u.nextOp } → f u is c = f s is c)
    (h : s.Ready is w noneBusy) :
    s.Started (resultWord s w d n f) (is.cohort.map (fun id =>
      { core := is.core, ctx := id, grp := is.key, block := (s.ctx id).block
        launch := (s.block (s.ctx id).block).launch
        dst := (List.range n).map ((s.ctx id).resolve (s.now is.core) d + ·)
        kind := .result (f s is (s.ctx id)).1 none (f s is (s.ctx id)).2 })) ∧
      (∀ id ∈ is.cohort, (resultWord s w d n f).ctx id = (s.ctx id).advance) ∧
      resultWord s w d n f = { s with
        ctxs := (resultWord s w d n f).ctxs, cores := (resultWord s w d n f).cores
        groups := (resultWord s w d n f).groups, issue := none
        ops := (resultWord s w d n f).ops, nextOp := (resultWord s w d n f).nextOp } ∧
      s.Elsewhere (resultWord s w d n f) is := by
  refine foldWord_addOp _ _ h (fun u id _ hc hu => ?_)
  have e1 : u.now is.core = s.now is.core := by rw [hu]; rfl
  have e2 : ∀ b, u.block b = s.block b := fun b => by rw [hu]; rfl
  simp only [hc, hf u _ hu, e1, e2]

end Sys2Proof.Machine
end

