-- ==== Sys2Proof/Laws/Access.lean ====
section
/-!
SUPPORT. What the checks of an access, a load and a store of one thread do where they pass, and where a trap stops them.
-/
set_option Elab.async false

namespace Sys2Proof.Machine

theorem reach_ok {s : State} {is : Issue} {id : Nat} {ea : DWord} {size align : Nat} {need : Need} {w : Bool} {k : Reach}
    {pa : Nat} {uc mod : Bool} (h : s.access (s.ctx id) ea size align need w k = .ok pa uc mod) :
    s.reach is id ea size align need w k false = .ok s pa mod := by
  unfold State.reach; simp [h]

theorem reach_virtual_ok {s : State} {is : Issue} {id : Nat} {ea : DWord} {size align : Nat} {need : Need} {w : Bool}
    {k : Reach} {pa : Nat} {uc mod : Bool} (h : s.accessVirtual (s.ctx id) ea size align need w k = .ok pa uc mod) :
    s.reach is id ea size align need w k true = .ok s pa mod := by
  unfold State.reach; simp [h]

/-- An access that traps takes the trap at its word; one that fails at step 4 or 5 of R128 is logged before (R235). -/
theorem reach_trap {s : State} {is : Issue} {id : Nat} {ea : DWord} {size align : Nat} {need : Need} {w : Bool} {k : Reach}
    {t : Trap} (h : s.access (s.ctx id) ea size align need w k = .trap t) :
    s.reach is id ea size align need w k false =
      .stop ((if t.cause = 0x101 then s.logDenied (s.ctx id) ea size need false t.info.toNat else s).trapAt id is.pc t) := by
  unfold State.reach; simp [h]

/-- A translation fault parks the thread at its word (R226). -/
theorem reach_fault {s : State} {is : Issue} {id : Nat} {ea : DWord} {size align : Nat} {need : Need} {w : Bool} {k : Reach}
    {l b z : Nat} (h : s.access (s.ctx id) ea size align need w k = .fault l b z) :
    s.reach is id ea size align need w k false =
      .stop (s.parkFault id (s.partOf (s.ctx id)) l b z ea.toNat (accessInfo size w false)) := by
  unfold State.reach; simp [h]

/-- An access that is answered without an error. -/
theorem respond_none {s : State} {is : Issue} {id pa size : Nat} {ea : DWord} {w : Bool}
    (h : s.responseError (s.ctx id).core pa size = none) : s.respond is id ea pa size w = none := by
  unfold State.respond; simp [h]

/-- A load of one thread whose checks pass puts its access into flight. -/
theorem loadThread_ok {s s' : State} {is : Issue} {id pa size : Nat} {uc mod : Bool} (d : RegField)
    (ea : State → Issue → Ctx → DWord) (signed late : Bool)
    (ha : s.access (s.ctx id) (ea s is (s.ctx id)) size size needR false .plain = .ok pa uc mod)
    (hr : s.recordAccess (s.ctx id) mod false pa size (ea s is (s.ctx id)) = .inl s')
    (he : s.responseError (s.ctx id).core pa size = none) :
    loadThread d ea size signed late s is id =
      (s'.addOp { s'.threadOp is id (destRegs (s.ctx id) (s.now is.core) d ((size + 3) / 4)) (ea s is (s.ctx id))
        (accessInfo size false false) mod (.load pa size signed) with
        late := late, src := s'.ownWindow id pa size }, true) := by
  unfold loadThread; simp only [reach_ok ha, hr, respond_none he]

/-- A store of one thread whose checks pass leaves it as an operation in flight. -/
theorem storeThread_flight {s s' : State} {is : Issue} {id pa size : Nat} {uc mod : Bool} (ea : State → Issue → Ctx → DWord)
    (data : Nat → Ctx → List Byte) (release : Bool)
    (ha : s.access (s.ctx id) (ea s is (s.ctx id)) size size needW true .plain = .ok pa uc mod)
    (hr : s.recordAccess (s.ctx id) mod true pa size (ea s is (s.ctx id)) = .inl s')
    (hs : ((s'.isDet (s.ctx id) || s'.isRestart (s.ctx id)) && stagedRegion (regionOf pa)) = false) :
    storeThread ea data size release s is id =
      ((s'.addOp { s'.threadOp is id (s'.ownWindow id pa size) (ea s is (s.ctx id)) (accessInfo size true false) mod
        (.store pa (data (s.now is.core) (s.ctx id)) release) with
        err := (s'.accessError (s.ctx id).core pa size).map (·.1) }).unfence id, true) := by
  unfold storeThread storeBy
  simp only [reach_ok ha, hr]
  rw [if_neg (by simpa using hs)]

/-- A store of a block whose global stores are staged joins the block's stream (R69, R238). -/
theorem storeThread_staged {s s' : State} {is : Issue} {id pa size : Nat} {uc mod : Bool} (ea : State → Issue → Ctx → DWord)
    (data : Nat → Ctx → List Byte) (release : Bool)
    (ha : s.access (s.ctx id) (ea s is (s.ctx id)) size size needW true .plain = .ok pa uc mod)
    (hr : s.recordAccess (s.ctx id) mod true pa size (ea s is (s.ctx id)) = .inl s')
    (hs : ((s'.isDet (s.ctx id) || s'.isRestart (s.ctx id)) && stagedRegion (regionOf pa)) = true) :
    storeThread ea data size release s is id =
      ((s'.stageOrEnd (s.ctx id) pa 0 (data (s.now is.core) (s.ctx id))).unfence id, true) := by
  unfold storeThread storeBy
  simp only [reach_ok ha, hr]
  rw [if_pos (by simpa using hs)]

/-- Outside modifiable memory, or of a task that runs for no trace, an access enters no record (R197). -/
theorem recordAccess_untraced {s : State} {c : Ctx} {mod w : Bool} {pa n : Nat} {at' : DWord}
    (h : mod = false ∨ s.recordOf c = none) : s.recordAccess c mod w pa n at' = .inl s := by
  unfold State.recordAccess
  rcases h with h | h
  · subst h
    cases s.recordOf c <;> simp
  · simp [h]

end Sys2Proof.Machine
end

