-- ==== Sys2Proof/Laws/Encoding.lean ====
section
/-!
SUPPORT. For each layout of a word (Tables 11.1 and 11.2): the word is one of 32 bits, and the decoder finds in it the
control bits, the class and every field it was made from.
-/
set_option Elab.async false

namespace Sys2Proof

theorem bitField_eq {n w lo k : Nat} (h : w / 2 ^ lo % 2 ^ n = k) (hk : k < 2 ^ n) : bitField n w lo = BitVec.ofNat n k := by
  apply BitVec.eq_of_toNat_eq
  simp [bitField, h, Nat.mod_eq_of_lt hk]

theorem toNat_lt_two (b : Bool) : b.toNat < 2 := by cases b <;> decide

/-- The control bits of a word are found in it, whatever its body (Table 11.1). -/
theorem ctlOf_top (c : Ctl) (k r : Nat) (hk : k < 8) (hr : r < 2 ^ 24) : ctlOf (encodeTop c k + r) = c := by
  obtain ⟨cc, ce, cs⟩ := c
  have hs := cs.isLt
  have hc := toNat_lt_two cc
  have he := toNat_lt_two ce
  simp only [encodeTop, ctlOf]
  have h5 : bitField 3 (cc.toNat * 2 ^ 31 + ce.toNat * 2 ^ 30 + cs.toNat * 2 ^ 27 + k * 2 ^ 24 + r) 27 = cs := by
    rw [bitField_eq (k := cs.toNat) (by omega) cs.isLt]; simp
  have h6 : (cc.toNat * 2 ^ 31 + ce.toNat * 2 ^ 30 + cs.toNat * 2 ^ 27 + k * 2 ^ 24 + r) / 2 ^ 31 % 2 = cc.toNat := by omega
  have h7 : (cc.toNat * 2 ^ 31 + ce.toNat * 2 ^ 30 + cs.toNat * 2 ^ 27 + k * 2 ^ 24 + r) / 2 ^ 30 % 2 = ce.toNat := by omega
  simp only [h5, h6, h7]
  cases cc <;> cases ce <;> rfl

/-- The class of a word is found in it. -/
theorem class_top (c : Ctl) (k r : Nat) (hk : k < 8) (hr : r < 2 ^ 24) : (encodeTop c k + r) / 2 ^ 24 % 8 = k := by
  simp only [encodeTop]; omega

/-- A word has 32 bits. -/
theorem top_lt (c : Ctl) (k r : Nat) (hk : k < 8) (hr : r < 2 ^ 24) : encodeTop c k + r < 2 ^ 32 := by
  have hs := c.s.isLt
  have hc := toNat_lt_two c.c
  have he := toNat_lt_two c.e
  simp only [encodeTop]; omega

/-- The body of a word of class A. -/
theorem encodeAA0_body (c : Ctl) (fn d a b : Nat) :
    encodeA c 0 fn d a b = encodeTop c 0 + (fn * 2 ^ 18 + d * 2 ^ 12 + a * 2 ^ 6 + b) := by simp only [encodeA]; omega

/-- A word of class A has 32 bits. -/
theorem encodeAA0_lt (c : Ctl) (fn d a b : Nat) (h0 : fn < 64) (h1 : d < 64) (h2 : a < 64) (h3 : b < 64) :
    encodeA c 0 fn d a b < 2 ^ 32 := by
  rw [encodeAA0_body]; exact top_lt c 0 _ (by decide) (by omega)

/-- A word of class A decodes with the fields it was made from. -/
theorem decode_encodeAA0 (st : Bool) (c : Ctl) (fn d a b : Nat) (h0 : fn < 64) (h1 : d < 64) (h2 : a < 64) (h3 : b < 64) :
    decode st (encodeA c 0 fn d a b) =
      decodeA st c (BitVec.ofNat 6 fn) (BitVec.ofNat 6 d) (BitVec.ofNat 6 a) (BitVec.ofNat 6 b) := by
  rw [encodeAA0_body]
  have hb : fn * 2 ^ 18 + d * 2 ^ 12 + a * 2 ^ 6 + b < 2 ^ 24 := by omega
  have hc := ctlOf_top c 0 _ (by decide) hb
  have hk := class_top c 0 _ (by decide) hb
  have f0 : bitField 6 (encodeTop c 0 + (fn * 2 ^ 18 + d * 2 ^ 12 + a * 2 ^ 6 + b)) 18 = BitVec.ofNat 6 fn :=
    bitField_eq (by simp only [encodeTop]; omega) (by omega)
  have f1 : bitField 6 (encodeTop c 0 + (fn * 2 ^ 18 + d * 2 ^ 12 + a * 2 ^ 6 + b)) 12 = BitVec.ofNat 6 d :=
    bitField_eq (by simp only [encodeTop]; omega) (by omega)
  have f2 : bitField 6 (encodeTop c 0 + (fn * 2 ^ 18 + d * 2 ^ 12 + a * 2 ^ 6 + b)) 6 = BitVec.ofNat 6 a :=
    bitField_eq (by simp only [encodeTop]; omega) (by omega)
  have f3 : bitField 6 (encodeTop c 0 + (fn * 2 ^ 18 + d * 2 ^ 12 + a * 2 ^ 6 + b)) 0 = BitVec.ofNat 6 b :=
    bitField_eq (by simp only [encodeTop]; omega) (by omega)
  unfold decode
  simp only [hc, hk, f0, f1, f2, f3]

/-- The body of a word of class F. -/
theorem encodeAA1_body (c : Ctl) (fn d a b : Nat) :
    encodeA c 1 fn d a b = encodeTop c 1 + (fn * 2 ^ 18 + d * 2 ^ 12 + a * 2 ^ 6 + b) := by simp only [encodeA]; omega

/-- A word of class F has 32 bits. -/
theorem encodeAA1_lt (c : Ctl) (fn d a b : Nat) (h0 : fn < 64) (h1 : d < 64) (h2 : a < 64) (h3 : b < 64) :
    encodeA c 1 fn d a b < 2 ^ 32 := by
  rw [encodeAA1_body]; exact top_lt c 1 _ (by decide) (by omega)

/-- A word of class F decodes with the fields it was made from. -/
theorem decode_encodeAA1 (st : Bool) (c : Ctl) (fn d a b : Nat) (h0 : fn < 64) (h1 : d < 64) (h2 : a < 64) (h3 : b < 64) :
    decode st (encodeA c 1 fn d a b) =
      decodeF c (BitVec.ofNat 6 fn) (BitVec.ofNat 6 d) (BitVec.ofNat 6 a) (BitVec.ofNat 6 b) := by
  rw [encodeAA1_body]
  have hb : fn * 2 ^ 18 + d * 2 ^ 12 + a * 2 ^ 6 + b < 2 ^ 24 := by omega
  have hc := ctlOf_top c 1 _ (by decide) hb
  have hk := class_top c 1 _ (by decide) hb
  have f0 : bitField 6 (encodeTop c 1 + (fn * 2 ^ 18 + d * 2 ^ 12 + a * 2 ^ 6 + b)) 18 = BitVec.ofNat 6 fn :=
    bitField_eq (by simp only [encodeTop]; omega) (by omega)
  have f1 : bitField 6 (encodeTop c 1 + (fn * 2 ^ 18 + d * 2 ^ 12 + a * 2 ^ 6 + b)) 12 = BitVec.ofNat 6 d :=
    bitField_eq (by simp only [encodeTop]; omega) (by omega)
  have f2 : bitField 6 (encodeTop c 1 + (fn * 2 ^ 18 + d * 2 ^ 12 + a * 2 ^ 6 + b)) 6 = BitVec.ofNat 6 a :=
    bitField_eq (by simp only [encodeTop]; omega) (by omega)
  have f3 : bitField 6 (encodeTop c 1 + (fn * 2 ^ 18 + d * 2 ^ 12 + a * 2 ^ 6 + b)) 0 = BitVec.ofNat 6 b :=
    bitField_eq (by simp only [encodeTop]; omega) (by omega)
  unfold decode
  simp only [hc, hk, f0, f1, f2, f3]

/-- The body of a word of class I. -/
theorem encodeI_body (c : Ctl) (fn d a i : Nat) :
    encodeI c fn d a i = encodeTop c 2 + (fn * 2 ^ 20 + d * 2 ^ 14 + a * 2 ^ 8 + i) := by simp only [encodeI]; omega

/-- A word of class I has 32 bits. -/
theorem encodeI_lt (c : Ctl) (fn d a i : Nat) (h0 : fn < 16) (h1 : d < 64) (h2 : a < 64) (h3 : i < 256) :
    encodeI c fn d a i < 2 ^ 32 := by
  rw [encodeI_body]; exact top_lt c 2 _ (by decide) (by omega)

/-- A word of class I decodes with the fields it was made from. -/
theorem decode_encodeI (st : Bool) (c : Ctl) (fn d a i : Nat) (h0 : fn < 16) (h1 : d < 64) (h2 : a < 64) (h3 : i < 256) :
    decode st (encodeI c fn d a i) =
      decodeI c (BitVec.ofNat 4 fn) (BitVec.ofNat 6 d) (BitVec.ofNat 6 a) (BitVec.ofNat 8 i) := by
  rw [encodeI_body]
  have hb : fn * 2 ^ 20 + d * 2 ^ 14 + a * 2 ^ 8 + i < 2 ^ 24 := by omega
  have hc := ctlOf_top c 2 _ (by decide) hb
  have hk := class_top c 2 _ (by decide) hb
  have f0 : bitField 4 (encodeTop c 2 + (fn * 2 ^ 20 + d * 2 ^ 14 + a * 2 ^ 8 + i)) 20 = BitVec.ofNat 4 fn :=
    bitField_eq (by simp only [encodeTop]; omega) (by omega)
  have f1 : bitField 6 (encodeTop c 2 + (fn * 2 ^ 20 + d * 2 ^ 14 + a * 2 ^ 8 + i)) 14 = BitVec.ofNat 6 d :=
    bitField_eq (by simp only [encodeTop]; omega) (by omega)
  have f2 : bitField 6 (encodeTop c 2 + (fn * 2 ^ 20 + d * 2 ^ 14 + a * 2 ^ 8 + i)) 8 = BitVec.ofNat 6 a :=
    bitField_eq (by simp only [encodeTop]; omega) (by omega)
  have f3 : bitField 8 (encodeTop c 2 + (fn * 2 ^ 20 + d * 2 ^ 14 + a * 2 ^ 8 + i)) 0 = BitVec.ofNat 8 i :=
    bitField_eq (by simp only [encodeTop]; omega) (by omega)
  unfold decode
  simp only [hc, hk, f0, f1, f2, f3]

/-- The body of a word of class M. -/
theorem encodeM_body (c : Ctl) (fn d a o : Nat) :
    encodeM c fn d a o = encodeTop c 3 + (fn * 2 ^ 19 + d * 2 ^ 13 + a * 2 ^ 7 + o) := by simp only [encodeM]; omega

/-- A word of class M has 32 bits. -/
theorem encodeM_lt (c : Ctl) (fn d a o : Nat) (h0 : fn < 32) (h1 : d < 64) (h2 : a < 64) (h3 : o < 128) :
    encodeM c fn d a o < 2 ^ 32 := by
  rw [encodeM_body]; exact top_lt c 3 _ (by decide) (by omega)

/-- A word of class M decodes with the fields it was made from. -/
theorem decode_encodeM (st : Bool) (c : Ctl) (fn d a o : Nat) (h0 : fn < 32) (h1 : d < 64) (h2 : a < 64) (h3 : o < 128) :
    decode st (encodeM c fn d a o) =
      decodeM st c (BitVec.ofNat 5 fn) (BitVec.ofNat 6 d) (BitVec.ofNat 6 a) (BitVec.ofNat 7 o) := by
  rw [encodeM_body]
  have hb : fn * 2 ^ 19 + d * 2 ^ 13 + a * 2 ^ 7 + o < 2 ^ 24 := by omega
  have hc := ctlOf_top c 3 _ (by decide) hb
  have hk := class_top c 3 _ (by decide) hb
  have f0 : bitField 5 (encodeTop c 3 + (fn * 2 ^ 19 + d * 2 ^ 13 + a * 2 ^ 7 + o)) 19 = BitVec.ofNat 5 fn :=
    bitField_eq (by simp only [encodeTop]; omega) (by omega)
  have f1 : bitField 6 (encodeTop c 3 + (fn * 2 ^ 19 + d * 2 ^ 13 + a * 2 ^ 7 + o)) 13 = BitVec.ofNat 6 d :=
    bitField_eq (by simp only [encodeTop]; omega) (by omega)
  have f2 : bitField 6 (encodeTop c 3 + (fn * 2 ^ 19 + d * 2 ^ 13 + a * 2 ^ 7 + o)) 7 = BitVec.ofNat 6 a :=
    bitField_eq (by simp only [encodeTop]; omega) (by omega)
  have f3 : bitField 7 (encodeTop c 3 + (fn * 2 ^ 19 + d * 2 ^ 13 + a * 2 ^ 7 + o)) 0 = BitVec.ofNat 7 o :=
    bitField_eq (by simp only [encodeTop]; omega) (by omega)
  unfold decode
  simp only [hc, hk, f0, f1, f2, f3]

/-- The body of a word of class S1. -/
theorem encodeSS1_body (c : Ctl) (fn p d a b : Nat) :
    encodeS c 4 fn p d a b = encodeTop c 4 + (fn * 2 ^ 21 + p * 2 ^ 18 + d * 2 ^ 12 + a * 2 ^ 6 + b) := by simp only [encodeS]; omega

/-- A word of class S1 has 32 bits. -/
theorem encodeSS1_lt (c : Ctl) (fn p d a b : Nat) (h0 : fn < 8) (h1 : p < 8) (h2 : d < 64) (h3 : a < 64) (h4 : b < 64) :
    encodeS c 4 fn p d a b < 2 ^ 32 := by
  rw [encodeSS1_body]; exact top_lt c 4 _ (by decide) (by omega)

/-- A word of class S1 decodes with the fields it was made from. -/
theorem decode_encodeSS1 (st : Bool) (c : Ctl) (fn p d a b : Nat) (h0 : fn < 8) (h1 : p < 8) (h2 : d < 64) (h3 : a < 64) (h4 : b < 64) :
    decode st (encodeS c 4 fn p d a b) =
      decodeS1 c (BitVec.ofNat 3 fn) (BitVec.ofNat 3 p) (BitVec.ofNat 6 d) (BitVec.ofNat 6 a) (BitVec.ofNat 6 b) := by
  rw [encodeSS1_body]
  have hb : fn * 2 ^ 21 + p * 2 ^ 18 + d * 2 ^ 12 + a * 2 ^ 6 + b < 2 ^ 24 := by omega
  have hc := ctlOf_top c 4 _ (by decide) hb
  have hk := class_top c 4 _ (by decide) hb
  have f0 : bitField 3 (encodeTop c 4 + (fn * 2 ^ 21 + p * 2 ^ 18 + d * 2 ^ 12 + a * 2 ^ 6 + b)) 21 = BitVec.ofNat 3 fn :=
    bitField_eq (by simp only [encodeTop]; omega) (by omega)
  have f1 : bitField 3 (encodeTop c 4 + (fn * 2 ^ 21 + p * 2 ^ 18 + d * 2 ^ 12 + a * 2 ^ 6 + b)) 18 = BitVec.ofNat 3 p :=
    bitField_eq (by simp only [encodeTop]; omega) (by omega)
  have f2 : bitField 6 (encodeTop c 4 + (fn * 2 ^ 21 + p * 2 ^ 18 + d * 2 ^ 12 + a * 2 ^ 6 + b)) 12 = BitVec.ofNat 6 d :=
    bitField_eq (by simp only [encodeTop]; omega) (by omega)
  have f3 : bitField 6 (encodeTop c 4 + (fn * 2 ^ 21 + p * 2 ^ 18 + d * 2 ^ 12 + a * 2 ^ 6 + b)) 6 = BitVec.ofNat 6 a :=
    bitField_eq (by simp only [encodeTop]; omega) (by omega)
  have f4 : bitField 6 (encodeTop c 4 + (fn * 2 ^ 21 + p * 2 ^ 18 + d * 2 ^ 12 + a * 2 ^ 6 + b)) 0 = BitVec.ofNat 6 b :=
    bitField_eq (by simp only [encodeTop]; omega) (by omega)
  unfold decode
  simp only [hc, hk, f0, f1, f2, f3, f4]

/-- The body of a word of class S2. -/
theorem encodeSS2_body (c : Ctl) (fn p d a b : Nat) :
    encodeS c 5 fn p d a b = encodeTop c 5 + (fn * 2 ^ 21 + p * 2 ^ 18 + d * 2 ^ 12 + a * 2 ^ 6 + b) := by simp only [encodeS]; omega

/-- A word of class S2 has 32 bits. -/
theorem encodeSS2_lt (c : Ctl) (fn p d a b : Nat) (h0 : fn < 8) (h1 : p < 8) (h2 : d < 64) (h3 : a < 64) (h4 : b < 64) :
    encodeS c 5 fn p d a b < 2 ^ 32 := by
  rw [encodeSS2_body]; exact top_lt c 5 _ (by decide) (by omega)

/-- A word of class S2 decodes with the fields it was made from. -/
theorem decode_encodeSS2 (st : Bool) (c : Ctl) (fn p d a b : Nat) (h0 : fn < 8) (h1 : p < 8) (h2 : d < 64) (h3 : a < 64) (h4 : b < 64) :
    decode st (encodeS c 5 fn p d a b) =
      decodeS2 c (BitVec.ofNat 3 fn) (BitVec.ofNat 3 p) (BitVec.ofNat 6 d) (BitVec.ofNat 6 a) (BitVec.ofNat 6 b) := by
  rw [encodeSS2_body]
  have hb : fn * 2 ^ 21 + p * 2 ^ 18 + d * 2 ^ 12 + a * 2 ^ 6 + b < 2 ^ 24 := by omega
  have hc := ctlOf_top c 5 _ (by decide) hb
  have hk := class_top c 5 _ (by decide) hb
  have f0 : bitField 3 (encodeTop c 5 + (fn * 2 ^ 21 + p * 2 ^ 18 + d * 2 ^ 12 + a * 2 ^ 6 + b)) 21 = BitVec.ofNat 3 fn :=
    bitField_eq (by simp only [encodeTop]; omega) (by omega)
  have f1 : bitField 3 (encodeTop c 5 + (fn * 2 ^ 21 + p * 2 ^ 18 + d * 2 ^ 12 + a * 2 ^ 6 + b)) 18 = BitVec.ofNat 3 p :=
    bitField_eq (by simp only [encodeTop]; omega) (by omega)
  have f2 : bitField 6 (encodeTop c 5 + (fn * 2 ^ 21 + p * 2 ^ 18 + d * 2 ^ 12 + a * 2 ^ 6 + b)) 12 = BitVec.ofNat 6 d :=
    bitField_eq (by simp only [encodeTop]; omega) (by omega)
  have f3 : bitField 6 (encodeTop c 5 + (fn * 2 ^ 21 + p * 2 ^ 18 + d * 2 ^ 12 + a * 2 ^ 6 + b)) 6 = BitVec.ofNat 6 a :=
    bitField_eq (by simp only [encodeTop]; omega) (by omega)
  have f4 : bitField 6 (encodeTop c 5 + (fn * 2 ^ 21 + p * 2 ^ 18 + d * 2 ^ 12 + a * 2 ^ 6 + b)) 0 = BitVec.ofNat 6 b :=
    bitField_eq (by simp only [encodeTop]; omega) (by omega)
  unfold decode
  simp only [hc, hk, f0, f1, f2, f3, f4]

/-- The body of a word of class B. -/
theorem encodeB_body (c : Ctl) (fn a o : Nat) :
    encodeB c fn a o = encodeTop c 6 + (fn * 2 ^ 20 + a * 2 ^ 14 + o) := by simp only [encodeB]; omega

/-- A word of class B has 32 bits. -/
theorem encodeB_lt (c : Ctl) (fn a o : Nat) (h0 : fn < 8) (h1 : a < 64) (h2 : o < 16384) :
    encodeB c fn a o < 2 ^ 32 := by
  rw [encodeB_body]; exact top_lt c 6 _ (by decide) (by omega)

/-- A word of class B decodes with the fields it was made from. -/
theorem decode_encodeB (st : Bool) (c : Ctl) (fn a o : Nat) (h0 : fn < 8) (h1 : a < 64) (h2 : o < 16384) :
    decode st (encodeB c fn a o) =
      decodeB c (BitVec.ofNat 3 fn) (BitVec.ofNat 6 a) (BitVec.ofNat 14 o) := by
  rw [encodeB_body]
  have hb : fn * 2 ^ 20 + a * 2 ^ 14 + o < 2 ^ 24 := by omega
  have hc := ctlOf_top c 6 _ (by decide) hb
  have hk := class_top c 6 _ (by decide) hb
  have f0 : bitField 3 (encodeTop c 6 + (fn * 2 ^ 20 + a * 2 ^ 14 + o)) 20 = BitVec.ofNat 3 fn :=
    bitField_eq (by simp only [encodeTop]; omega) (by omega)
  have f1 : bitField 6 (encodeTop c 6 + (fn * 2 ^ 20 + a * 2 ^ 14 + o)) 14 = BitVec.ofNat 6 a :=
    bitField_eq (by simp only [encodeTop]; omega) (by omega)
  have f2 : bitField 14 (encodeTop c 6 + (fn * 2 ^ 20 + a * 2 ^ 14 + o)) 0 = BitVec.ofNat 14 o :=
    bitField_eq (by simp only [encodeTop]; omega) (by omega)
  have h23 : (encodeTop c 6 + (fn * 2 ^ 20 + a * 2 ^ 14 + o)) / 2 ^ 23 % 2 = 0 := by simp only [encodeTop]; omega
  unfold decode
  simp only [hc, hk, f0, f1, f2, h23]
  rfl

/-- The body of a word of class X. -/
theorem encodeX_body (c : Ctl) (fn d a i : Nat) :
    encodeX c fn d a i = encodeTop c 6 + (2 ^ 23 + fn * 2 ^ 16 + d * 2 ^ 10 + a * 2 ^ 4 + i) := by simp only [encodeX]; omega

/-- A word of class X has 32 bits. -/
theorem encodeX_lt (c : Ctl) (fn d a i : Nat) (h0 : fn < 128) (h1 : d < 64) (h2 : a < 64) (h3 : i < 16) :
    encodeX c fn d a i < 2 ^ 32 := by
  rw [encodeX_body]; exact top_lt c 6 _ (by decide) (by omega)

/-- A word of class X decodes with the fields it was made from. -/
theorem decode_encodeX (st : Bool) (c : Ctl) (fn d a i : Nat) (h0 : fn < 128) (h1 : d < 64) (h2 : a < 64) (h3 : i < 16) :
    decode st (encodeX c fn d a i) =
      decodeX st c (BitVec.ofNat 7 fn) (BitVec.ofNat 6 d) (BitVec.ofNat 6 a) (BitVec.ofNat 4 i) := by
  rw [encodeX_body]
  have hb : 2 ^ 23 + fn * 2 ^ 16 + d * 2 ^ 10 + a * 2 ^ 4 + i < 2 ^ 24 := by omega
  have hc := ctlOf_top c 6 _ (by decide) hb
  have hk := class_top c 6 _ (by decide) hb
  have f0 : bitField 7 (encodeTop c 6 + (2 ^ 23 + fn * 2 ^ 16 + d * 2 ^ 10 + a * 2 ^ 4 + i)) 16 = BitVec.ofNat 7 fn :=
    bitField_eq (by simp only [encodeTop]; omega) (by omega)
  have f1 : bitField 6 (encodeTop c 6 + (2 ^ 23 + fn * 2 ^ 16 + d * 2 ^ 10 + a * 2 ^ 4 + i)) 10 = BitVec.ofNat 6 d :=
    bitField_eq (by simp only [encodeTop]; omega) (by omega)
  have f2 : bitField 6 (encodeTop c 6 + (2 ^ 23 + fn * 2 ^ 16 + d * 2 ^ 10 + a * 2 ^ 4 + i)) 4 = BitVec.ofNat 6 a :=
    bitField_eq (by simp only [encodeTop]; omega) (by omega)
  have f3 : bitField 4 (encodeTop c 6 + (2 ^ 23 + fn * 2 ^ 16 + d * 2 ^ 10 + a * 2 ^ 4 + i)) 0 = BitVec.ofNat 4 i :=
    bitField_eq (by simp only [encodeTop]; omega) (by omega)
  have h23 : (encodeTop c 6 + (2 ^ 23 + fn * 2 ^ 16 + d * 2 ^ 10 + a * 2 ^ 4 + i)) / 2 ^ 23 % 2 = 1 := by simp only [encodeTop]; omega
  unfold decode
  simp only [hc, hk, f0, f1, f2, f3, h23]
  rfl

/-- The body of a word of class W. -/
theorem encodeW_body (c : Ctl) (fn d i : Nat) :
    encodeW c fn d i = encodeTop c 7 + (fn * 2 ^ 22 + d * 2 ^ 16 + i) := by simp only [encodeW]; omega

/-- A word of class W has 32 bits. -/
theorem encodeW_lt (c : Ctl) (fn d i : Nat) (h0 : fn < 4) (h1 : d < 64) (h2 : i < 65536) :
    encodeW c fn d i < 2 ^ 32 := by
  rw [encodeW_body]; exact top_lt c 7 _ (by decide) (by omega)

/-- A word of class W decodes with the fields it was made from. -/
theorem decode_encodeW (st : Bool) (c : Ctl) (fn d i : Nat) (h0 : fn < 4) (h1 : d < 64) (h2 : i < 65536) :
    decode st (encodeW c fn d i) =
      decodeW c (BitVec.ofNat 2 fn) (BitVec.ofNat 6 d) (BitVec.ofNat 16 i) := by
  rw [encodeW_body]
  have hb : fn * 2 ^ 22 + d * 2 ^ 16 + i < 2 ^ 24 := by omega
  have hc := ctlOf_top c 7 _ (by decide) hb
  have hk := class_top c 7 _ (by decide) hb
  have f0 : bitField 2 (encodeTop c 7 + (fn * 2 ^ 22 + d * 2 ^ 16 + i)) 22 = BitVec.ofNat 2 fn :=
    bitField_eq (by simp only [encodeTop]; omega) (by omega)
  have f1 : bitField 6 (encodeTop c 7 + (fn * 2 ^ 22 + d * 2 ^ 16 + i)) 16 = BitVec.ofNat 6 d :=
    bitField_eq (by simp only [encodeTop]; omega) (by omega)
  have f2 : bitField 16 (encodeTop c 7 + (fn * 2 ^ 22 + d * 2 ^ 16 + i)) 0 = BitVec.ofNat 16 i :=
    bitField_eq (by simp only [encodeTop]; omega) (by omega)
  unfold decode
  simp only [hc, hk, f0, f1, f2]

end Sys2Proof
end

