-- ==== Sys2Proof/Laws/Memory.lean ====
section
/-!
SUPPORT. The byte memory: what a read finds after a write, that every operation on memory keeps its canonical form, and
that memories in that form which read alike are equal.
-/
set_option Elab.async false

namespace Sys2Proof.Machine

/-! ## Reads after writes -/

@[simp] theorem Memory.read_nil (a : Nat) : read [] a = unwrittenByte := rfl

theorem Memory.read_cons (j : Nat) (b : Byte) (t : Memory) (a : Nat) : read ((j, b) :: t) a = if j = a then b else read t a := rfl

theorem Memory.read_insert (m : Memory) (a : Nat) (b : Byte) (x : Nat) :
    (m.insert a b).read x = if x = a then b else m.read x := by
  induction m with
  | nil => by_cases h : x = a <;> simp [insert, read_cons, h, Ne.symm]
  | cons p t ih =>
    obtain ⟨j, c⟩ := p
    simp only [insert]
    by_cases hj : j = a
    · subst hj; by_cases h : x = j <;> simp [read_cons, h, Ne.symm]
    · by_cases hl : a < j
      · by_cases h : x = a <;> simp [read_cons, hj, hl, h, Ne.symm]
      · by_cases h : j = x
        · subst h; simp [read_cons, hj, hl]
        · simp [read_cons, hj, hl, ih, h]

theorem Memory.read_filter (m : Memory) (q : Nat → Bool) (x : Nat) :
    read (m.filter (fun c => q c.1)) x = if q x then m.read x else unwrittenByte := by
  induction m with
  | nil => simp
  | cons p t ih =>
    obtain ⟨j, c⟩ := p
    simp only [List.filter_cons]
    split
    · next h => simp only [read_cons, ih]; split <;> simp_all
    · next h => rw [ih, read_cons]; by_cases hj : j = x <;> simp_all

/-- A read after a write of one byte: the byte at its address, and every other place as before. -/
theorem Memory.read_write (m : Memory) (a : Nat) (b : Byte) (x : Nat) :
    (m.write a b).read x = if x = a then b else m.read x := by
  unfold write
  split
  · next h =>
    rw [read_filter m (fun i => i != a) x]
    by_cases hx : x = a <;> simp [hx, h]
  · exact read_insert m a b x

/-- Bytes written from an address on are read there, and every other place reads as before. -/
theorem Memory.wrote_writeBytes (m : Memory) (a : Nat) (l : List Byte) : m.Wrote (m.writeBytes a l) a l := by
  induction l generalizing m a with
  | nil => intro x; simp [writeBytes] <;> omega
  | cons b t ih =>
    intro x
    simp only [writeBytes]
    rw [ih (m.write a b) (a + 1) x, read_write]
    by_cases h : x = a
    · subst h; simp <;> omega
    · by_cases hx : a + 1 ≤ x ∧ x < a + 1 + t.length
      · have h1 : a ≤ x ∧ x < a + (t.length + 1) := by omega
        have h2 : x - a = x - (a + 1) + 1 := by omega
        simp [hx, h1, h2]
      · have h1 : ¬(a ≤ x ∧ x < a + (t.length + 1)) := by omega
        rw [List.length_cons, if_neg hx, if_neg h, if_neg h1]

theorem Memory.read_writeBytes (m : Memory) (a : Nat) (l : List Byte) (x : Nat) :
    (m.writeBytes a l).read x = if a ≤ x ∧ x < a + l.length then l.getD (x - a) 0 else m.read x :=
  wrote_writeBytes m a l x

/-- Bytes written are the bytes read back from the same address. -/
theorem Memory.readBytes_writeBytes (m : Memory) (a : Nat) (l : List Byte) : (m.writeBytes a l).readBytes a l.length = l := by
  apply List.ext_getElem
  · simp [readBytes]
  · intro i h₁ h₂
    have : a ≤ a + i ∧ a + i < a + l.length := by omega
    simp [readBytes, read_writeBytes, h₂]

theorem Memory.writeBytes_append (m : Memory) (a : Nat) (l k : List Byte) :
    m.writeBytes a (l ++ k) = (m.writeBytes a l).writeBytes (a + l.length) k := by
  induction l generalizing m a with
  | nil => rfl
  | cons b t ih => simp only [List.cons_append, writeBytes, ih, List.length_cons]; congr 1; omega

/-- A read of two memories, one before the other: in the first where it has a cell for the address. -/
theorem Memory.read_append (m k : Memory) (x : Nat) :
    read (m ++ k) x = if m.any (fun c => decide (c.1 = x)) then m.read x else k.read x := by
  induction m with
  | nil => simp
  | cons p t ih =>
    obtain ⟨j, c⟩ := p
    rw [List.cons_append, read_cons, read_cons, ih]
    by_cases h : j = x <;> simp [h]

theorem Memory.read_absent {m : Memory} {x : Nat} (h : m.any (fun c => decide (c.1 = x)) = false) :
    m.read x = unwrittenByte := by
  induction m with
  | nil => rfl
  | cons p t ih =>
    obtain ⟨j, c⟩ := p
    simp only [List.any_cons, Bool.or_eq_false_iff, decide_eq_false_iff_not] at h
    rw [read_cons, if_neg h.1, ih h.2]

theorem Memory.read_cells (a : Nat) (l : List Byte) (x : Nat) :
    read (cells a l) x = if a ≤ x ∧ x < a + l.length then l.getD (x - a) 0 else unwrittenByte := by
  induction l generalizing a with
  | nil => simp [cells] <;> omega
  | cons b t ih =>
    unfold cells
    by_cases hx : x = a
    · subst hx
      split
      · next h => rw [ih]; simp [h] <;> omega
      · simp [read_cons]
    · have e : (if a ≤ x ∧ x < a + (b :: t).length then (b :: t).getD (x - a) 0 else unwrittenByte) =
          if a + 1 ≤ x ∧ x < a + 1 + t.length then t.getD (x - (a + 1)) 0 else unwrittenByte := by
        by_cases h : a + 1 ≤ x ∧ x < a + 1 + t.length
        · rw [if_pos h, if_pos (by simp only [List.length_cons]; omega), show x - a = x - (a + 1) + 1 by omega,
            List.getD_cons_succ]
        · rw [if_neg h, if_neg (by simp only [List.length_cons]; omega)]
      rw [e]
      split
      · exact ih (a + 1)
      · rw [read_cons, if_neg (Ne.symm hx)]; exact ih (a + 1)

/-- Bytes laid over a memory are read there, and every other place reads as before. -/
theorem Memory.wrote_overwrite (m : Memory) (a : Nat) (l : List Byte) : m.Wrote (m.overwrite a l) a l := by
  intro x
  unfold overwrite
  have lo := read_filter m (fun i => decide (i < a)) x
  have hi := read_filter m (fun i => decide (a + l.length ≤ i)) x
  have hc := read_cells a l x
  have absent : ∀ (q : Nat → Bool), q x = false → (m.filter (fun c => q c.1)).any (fun c => decide (c.1 = x)) = false := by
    intro q hq
    rw [List.any_eq_false]
    intro c hcm
    have := (List.mem_filter.mp hcm).2
    intro e
    rw [of_decide_eq_true e] at this
    rw [hq] at this
    cases this
  rw [read_append, read_append]
  by_cases h1 : x < a
  · rw [if_neg (by omega : ¬ (a ≤ x ∧ x < a + l.length))]
    rw [if_neg (by omega : ¬ (a ≤ x ∧ x < a + l.length))] at hc
    split
    · rw [lo]; simp [h1]
    · next h =>
      have : m.read x = unwrittenByte := by
        have := read_absent (Bool.not_eq_true _ ▸ h)
        rw [lo] at this
        simpa [h1] using this
      rw [this]
      split
      · exact hc
      · rw [hi]; simp [show ¬ a + l.length ≤ x by omega]
  · rw [if_neg (by rw [absent (fun i => decide (i < a)) (by simpa using h1)]; exact Bool.false_ne_true)]
    by_cases h2 : x < a + l.length
    · have hin : a ≤ x ∧ x < a + l.length := ⟨by omega, h2⟩
      rw [if_pos hin] at hc ⊢
      split
      · exact hc
      · next h =>
        rw [hi]
        have := read_absent (Bool.not_eq_true _ ▸ h)
        rw [hc] at this
        simp only [show ¬ a + l.length ≤ x by omega, decide_false]
        exact this.symm
    · rw [if_neg (by omega : ¬ (a ≤ x ∧ x < a + l.length))]
      rw [if_neg (by omega : ¬ (a ≤ x ∧ x < a + l.length))] at hc
      split
      · next h =>
        exfalso
        have : ∀ (b : Nat) (k : List Byte), b + k.length ≤ x → (cells b k).any (fun c => decide (c.1 = x)) = false := by
          intro b k
          induction k generalizing b with
          | nil => intro _; rfl
          | cons d t ih =>
            intro hb
            simp only [List.length_cons] at hb
            unfold cells
            split
            · exact ih (b + 1) (by omega)
            · rw [List.any_cons, ih (b + 1) (by omega)]; simp; omega
        rw [this a l (by omega)] at h
        cases h
      · rw [hi]; simp [show a + l.length ≤ x by omega]

/-! ## The canonical form -/

theorem Memory.wfFrom_mono {m : Memory} {lo hi : Nat} (h : wfFrom hi m = true) (l : lo ≤ hi) : wfFrom lo m = true := by
  cases m with
  | nil => rfl
  | cons p t => simp_all [wfFrom]; omega

theorem Memory.wfFrom_insert {m : Memory} {lo a : Nat} {b : Byte} (h : wfFrom lo m = true) (l : lo ≤ a) (hb : b ≠ unwrittenByte) :
    wfFrom lo (m.insert a b) = true := by
  induction m generalizing lo with
  | nil => simp [insert, wfFrom, l, hb]
  | cons p t ih =>
    obtain ⟨j, c⟩ := p
    simp only [wfFrom, Bool.and_eq_true, decide_eq_true_eq, bne_iff_ne] at h
    simp only [insert]
    split
    · next e => subst e; simp [wfFrom, l, hb, h.2]
    · split
      · next e => simp only [wfFrom, Bool.and_eq_true, decide_eq_true_eq, bne_iff_ne]
                  exact ⟨⟨l, hb⟩, ⟨⟨e, h.1.2⟩, h.2⟩⟩
      · next e => simp only [wfFrom, Bool.and_eq_true, decide_eq_true_eq, bne_iff_ne]
                  exact ⟨h.1, ih h.2 (by omega)⟩

theorem Memory.wfFrom_filter {m : Memory} {lo : Nat} (q : Host.Cell → Bool) (h : wfFrom lo m = true) :
    wfFrom lo (m.filter q) = true := by
  induction m generalizing lo with
  | nil => rfl
  | cons p t ih =>
    obtain ⟨j, c⟩ := p
    simp only [wfFrom, Bool.and_eq_true, decide_eq_true_eq, bne_iff_ne] at h
    simp only [List.filter_cons]
    split
    · simp only [wfFrom, Bool.and_eq_true, decide_eq_true_eq, bne_iff_ne]
      exact ⟨h.1, ih h.2⟩
    · exact wfFrom_mono (ih h.2) (by omega)

theorem Memory.wf_filter {m : Memory} (q : Host.Cell → Bool) (h : m.wf = true) : wf (m.filter q) = true := wfFrom_filter q h

/-- A write of one byte keeps the canonical form. -/
theorem Memory.wf_write {m : Memory} (a : Nat) (b : Byte) (h : m.wf = true) : (m.write a b).wf = true := by
  unfold write
  split
  · exact wf_filter _ h
  · next hb => exact wfFrom_insert h (Nat.zero_le a) hb

/-- A write of several bytes keeps the canonical form. -/
theorem Memory.wf_writeBytes {m : Memory} (a : Nat) (l : List Byte) (h : m.wf = true) : (m.writeBytes a l).wf = true := by
  induction l generalizing m a with
  | nil => exact h
  | cons b t ih => exact ih (a + 1) (wf_write a b h)

theorem Memory.wfFrom_append {m k : Memory} {lo mid : Nat} (hm : wfFrom lo m = true) (b : ∀ c ∈ m, c.1 < mid)
    (hk : wfFrom mid k = true) (l : lo ≤ mid) : wfFrom lo (m ++ k) = true := by
  induction m generalizing lo with
  | nil => exact wfFrom_mono hk l
  | cons p t ih =>
    obtain ⟨j, c⟩ := p
    simp only [wfFrom, Bool.and_eq_true, decide_eq_true_eq, bne_iff_ne] at hm
    simp only [List.cons_append, wfFrom, Bool.and_eq_true, decide_eq_true_eq, bne_iff_ne]
    exact ⟨hm.1, ih hm.2 (fun x hx => b x (List.mem_cons_of_mem _ hx)) (b (j, c) (List.mem_cons_self ..))⟩

theorem Memory.wfFrom_cells (a : Nat) (l : List Byte) : wfFrom a (cells a l) = true := by
  induction l generalizing a with
  | nil => rfl
  | cons b t ih =>
    unfold cells
    split
    · exact wfFrom_mono (ih (a + 1)) (by omega)
    · next h => simp [wfFrom, h, ih]

theorem Memory.cells_below (a : Nat) (l : List Byte) : ∀ c ∈ cells a l, c.1 < a + l.length := by
  induction l generalizing a with
  | nil => intro c h; cases h
  | cons b t ih =>
    intro c h
    unfold cells at h
    have := ih (a + 1) c
    simp only [List.length_cons]
    split at h
    · have := this h; omega
    · rcases List.mem_cons.mp h with rfl | h
      · simp
      · have := this h; omega

/-- Cells above an address, of a memory in the canonical form. -/
theorem Memory.wfFrom_above {m : Memory} {lo : Nat} (n : Nat) (h : wfFrom lo m = true) :
    wfFrom n (m.filter (fun c => decide (n ≤ c.1))) = true := by
  induction m generalizing lo with
  | nil => rfl
  | cons p t ih =>
    obtain ⟨j, c⟩ := p
    simp only [wfFrom, Bool.and_eq_true, decide_eq_true_eq, bne_iff_ne] at h
    simp only [List.filter_cons]
    split
    · next hn =>
      simp only [wfFrom, Bool.and_eq_true, decide_eq_true_eq, bne_iff_ne]
      exact ⟨⟨of_decide_eq_true hn, h.1.2⟩, wfFrom_filter _ h.2⟩
    · exact ih h.2

/-- Bytes laid over a memory keep its canonical form. -/
theorem Memory.wf_overwrite {m : Memory} (a : Nat) (l : List Byte) (h : m.wf = true) : (m.overwrite a l).wf = true :=
  wfFrom_append (wfFrom_filter _ h) (fun c hc => of_decide_eq_true (List.mem_filter.mp hc).2)
    (wfFrom_append (wfFrom_cells a l) (cells_below a l) (wfFrom_above _ h) (by omega)) (Nat.zero_le a)

/-- Moving bytes to another place keeps the canonical form. -/
theorem Memory.wf_relocate {m : Memory} (lo n dst : Nat) (h : m.wf = true) : (m.relocate lo n dst).wf = true := by
  unfold relocate
  generalize m.filter (fun c => within lo n c.1) = l
  have := wf_filter (fun c => !within lo n c.1 && !within dst n c.1) h
  generalize m.filter (fun c => !within lo n c.1 && !within dst n c.1) = k at this ⊢
  induction l generalizing k with
  | nil => exact this
  | cons p t ih => exact ih _ (wf_write _ _ this)

theorem Memory.wf_place {m : Memory} (w : Nat) (h : m.wf = true) : (m.place w).wf = true :=
  wf_writeBytes _ _ (wf_writeBytes _ _ (wf_writeBytes _ _ h))

/-- Memory after reset is in the canonical form. -/
theorem Memory.wf_reset : State.reset.mem.wf = true := rfl

theorem Memory.read_below {m : Memory} {lo x : Nat} (h : wfFrom lo m = true) (l : x < lo) : m.read x = unwrittenByte := by
  induction m generalizing lo with
  | nil => rfl
  | cons p t ih =>
    obtain ⟨j, c⟩ := p
    simp only [wfFrom, Bool.and_eq_true, decide_eq_true_eq, bne_iff_ne] at h
    rw [read_cons, if_neg (by omega)]
    exact ih h.2 (by omega)

theorem Memory.eq_of_read_from {m k : Memory} {lo : Nat} (hm : wfFrom lo m = true) (hk : wfFrom lo k = true)
    (h : ∀ x, m.read x = k.read x) : m = k := by
  induction m generalizing lo k with
  | nil =>
    cases k with
    | nil => rfl
    | cons p t =>
      obtain ⟨j, c⟩ := p
      simp only [wfFrom, Bool.and_eq_true, decide_eq_true_eq, bne_iff_ne] at hk
      exact absurd (by simpa [read_cons] using (h j).symm) hk.1.2
  | cons p t ih =>
    obtain ⟨j, c⟩ := p
    cases k with
    | nil =>
      simp only [wfFrom, Bool.and_eq_true, decide_eq_true_eq, bne_iff_ne] at hm
      exact absurd (by simpa [read_cons] using h j) hm.1.2
    | cons q u =>
      obtain ⟨i, d⟩ := q
      simp only [wfFrom, Bool.and_eq_true, decide_eq_true_eq, bne_iff_ne] at hm hk
      have e : j = i := by
        rcases Nat.lt_trichotomy j i with l | l | l
        · have := h j
          rw [read_cons, if_pos rfl, read_cons, if_neg (by omega), read_below hk.2 (by omega)] at this
          exact absurd this hm.1.2
        · exact l
        · have := h i
          rw [read_cons, if_neg (by omega), read_cons, if_pos rfl, read_below hm.2 (by omega)] at this
          exact absurd this.symm hk.1.2
      subst e
      have ec : c = d := by simpa [read_cons] using h j
      subst ec
      congr 1
      refine ih hm.2 hk.2 (fun x => ?_)
      by_cases hx : x < j + 1
      · rw [read_below hm.2 hx, read_below hk.2 hx]
      · simpa [read_cons, show ¬ j = x by omega] using h x

/-- Two memories in the canonical form that read alike at every address are equal. -/
theorem Memory.eq_of_read {m k : Memory} (hm : m.wf = true) (hk : k.wf = true) (h : ∀ x, m.read x = k.read x) : m = k :=
  eq_of_read_from hm hk h

end Sys2Proof.Machine
end

