-- ==== Sys2Proof/Laws/Form.lean ====
section
/-!
SUPPORT. The operations that many meanings share keep memory in its canonical form: stores, the error log, traps and the
ends of launches they bring, the start and the end of a word's issue. A meaning keeps the form when its own part does.
-/
set_option Elab.async false

namespace Sys2Proof.Machine

/-- A fold of steps that keep a property keeps it. -/
theorem foldl_keeps {α β : Type} (P : β → Prop) (f : β → α → β) (l : List α) (hf : ∀ b a, a ∈ l → P b → P (f b a)) :
    ∀ b, P b → P (l.foldl f b) := by
  induction l with
  | nil => exact fun _ h => h
  | cons a t ih =>
    exact fun b h => ih (fun c x hx => hf c x (List.mem_cons_of_mem _ hx)) _ (hf b a (List.mem_cons_self ..) h)

/-- A fold of steps that leave a part of the state leaves it. -/
theorem foldl_same {α β γ : Type} (g : β → γ) (f : β → α → β) (l : List α) (hf : ∀ b a, a ∈ l → g (f b a) = g b) (b : β) :
    g (l.foldl f b) = g b :=
  foldl_keeps (fun x => g x = g b) f l (fun c a ha h => (hf c a ha).trans h) b rfl

/-! ## Latches and the error log -/

@[simp] theorem setLatch_mem (s : State) (p : Nat) : (s.setLatch p).mem = s.mem := by
  unfold State.setLatch; split <;> rfl

@[simp] theorem setLatches_mem (s : State) : s.setLatches.mem = s.mem :=
  foldl_same State.mem _ _ (fun b p _ => setLatch_mem b p) s

theorem form_logError {s : State} (cause : BitVec 10) (core part detail addr : Nat) (h : s.MemCanonical) :
    (s.logError cause core part detail addr).MemCanonical := by
  unfold State.MemCanonical State.logError
  rw [setLatches_mem]
  exact Memory.wf_writeBytes _ _ h

/-! ## The end of a launch, and traps -/

@[simp] theorem clearQueues_mem (s : State) (l : Nat) : (s.clearQueues l).mem = s.mem := rfl

@[simp] theorem stopThreads_mem (s : State) (l : Nat) : (s.stopThreads l).mem = s.mem := rfl

@[simp] theorem endLaunch_mem (s : State) (l : Nat) (e : Ending) : (s.endLaunch l e).mem = s.mem := by
  unfold State.endLaunch
  split
  · rfl
  · split
    · rfl
    · dsimp only; split <;> rfl

@[simp] theorem abortGang_mem (s : State) (l device : Nat) : (s.abortGang l device).mem = s.mem := by
  unfold State.abortGang
  split
  · split
    · dsimp only
      exact foldl_same State.mem (fun (s : State) m => s.endLaunch m _) _ (fun b m _ => endLaunch_mem b m _) _
    · rfl
  · rfl

@[simp] theorem failLaunch_mem (s : State) (l : Nat) (e : Ending) : (s.failLaunch l e).mem = s.mem := by
  unfold State.failLaunch
  split
  · split
    · rfl
    · simp
  · rfl

@[simp] theorem noteEnded_mem (s : State) (c : Ctx) (t : Trap) (pc : DWord) : (s.noteEnded c t pc).mem = s.mem := by
  simp [State.noteEnded]

theorem form_haltSteward {s : State} (c : Ctx) (pc : DWord) (t : Trap) (h : s.MemCanonical) :
    (s.haltSteward c pc t).MemCanonical := form_logError _ _ _ _ _ h

theorem form_trapWaiter {s : State} (id : Nat) (t : Trap) (h : s.MemCanonical) : (s.trapWaiter id t).MemCanonical := by
  unfold State.trapWaiter
  dsimp only
  split
  · exact h
  · split
    · exact form_haltSteward _ _ _ h
    · unfold State.MemCanonical; rw [noteEnded_mem]; exact h

theorem form_failProp {s : State} (w : Nat) (t : Trap) (h : s.MemCanonical) : (s.failProp w t).MemCanonical := by
  unfold State.failProp
  split
  · exact h
  · exact foldl_keeps State.MemCanonical (fun (s : State) id => s.trapWaiter id { t with addr := (s.ctx id).pc }) _
      (fun b id _ => form_trapWaiter id _) s h

theorem form_abortProp {s : State} (k : Nat) (cause : BitVec 10) (h : s.MemCanonical) :
    (s.abortProp k cause).MemCanonical := by
  unfold State.abortProp
  dsimp only
  split
  · exact h
  · exact foldl_keeps State.MemCanonical (fun (s : State) (p : PropRun) => s.failProp p.who ⟨0x38F, 0, 0⟩) _
      (fun b p _ => form_failProp p.who _) _ (form_failProp _ _ h)

theorem form_endInTrap {s : State} (l : Nat) (e : Ending) (h : s.MemCanonical) : (s.endInTrap l e).MemCanonical := by
  unfold State.endInTrap
  split
  · unfold State.MemCanonical; rw [failLaunch_mem]; exact h
  · split
    · exact h
    · apply form_abortProp; unfold State.MemCanonical; rw [endLaunch_mem]; exact h

theorem form_settleDeadlock {s : State} (id : Nat) (h : s.MemCanonical) : (s.settleDeadlock id).MemCanonical := by
  unfold State.settleDeadlock
  dsimp only
  repeat' split
  all_goals first
    | exact h
    | exact form_endInTrap _ _ h

theorem form_endThread {s : State} (id : Nat) (e : Ending) (h : s.MemCanonical) : (s.endThread id e).MemCanonical := by
  unfold State.endThread
  dsimp only
  split
  · exact form_settleDeadlock _ h
  · exact form_endInTrap _ _ h

/-- A trap keeps the form: of memory it writes the error log alone. -/
theorem form_trapThread {s : State} (id : Nat) (pc tpc : DWord) (t : Trap) (h : s.MemCanonical) :
    (s.trapThread id pc tpc t).MemCanonical := by
  unfold State.trapThread
  dsimp only
  split
  · exact h
  · split
    · exact form_haltSteward _ _ _ h
    · exact form_endThread _ _ h

theorem form_trapAt {s : State} (id : Nat) (pc : DWord) (t : Trap) (h : s.MemCanonical) :
    (s.trapAt id pc t).MemCanonical := form_trapThread id pc pc t h

/-! ## Physical writes -/

@[simp] theorem wakeSlots_mem (s : State) : s.wakeSlots.mem = s.mem := rfl

@[simp] theorem bootCmd_mem (s : State) (agent off : Nat) (l : List Byte) : (s.bootCmd agent off l).mem = s.mem := by
  unfold State.bootCmd; split <;> rfl

@[simp] theorem markStore_mem (s : State) (pa : Nat) : (s.markStore pa).mem = s.mem := by
  unfold State.markStore; split <;> rfl

theorem form_pokeMem {s : State} (pa : Nat) (l : List Byte) (h : s.MemCanonical) : (s.pokeMem pa l).MemCanonical :=
  Memory.wf_writeBytes _ _ h

theorem form_logDevice {s : State} (part pa n : Nat) (w : Bool) (h : s.MemCanonical) :
    (s.logDevice part pa n w).MemCanonical := by
  unfold State.logDevice
  split
  · exact form_logError _ _ _ _ _ h
  · exact h

theorem form_deviceStore {s : State} (part pa : Nat) (l : List Byte) (h : s.MemCanonical) :
    (s.deviceStore part pa l).MemCanonical := by
  unfold State.deviceStore
  split
  · exact form_logDevice _ _ _ _ h
  · exact form_pokeMem _ _ h

theorem form_unmapSlot {s : State} (slot : Nat) (h : s.MemCanonical) : (s.unmapSlot slot).MemCanonical := by
  unfold State.unmapSlot
  dsimp only
  split
  · exact h
  · split
    · exact h
    · exact form_deviceStore _ _ _ (form_deviceStore _ _ _ h)

theorem form_mapSlot {s : State} (slot : Nat) (h : s.MemCanonical) : (s.mapSlot slot).MemCanonical := by
  unfold State.mapSlot
  dsimp only
  repeat' split
  all_goals first
    | exact h
    | exact form_logError _ _ _ _ _ h

theorem form_writeMgmtByte {s : State} (agent off : Nat) (b : Byte) (h : s.MemCanonical) :
    (s.writeMgmtByte agent off b).MemCanonical := by
  unfold State.writeMgmtByte State.writeNonceByte State.writeSlotByte State.appendLogByte
  dsimp only
  repeat' split
  all_goals first
    | exact h
    | exact Memory.wf_write _ _ h
    | exact form_unmapSlot _ h
    | exact form_mapSlot _ h

theorem writeControlByte_mem (s : State) (core off : Nat) (b : Byte) : (s.writeControlByte core off b).mem = s.mem := by
  unfold State.writeControlByte; dsimp only; repeat' split
  all_goals rfl

theorem form_writePhysByte {s : State} (agent pa : Nat) (b : Byte) (h : s.MemCanonical) :
    (s.writePhysByte agent pa b).MemCanonical := by
  unfold State.writePhysByte
  split
  · split <;> exact h
  · unfold State.MemCanonical; rw [writeControlByte_mem]; exact h
  · exact form_writeMgmtByte _ _ _ h
  · unfold State.MemCanonical; rw [markStore_mem]; exact h
  · exact Memory.wf_write _ _ h

theorem form_writePhysBytes {s : State} (agent pa : Nat) (l : List Byte) (h : s.MemCanonical) :
    (s.writePhysBytes agent pa l).MemCanonical := by
  induction l generalizing s pa with
  | nil => exact h
  | cons b t ih => exact ih (pa + 1) (form_writePhysByte agent pa b h)

theorem form_kickQueue {s : State} (part agent q : Nat) (h : s.MemCanonical) : (s.kickQueue part agent q).MemCanonical := by
  unfold State.kickQueue
  dsimp only
  split
  · exact h
  · split
    · exact form_logError _ _ _ _ _ h
    · split
      · unfold State.MemCanonical; rw [setLatches_mem]; exact h
      · exact form_logError _ _ _ _ _ (form_logDevice _ _ _ _ h)

/-- A write at a physical address keeps the form, whatever lies there. -/
theorem form_writePhys {s : State} (agent pa : Nat) (l : List Byte) (h : s.MemCanonical) :
    (s.writePhys agent pa l).MemCanonical := by
  unfold State.writePhys
  split
  · split
    · exact form_kickQueue _ _ _ (form_writePhysBytes _ _ _ h)
    · exact form_writePhysBytes _ _ _ h
  · unfold State.MemCanonical; rw [bootCmd_mem]; exact form_writePhysBytes _ _ _ h
  · exact form_writePhysBytes _ _ _ h

theorem form_undefine {s : State} (pa n : Nat) (h : s.MemCanonical) : (s.undefine pa n).MemCanonical :=
  Memory.wf_overwrite _ _ h

theorem form_spoilWord (old : State) {s : State} (w : Nat) (h : s.MemCanonical) : (old.spoilWord s w).MemCanonical := by
  unfold State.spoilWord
  dsimp only
  repeat' split
  all_goals first
    | exact h
    | exact form_undefine _ _ h

theorem form_spoil (old : State) {s : State} (pa n : Nat) (h : s.MemCanonical) : (old.spoil s pa n).MemCanonical :=
  foldl_keeps State.MemCanonical _ _ (fun _ w _ hu => form_spoilWord old w hu) s h

/-- Bytes stored at an address keep the form, whatever lies there. -/
theorem form_put {s : State} (agent pa : Nat) (l : List Byte) (h : s.MemCanonical) : (s.put agent pa l).MemCanonical :=
  form_spoil s _ _ (form_writePhys _ _ _ h)

theorem form_blur {s : State} (c : Ctx) (pa n : Nat) (h : s.MemCanonical) : (s.blur c pa n).MemCanonical := by
  unfold State.blur
  split
  · split
    · exact form_undefine _ _ h
    · exact h
  · exact h

@[simp] theorem compareWrite_mem (s : State) (r : Option (Nat × Nat)) (pa : Nat) (l : List Byte) :
    (s.compareWrite r pa l).mem = s.mem := by
  unfold State.compareWrite
  split
  · rfl
  · dsimp only; split <;> rfl

theorem form_performStore {s : State} (c : Ctx) (mod : Bool) (pa : Nat) (l : List Byte) (h : s.MemCanonical) :
    (s.performStore c mod pa l).MemCanonical := by
  unfold State.performStore State.putFor
  refine form_blur _ _ _ (form_put _ _ _ ?_)
  split
  · unfold State.MemCanonical; rw [compareWrite_mem]; exact h
  · exact h

theorem form_performReduce {s : State} (c : Ctx) (pa op : Nat) (v : Word) (h : s.MemCanonical) :
    (s.performReduce c pa op v).MemCanonical := form_blur _ _ _ (form_put _ _ _ h)

/-- A store or a reduction that reaches its destination keeps the form. -/
theorem form_performOp {s : State} (o : Op) (h : s.MemCanonical) : (s.performOp o).MemCanonical := by
  unfold State.performOp
  split
  · exact form_performStore _ _ _ _ h
  · exact form_performReduce _ _ _ _ h
  · exact h

theorem form_fillWord {s : State} (id pa : Nat) (w : Word) (h : s.MemCanonical) : (s.fillWord id pa w).MemCanonical := by
  unfold State.fillWord State.setTag
  exact form_blur _ _ _ (Memory.wf_writeBytes pa (toBytes 4 w.toNat) h)

theorem form_writeLock {s : State} (pa v : Nat) (h : s.MemCanonical) : (s.writeLock pa v).MemCanonical := by
  unfold State.writeLock State.MemCanonical; rw [wakeSlots_mem, markStore_mem]; exact Memory.wf_writeBytes _ _ h

theorem form_setBarrier {s : State} (pa : Nat) (b : Barrier) (h : s.MemCanonical) : (s.setBarrier pa b).MemCanonical := by
  unfold State.setBarrier State.MemCanonical
  rw [wakeSlots_mem, markStore_mem]
  exact foldl_keeps (fun m : Memory => m.wf = true) _ _ (fun _ _ _ hm => Memory.wf_writeBytes _ _ hm) s.mem h

theorem form_setRing {s : State} (l pa : Nat) (r : Ring) (h : s.MemCanonical) : (s.setRing l pa r).MemCanonical := by
  unfold State.setRing State.MemCanonical; rw [wakeSlots_mem, markStore_mem]; exact Memory.wf_writeBytes _ _ h

/-! ## Stores of the engines and of the device -/

theorem form_storeNow {s : State} (c : Ctx) (pa : Nat) (mod : Bool) (l : List Byte) (h : s.MemCanonical) :
    (s.storeNow c pa mod l).MemCanonical := by
  unfold State.storeNow
  split
  · exact h
  · exact form_performStore _ _ _ _ h

theorem form_storeElems {s : State} (c : Ctx) (z : Nat) (pas : List (Nat × Bool)) (l : List Byte) (h : s.MemCanonical) :
    (s.storeElems c z pas l).MemCanonical := by
  induction pas generalizing s l with
  | nil => exact h
  | cons p t ih => exact ih _ (form_storeNow _ _ _ _ h)

theorem form_setBlockFlag {s : State} (core : Nat) (r : Record) (blk : Nat) (h : s.MemCanonical) :
    (s.setBlockFlag core r blk).MemCanonical := Memory.wf_write _ _ h

theorem form_fillWeights {s : State} (core : Nat) (b : Block) (t : Tile) (rows : List (List Byte)) (h : s.MemCanonical) :
    (s.fillWeights core b t rows).MemCanonical := by
  unfold State.fillWeights
  have rowsKeep : ∀ u : State, u.MemCanonical → ((rows.zip (List.range rows.length)).foldl (fun (s : State) p =>
      { s with mem := s.mem.writeBytes (tileAddr b core t p.2 0) p.1 }) u).MemCanonical :=
    foldl_keeps State.MemCanonical _ _ (fun u p _ hu => Memory.wf_writeBytes _ _ hu)
  dsimp only
  split
  · exact Memory.wf_writeBytes _ _ h
  · split
    · exact foldl_keeps State.MemCanonical _ _ (fun u k _ hu => form_setBlockFlag _ _ _ hu) _ (rowsKeep s h)
    · exact rowsKeep s h

theorem form_putElem {s : State} (b : Block) (core : Nat) (t : Tile) (i j x : Nat) (h : s.MemCanonical) :
    (s.putElem b core t i j x).MemCanonical := Memory.wf_writeBytes _ _ h

theorem form_pageStore {s : State} (part va : Nat) (l : List Byte) (h : s.MemCanonical) :
    (s.pageStore part va l).MemCanonical := by
  unfold State.pageStore
  split
  · split
    · exact form_logError _ _ _ _ _ h
    · exact form_put _ _ _ h
  · exact form_logError _ _ _ _ _ h

theorem form_virtStore {s : State} (part va : Nat) (l : List Byte) (h : s.MemCanonical) :
    (s.virtStore part va l).MemCanonical := by
  unfold State.virtStore
  dsimp only
  split
  · exact form_pageStore _ _ _ h
  · exact form_pageStore _ _ _ (form_pageStore _ _ _ h)

theorem form_writeRecord {s : State} (l : Nat) (q : Launch) (e : Ending) (h : s.MemCanonical) :
    (s.writeRecord l q e).MemCanonical := form_virtStore _ _ _ (form_virtStore _ _ _ h)

/-! ## The issue of a word -/

/-- The start of a word keeps the form in each of its outcomes. -/
theorem form_start {s : State} (is : Issue) (w : WordInfo) (busy : Op → Bool) (h : s.MemCanonical) :
    (∀ t, s.start is w busy = .done t → t.MemCanonical) ∧ ∀ t ids, s.start is w busy = .go t ids → t.MemCanonical := by
  unfold State.start
  split
  · refine ⟨fun t ht => ?_, nofun⟩
    cases ht
    exact foldl_keeps State.MemCanonical (fun (s : State) id => s.trapAt id is.pc _) _ (fun b id _ => form_trapAt id _ _) s h
  · split
    · exact ⟨fun t ht => by cases ht; exact h, nofun⟩
    · dsimp only
      split
      · split
        · exact ⟨fun t ht => by cases ht; exact h, nofun⟩
        · exact ⟨fun t ht => by cases ht; exact h, nofun⟩
      · refine ⟨nofun, fun t ids ht => ?_⟩
        cases ht
        refine foldl_keeps State.MemCanonical _ _ (fun b id _ hb => ?_) _
          (foldl_keeps State.MemCanonical _ _ (fun b id _ hb => ?_) s h)
        · split
          · exact form_trapAt _ _ _ hb
          · exact hb
        · split <;> exact hb

theorem form_threadWord {s : State} (w : WordInfo) (busy : Op → Bool) (f : State → Issue → Ctx → Ctx)
    (h : s.MemCanonical) : (threadWord s w busy f).MemCanonical := by
  unfold threadWord
  split
  · exact h
  · next is _ =>
    have := form_start is w busy h
    split
    · next e => exact this.1 _ e
    · next t _ e => exact show t.MemCanonical from this.2 _ _ e

theorem form_branchWord {s : State} (w : WordInfo) (busy : Op → Bool) (f : State → Issue → Ctx → TOut)
    (h : s.MemCanonical) : (branchWord s w busy f).MemCanonical := by
  unfold branchWord
  split
  · exact h
  · next is _ =>
    have := form_start is w busy h
    split
    · next e => exact this.1 _ e
    · next e =>
      refine foldl_keeps (fun p : State × List Nat => p.1.MemCanonical) _ _ (fun p id _ hp => ?_) _ (this.2 _ _ e)
      dsimp only
      split
      · exact hp
      · exact hp
      · exact form_trapAt _ _ _ hp

/-- A word that acts thread by thread keeps the form where its part for one thread does. -/
theorem form_foldWord {s : State} (w : WordInfo) (busy : Op → Bool) (g : State → Issue → Nat → State × Bool)
    (hg : ∀ u is id, u.MemCanonical → (g u is id).1.MemCanonical) (h : s.MemCanonical) :
    (foldWord s w busy g).MemCanonical := by
  unfold foldWord
  split
  · exact h
  · next is _ =>
    have := form_start is w busy h
    split
    · next e => exact this.1 _ e
    · next e =>
      refine foldl_keeps (fun p : State × List Nat => p.1.MemCanonical) _ _ (fun p id _ hp => ?_) _ (this.2 _ _ e)
      dsimp only
      split
      · exact hg _ _ _ hp
      · exact hg _ _ _ hp

/-- A word that acts once per issue keeps the form where its effect does. -/
theorem form_onceWord {s : State} (w : WordInfo) (busy : Op → Bool) (g : State → Issue → List Nat → Once)
    (hg : ∀ u is ids t cont, u.MemCanonical → g u is ids = .next t cont → t.MemCanonical) (h : s.MemCanonical) :
    (onceWord s w busy g).MemCanonical := by
  unfold onceWord
  split
  · exact h
  · next is _ =>
    have := form_start is w busy h
    split
    · next e => exact this.1 _ e
    · next t e => exact show t.MemCanonical from this.2 _ _ e
    · next e =>
      have hs := this.2 _ _ e
      split
      · next t _ e' => exact show t.MemCanonical from hg _ _ _ _ _ hs e'
      · exact foldl_keeps State.MemCanonical (fun (s : State) id => s.trapAt id is.pc _) _
          (fun b id _ => form_trapAt id _ _) _ hs
      · exact h

theorem form_holdFirst {s : State} (q : State → Issue → Option (Option Instr)) (k : State → State)
    (hk : (k s).MemCanonical) (h : s.MemCanonical) : (s.holdFirst q k).MemCanonical := by
  unfold State.holdFirst
  split
  · exact h
  · split
    · exact h
    · exact hk

/-- A word placed for the next step leaves memory in its form. -/
theorem form_withFetchWord {s : State} (nbits w : Nat) (h : s.MemCanonical) :
    (s.withFetchWord nbits w).MemCanonical := by
  have hu : ∀ w, (s.placeUser w).MemCanonical := fun w => Memory.wf_place w h
  have hs : ∀ w, (s.placeSteward w).MemCanonical := fun w => Memory.wf_writeBytes _ (toBytes 4 w) h
  unfold State.withFetchWord State.placeWord
  split
  · exact hu _
  · exact hs _

end Sys2Proof.Machine
end

