-- ==== Sys2Proof/Laws/Results.lean ====
section
/-!
SUPPORT. What a thread's registers read as after a result is written: one of fixed latency, which an earlier word does not
see, and one that has landed.
-/
set_option Elab.async false

namespace Sys2Proof.Machine

/-! ## Reads of results that may not have landed -/

theorem lookEarly_nil (t : Target) (m : Nat) (cur : Word) : lookEarly [] t m cur = cur := rfl

theorem lookEarly_cons (e : Early) (l : List Early) (t : Target) (m : Nat) (cur : Word) :
    lookEarly (e :: l) t m cur = if e.tgt = t ∧ m < e.ready then e.old else lookEarly l t m cur := by
  unfold lookEarly
  by_cases h : e.tgt = t ∧ m < e.ready
  · rw [List.find?_cons_of_pos (by simp [h]), if_pos h]
  · rw [List.find?_cons_of_neg (by simpa using h), if_neg h]

/-- Dropping what a target had in flight does not touch the reads of another target. -/
theorem lookEarly_filter_other {l : List Early} {t u : Target} (m : Nat) (cur : Word) (h : t ≠ u) :
    lookEarly (l.filter (fun e => e.tgt != u)) t m cur = lookEarly l t m cur := by
  induction l with
  | nil => rfl
  | cons e l ih =>
    simp only [List.filter_cons]
    split
    · rw [lookEarly_cons, lookEarly_cons, ih]
    · next hu =>
      rw [ih, lookEarly_cons, if_neg]
      rintro ⟨he, -⟩
      simp only [bne_iff_ne, ne_eq, Decidable.not_not] at hu
      exact h (he.symm.trans hu)

theorem lookEarly_filter_same (l : List Early) (t : Target) (m : Nat) (cur : Word) :
    lookEarly (l.filter (fun e => e.tgt != t)) t m cur = cur := by
  induction l with
  | nil => rfl
  | cons e l ih =>
    simp only [List.filter_cons]
    split
    · next hu => rw [lookEarly_cons, if_neg (fun h => by simp [h.1] at hu), ih]
    · exact ih

/-- A result put over what its target had in flight: read from cycle ready on, with the old contents before. -/
theorem lookEarly_put (l : List Early) (t u : Target) (old cur w : Word) (born ready m : Nat) :
    lookEarly (⟨u, old, born, ready⟩ :: l.filter (fun e => e.tgt != u)) t m (if t = u then w else cur) =
      if t = u then (if m < ready then old else w) else lookEarly l t m cur := by
  rw [lookEarly_cons]
  by_cases h : t = u
  · subst h; by_cases hm : m < ready <;> simp [hm, lookEarly_filter_same]
  · have : ¬ (u = t ∧ m < ready) := fun e => h e.1.symm
    simp [this, h, lookEarly_filter_other m cur h]

/-! ## V registers and index registers after a write -/

theorem Ctx.readV_putV (c : Ctx) (now lat k : Nat) (w : Word) (m j : Nat) :
    (c.putV now lat k w).readV m j = if j = k then (if m < now + lat then c.readV now k else w) else c.readV m j := by
  have h := lookEarly_put c.early (.v j) (.v k) (c.readV now k) (c.v.getD j 0) w now (now + lat) m
  by_cases e : j = k
  · subst e; simpa [Ctx.readV, Ctx.putV, Store.getD_eq] using h
  · simpa [Ctx.readV, Ctx.putV, Store.getD_eq, Store.get?_set, e] using h

theorem Ctx.readX_putX (c : Ctx) (now n : Nat) (w : Word) (m j : Nat) :
    (c.putX now n w).readX m j = if j = n then (if m < now + 2 then c.readX now n else w) else c.readX m j := by
  have h := lookEarly_put c.early (.x j) (.x n) (c.readX now n) (c.x.getD j 0) w now (now + 2) m
  by_cases e : j = n
  · subst e; simpa [Ctx.readX, Ctx.putX, Store.getD_eq] using h
  · simpa [Ctx.readX, Ctx.putX, Store.getD_eq, Store.get?_set, e] using h

/-- A result that lands at once. -/
theorem Ctx.readV_setV (c : Ctx) (k : Nat) (w : Word) (m j : Nat) :
    (c.setV k w).readV m j = if j = k then w else c.readV m j := by
  by_cases e : j = k
  · subst e; simp [Ctx.readV, Ctx.setV, lookEarly_filter_same, Store.getD_eq]
  · have : Target.v j ≠ Target.v k := fun h => e (Target.v.inj h)
    simp [Ctx.readV, Ctx.setV, lookEarly_filter_other _ _ this, Store.getD_eq, Store.get?_set, e]

theorem Ctx.readX_putV (c : Ctx) (now lat k : Nat) (w : Word) (m j : Nat) : (c.putV now lat k w).readX m j = c.readX m j := by
  have h : ¬ (Target.v k = Target.x j ∧ m < now + lat) := fun e => nomatch e.1
  have h' : Target.x j ≠ Target.v k := nofun
  simp [Ctx.readX, Ctx.putV, lookEarly_cons, lookEarly_filter_other _ _ h']

theorem Ctx.readV_putX (c : Ctx) (now n : Nat) (w : Word) (m j : Nat) : (c.putX now n w).readV m j = c.readV m j := by
  have h' : Target.v j ≠ Target.x n := nofun
  simp [Ctx.readV, Ctx.putX, lookEarly_cons, lookEarly_filter_other _ _ h']

theorem Ctx.special_putV (c : Ctx) (now lat k : Nat) (w : Word) (m n : Nat) (old : Word) :
    lookEarly (c.putV now lat k w).early (.sp n) m old = lookEarly c.early (.sp n) m old := by
  have h' : Target.sp n ≠ Target.v k := nofun
  simp [Ctx.putV, lookEarly_cons, lookEarly_filter_other _ _ h']

theorem Ctx.special_putX (c : Ctx) (now j : Nat) (w : Word) (m n : Nat) (old : Word) :
    lookEarly (c.putX now j w).early (.sp n) m old = lookEarly c.early (.sp n) m old := by
  have h' : Target.sp n ≠ Target.x j := nofun
  simp [Ctx.putX, lookEarly_cons, lookEarly_filter_other _ _ h']

/-- The flags a word raises are seen from the cycle its result is (R113). -/
theorem Ctx.readFstat_raise (c : Ctx) (now lat : Nat) (f : BitVec 6) (m : Nat) :
    (c.raise now lat f).readFstat m = if m < now + lat then c.readFstat m else c.readFstat m ||| f.setWidth 32 := by
  have swap : ∀ (l : List Pend) (a b : Word), l.foldl (fun a p => a ||| p.flags.setWidth 32) (a ||| b) =
      l.foldl (fun a p => a ||| p.flags.setWidth 32) a ||| b := by
    intro l
    induction l with
    | nil => intro a b; rfl
    | cons p t ih =>
      intro a b
      simp only [List.foldl_cons]
      rw [← ih]
      congr 1
      rw [BitVec.or_assoc, BitVec.or_assoc, BitVec.or_comm b]
  simp only [Ctx.readFstat, Ctx.raise, List.filter_cons, decide_eq_true_eq]
  by_cases h : now + lat ≤ m
  · rw [if_pos h, if_neg (by omega), List.foldl_cons, swap]
  · rw [if_neg h, if_pos (by omega)]

theorem Ctx.readFstat_putV (c : Ctx) (now lat k : Nat) (w : Word) (m : Nat) :
    (c.putV now lat k w).readFstat m = c.readFstat m := by
  simp only [Ctx.readFstat, Ctx.special_putV]; rfl

/-! ## The results of fixed-latency words -/

theorem numbered_one (r : Nat) (w : Word) : numbered r [w] = [(r, w)] := rfl

theorem numbered_two (r : Nat) (w u : Word) : numbered r [w, u] = [(r, w), (r + 1, u)] := rfl

/-- A word of one result. -/
theorem Ctx.writes_wr (c : Ctx) (now lat : Nat) (d : RegField) (w : Word) :
    c.Writes (c.wr now lat d 0 w).advance now lat (numbered (c.resolve now d) [w]) [] 0 where
  registers m k := by
    rw [numbered_one]
    show (c.putV now lat (c.resolve now d + 0) w).readV m k = _
    rw [Ctx.readV_putV, Store.get?_cons]
    by_cases e : k = c.resolve now d
    · subst e; simp
    · simp [e, Ne.symm e]
  index m n := Ctx.readX_putV c now lat _ w m n
  special m n old := Ctx.special_putV c now lat _ w m n old
  status m := by
    show (c.putV now lat (c.resolve now d + 0) w).readFstat m = _
    rw [Ctx.readFstat_putV]; simp
  rest := rfl

/-- A word of one result that raises flags with it. -/
theorem Ctx.writes_wr_raise (c : Ctx) (now lat : Nat) (d : RegField) (w : Word) (f : BitVec 6) :
    c.Writes ((c.wr now lat d 0 w).raise now lat f).advance now lat (numbered (c.resolve now d) [w]) [] f where
  registers := (c.writes_wr now lat d w).registers
  index := (c.writes_wr now lat d w).index
  special := (c.writes_wr now lat d w).special
  status m := by
    show ((c.putV now lat (c.resolve now d + 0) w).raise now lat f).readFstat m = _
    rw [Ctx.readFstat_raise, Ctx.readFstat_putV]
  rest := rfl

/-- A word of a pair result. -/
theorem Ctx.writes_wrPair (c : Ctx) (now lat : Nat) (d : RegField) (w : DWord) :
    c.Writes (c.wrPair now lat d w).advance now lat
      (numbered (c.resolve now d) [w.setWidth 32, (w >>> 32).setWidth 32]) [] 0 where
  registers m k := by
    rw [numbered_two]
    show ((c.putV now lat (c.resolve now d) (w.setWidth 32)).putV now lat (c.resolve now d + 1)
      ((w >>> 32).setWidth 32)).readV m k = _
    rw [Ctx.readV_putV, Store.get?_cons, Store.get?_cons]
    by_cases e : k = c.resolve now d
    · subst e; simp [Ctx.readV_putV]
    · by_cases e' : k = c.resolve now d + 1
      · subst e'; simp [Ctx.readV_putV]
      · simp [e, e', Ne.symm e, Ne.symm e', Ctx.readV_putV]
  index m n := (Ctx.readX_putV (c.putV now lat _ (w.setWidth 32)) now lat _ ((w >>> 32).setWidth 32) m n).trans
    (Ctx.readX_putV c now lat _ (w.setWidth 32) m n)
  special m n old :=
    (Ctx.special_putV (c.putV now lat _ (w.setWidth 32)) now lat _ ((w >>> 32).setWidth 32) m n old).trans
      (Ctx.special_putV c now lat _ (w.setWidth 32) m n old)
  status m := by
    show ((c.putV now lat (c.resolve now d) (w.setWidth 32)).putV now lat (c.resolve now d + 1)
      ((w >>> 32).setWidth 32)).readFstat m = _
    rw [Ctx.readFstat_putV, Ctx.readFstat_putV]; simp
  rest := rfl

/-- A word of a pair result that raises flags with it. -/
theorem Ctx.writes_wrPair_raise (c : Ctx) (now lat : Nat) (d : RegField) (w : DWord) (f : BitVec 6) :
    c.Writes ((c.wrPair now lat d w).raise now lat f).advance now lat
      (numbered (c.resolve now d) [w.setWidth 32, (w >>> 32).setWidth 32]) [] f where
  registers := (c.writes_wrPair now lat d w).registers
  index := (c.writes_wrPair now lat d w).index
  special := (c.writes_wrPair now lat d w).special
  status m := by
    show (((c.putV now lat (c.resolve now d) (w.setWidth 32)).putV now lat (c.resolve now d + 1)
      ((w >>> 32).setWidth 32)).raise now lat f).readFstat m = _
    rw [Ctx.readFstat_raise, Ctx.readFstat_putV, Ctx.readFstat_putV]
  rest := rfl

/-- A word that writes an index register. -/
theorem Ctx.writes_putX (c : Ctx) (now n : Nat) (w : Word) :
    c.Writes (c.putX now n w).advance now 2 [] [(n, w)] 0 where
  registers m k := Ctx.readV_putX c now n w m k
  index m j := by
    show (c.putX now n w).readX m j = _
    rw [Ctx.readX_putX, Store.get?_cons]
    by_cases e : j = n
    · subst e; simp
    · simp [e, Ne.symm e]
  special m j old := Ctx.special_putX c now n w m j old
  status m := by
    show (c.putX now n w).readFstat m = _
    simp only [Ctx.readFstat, Ctx.special_putX]
    simp [Ctx.putX]
  rest := rfl

/-! ## The shared meanings of fixed-latency words -/

/-- A word that writes one register: it completes, every thread of its cohort takes its result, and nothing else
changes. -/
theorem write1_spec {s : State} {is : Issue} {i : Instr} (d : RegField) (f : Nat → Ctx → Word)
    (h : s.Ready is (wordInfo i) noneBusy) :
    ∃ t, write1 s i d f = .next t ∧
      (∀ id ∈ is.cohort, (s.ctx id).Writes (t.ctx id) (s.now is.core) (wordInfo i).lat
        (numbered ((s.ctx id).resolve (s.now is.core) d) [f (s.now is.core) (s.ctx id)]) [] 0) ∧
      t = { s with ctxs := t.ctxs, cores := t.cores, groups := t.groups, issue := none } ∧ s.Elsewhere t is := by
  obtain ⟨hc, hf, he⟩ := threadWord_spec (fun s is c => c.wr (s.now is.core) (wordInfo i).lat d 0 (f (s.now is.core) c)) h
  exact ⟨_, rfl, fun id hid => hc id hid ▸ Ctx.writes_wr .., hf, he⟩

/-- A word that writes a pair. -/
theorem write2_spec {s : State} {is : Issue} {i : Instr} (d : RegField) (f : Nat → Ctx → DWord)
    (h : s.Ready is (wordInfo i) noneBusy) :
    ∃ t, write2 s i d f = .next t ∧
      (∀ id ∈ is.cohort, (s.ctx id).Writes (t.ctx id) (s.now is.core) (wordInfo i).lat
        (numbered ((s.ctx id).resolve (s.now is.core) d) [(f (s.now is.core) (s.ctx id)).setWidth 32,
          (f (s.now is.core) (s.ctx id) >>> 32).setWidth 32]) [] 0) ∧
      t = { s with ctxs := t.ctxs, cores := t.cores, groups := t.groups, issue := none } ∧ s.Elsewhere t is := by
  obtain ⟨hc, hf, he⟩ := threadWord_spec (fun s is c => c.wrPair (s.now is.core) (wordInfo i).lat d (f (s.now is.core) c)) h
  exact ⟨_, rfl, fun id hid => hc id hid ▸ Ctx.writes_wrPair .., hf, he⟩

/-- A word of class F that writes one register and raises flags with it. -/
theorem float1_spec {s : State} {is : Issue} {i : Instr} (d : RegField) (f : FMode → Nat → Ctx → FRes)
    (h : s.Ready is (wordInfo i) noneBusy) :
    ∃ t, float1 s i d f = .next t ∧
      (∀ id ∈ is.cohort,
        let r := f ((s.ctx id).mode (s.now is.core)) (s.now is.core) (s.ctx id)
        (s.ctx id).Writes (t.ctx id) (s.now is.core) (wordInfo i).lat
          (numbered ((s.ctx id).resolve (s.now is.core) d) [BitVec.ofNat 32 r.bits]) [] r.flags) ∧
      t = { s with ctxs := t.ctxs, cores := t.cores, groups := t.groups, issue := none } ∧ s.Elsewhere t is := by
  obtain ⟨hc, hf, he⟩ := threadWord_spec (fun s is c =>
    let now := s.now is.core
    let r := f (c.mode now) now c
    (c.wr now (wordInfo i).lat d 0 (BitVec.ofNat 32 r.bits)).raise now (wordInfo i).lat r.flags) h
  exact ⟨_, rfl, fun id hid => hc id hid ▸ Ctx.writes_wr_raise .., hf, he⟩

/-- A word of class F that writes a pair and raises flags with it. -/
theorem float2_spec {s : State} {is : Issue} {i : Instr} (d : RegField) (f : FMode → Nat → Ctx → FRes)
    (h : s.Ready is (wordInfo i) noneBusy) :
    ∃ t, float2 s i d f = .next t ∧
      (∀ id ∈ is.cohort,
        let r := f ((s.ctx id).mode (s.now is.core)) (s.now is.core) (s.ctx id)
        (s.ctx id).Writes (t.ctx id) (s.now is.core) (wordInfo i).lat
          (numbered ((s.ctx id).resolve (s.now is.core) d)
            [(BitVec.ofNat 64 r.bits).setWidth 32, (BitVec.ofNat 64 r.bits >>> 32).setWidth 32]) [] r.flags) ∧
      t = { s with ctxs := t.ctxs, cores := t.cores, groups := t.groups, issue := none } ∧ s.Elsewhere t is := by
  obtain ⟨hc, hf, he⟩ := threadWord_spec (fun s is c =>
    let now := s.now is.core
    let r := f (c.mode now) now c
    (c.wrPair now (wordInfo i).lat d (BitVec.ofNat 64 r.bits)).raise now (wordInfo i).lat r.flags) h
  exact ⟨_, rfl, fun id hid => hc id hid ▸ Ctx.writes_wrPair_raise .., hf, he⟩

end Sys2Proof.Machine
end

