-- ==== Sys2Proof/Tests/Slice0.lean ====
section
/-!
SUPPORT. Tests: one word of every instruction, written out from the opcode table's fields; the words the spec rejects; an
ill-formed term for each check of WellFormed; examples the spec works; and for every statement states and operands that
meet its hypotheses.
-/

open Sys2Proof Sys2Proof.Machine Sys2Proof.Rules

namespace Sys2Proof.Tests

set_option Elab.async false

/-! ## Words -/

/-- Class A (Table 11.3). -/
def wordsA : List (Bool × Nat × Instr) :=
  [(false, 0x0004B909, .add ⟨false, false, 0⟩ 0xB 0x24 0x9),
   (false, 0x4008B909, .sub ⟨false, true, 0⟩ 0xB 0x24 0x9),
   (false, 0x800CB909, .adds ⟨true, false, 0⟩ 0xB 0x24 0x9),
   (false, 0x2810B909, .subs ⟨false, false, 5⟩ 0xB 0x24 0x9),
   (false, 0x7814B909, .mul ⟨false, true, 7⟩ 0xB 0x24 0x9),
   (false, 0x0018B909, .mulhi ⟨false, false, 0⟩ 0xB 0x24 0x9),
   (false, 0x401CB909, .mulhu ⟨false, true, 0⟩ 0xB 0x24 0x9),
   (false, 0x8020B909, .mad ⟨true, false, 0⟩ 0xB 0x24 0x9),
   (false, 0x2824B909, .div ⟨false, false, 5⟩ 0xB 0x24 0x9),
   (false, 0x7828B909, .divu ⟨false, true, 7⟩ 0xB 0x24 0x9),
   (false, 0x002CB909, .rem ⟨false, false, 0⟩ 0xB 0x24 0x9),
   (false, 0x4030B909, .remu ⟨false, true, 0⟩ 0xB 0x24 0x9),
   (false, 0x8034B909, .min ⟨true, false, 0⟩ 0xB 0x24 0x9),
   (false, 0x2838B909, .max ⟨false, false, 5⟩ 0xB 0x24 0x9),
   (false, 0x783CB909, .minu ⟨false, true, 7⟩ 0xB 0x24 0x9),
   (false, 0x0040B909, .maxu ⟨false, false, 0⟩ 0xB 0x24 0x9),
   (false, 0x4044B909, .and ⟨false, true, 0⟩ 0xB 0x24 0x9),
   (false, 0x8048B909, .or ⟨true, false, 0⟩ 0xB 0x24 0x9),
   (false, 0x284CB909, .xor ⟨false, false, 5⟩ 0xB 0x24 0x9),
   (false, 0x7850B909, .andn ⟨false, true, 7⟩ 0xB 0x24 0x9),
   (false, 0x0054B909, .shl ⟨false, false, 0⟩ 0xB 0x24 0x9),
   (false, 0x4058B909, .shr ⟨false, true, 0⟩ 0xB 0x24 0x9),
   (false, 0x805CB909, .sar ⟨true, false, 0⟩ 0xB 0x24 0x9),
   (false, 0x2860B909, .rotl ⟨false, false, 5⟩ 0xB 0x24 0x9),
   (false, 0x7864B900, .popc ⟨false, true, 7⟩ 0xB 0x24),
   (false, 0x0068B900, .clz ⟨false, false, 0⟩ 0xB 0x24),
   (false, 0x406CB900, .brev ⟨false, true, 0⟩ 0xB 0x24),
   (false, 0x8070B909, .bfx ⟨true, false, 0⟩ 0xB 0x24 0x9),
   (false, 0x2874B909, .bfi ⟨false, false, 5⟩ 0xB 0x24 0x9),
   (false, 0x7878B909, .sel ⟨false, true, 7⟩ 0xB 0x24 0x9)]

theorem test_decode_wordsA : ∀ p ∈ wordsA, (decode p.1 p.2.1).toOption = some p.2.2 := by decide +kernel

theorem test_encode_wordsA : ∀ p ∈ wordsA, encode p.2.2 = p.2.1 := by decide +kernel

/-- Class A (Table 11.3). -/
def wordsA2 : List (Bool × Nat × Instr) :=
  [(false, 0x007CB900, .mov ⟨false, false, 0⟩ 0xB 0x24),
   (false, 0x4080B909, .addl ⟨false, true, 0⟩ 0xB 0x24 0x9),
   (false, 0x8084B909, .subl ⟨true, false, 0⟩ 0xB 0x24 0x9),
   (false, 0x2888B909, .mulw ⟨false, false, 5⟩ 0xB 0x24 0x9),
   (false, 0x788CB909, .mulwu ⟨false, true, 7⟩ 0xB 0x24 0x9),
   (false, 0x0090B909, .shll ⟨false, false, 0⟩ 0xB 0x24 0x9),
   (false, 0x4094B909, .shrl ⟨false, true, 0⟩ 0xB 0x24 0x9),
   (false, 0x8098B909, .sarl ⟨true, false, 0⟩ 0xB 0x24 0x9),
   (false, 0x289CB900, .movl ⟨false, false, 5⟩ 0xB 0x24),
   (false, 0x78A0B909, .cmpeq ⟨false, true, 7⟩ 0xB 0x24 0x9),
   (false, 0x00A4B909, .cmpne ⟨false, false, 0⟩ 0xB 0x24 0x9),
   (false, 0x40A8B909, .cmplt ⟨false, true, 0⟩ 0xB 0x24 0x9),
   (false, 0x80ACB909, .cmple ⟨true, false, 0⟩ 0xB 0x24 0x9),
   (false, 0x28B0B909, .cmpltu ⟨false, false, 5⟩ 0xB 0x24 0x9),
   (false, 0x78B4B909, .cmpleu ⟨false, true, 7⟩ 0xB 0x24 0x9),
   (false, 0x00B8B909, .cmpeql ⟨false, false, 0⟩ 0xB 0x24 0x9),
   (false, 0x40BCB909, .cmpltl ⟨false, true, 0⟩ 0xB 0x24 0x9),
   (false, 0x80C0B016, .mfs ⟨true, false, 0⟩ 0xB 0x0 0x16),
   (false, 0x28C40589, .mts ⟨false, false, 5⟩ 0x0 0x16 0x9),
   (false, 0x78C8B909, .shfl ⟨false, true, 7⟩ 0xB 0x24 0x9),
   (false, 0x00CCB900, .ballot ⟨false, false, 0⟩ 0xB 0x24),
   (false, 0x40D0B900, .matchMask ⟨false, true, 0⟩ 0xB 0x24),
   (false, 0x80D4B909, .compact ⟨true, false, 0⟩ 0xB 0x24 0x9),
   (false, 0x28D8B909, .gredadd ⟨false, false, 5⟩ 0xB 0x24 0x9),
   (false, 0x78DCB909, .gscan ⟨false, true, 7⟩ 0xB 0x24 0x9)]

theorem test_decode_wordsA2 : ∀ p ∈ wordsA2, (decode p.1 p.2.1).toOption = some p.2.2 := by decide +kernel

theorem test_encode_wordsA2 : ∀ p ∈ wordsA2, encode p.2.2 = p.2.1 := by decide +kernel

/-- Class F (Table 11.6). -/
def wordsF : List (Bool × Nat × Instr) :=
  [(false, 0x2904B909, .fadd ⟨false, false, 5⟩ 0xB 0x24 0x9),
   (false, 0x7908B909, .fsub ⟨false, true, 7⟩ 0xB 0x24 0x9),
   (false, 0x010CB909, .fmul ⟨false, false, 0⟩ 0xB 0x24 0x9),
   (false, 0x4110B909, .ffma ⟨false, true, 0⟩ 0xB 0x24 0x9),
   (false, 0x8114B909, .fmin ⟨true, false, 0⟩ 0xB 0x24 0x9),
   (false, 0x2918B909, .fmax ⟨false, false, 5⟩ 0xB 0x24 0x9),
   (false, 0x791CB900, .fabs ⟨false, true, 7⟩ 0xB 0x24),
   (false, 0x0120B900, .fneg ⟨false, false, 0⟩ 0xB 0x24),
   (false, 0x4124B909, .fcmpeq ⟨false, true, 0⟩ 0xB 0x24 0x9),
   (false, 0x8128B909, .fcmplt ⟨true, false, 0⟩ 0xB 0x24 0x9),
   (false, 0x292CB909, .fcmple ⟨false, false, 5⟩ 0xB 0x24 0x9),
   (false, 0x7930B909, .fcmpun ⟨false, true, 7⟩ 0xB 0x24 0x9),
   (false, 0x0134B909, .fdiv ⟨false, false, 0⟩ 0xB 0x24 0x9),
   (false, 0x4138B900, .fsqrt ⟨false, true, 0⟩ 0xB 0x24),
   (false, 0x813CB900, .frcp ⟨true, false, 0⟩ 0xB 0x24),
   (false, 0x2940B900, .frsq ⟨false, false, 5⟩ 0xB 0x24),
   (false, 0x7944B909, .dadd ⟨false, true, 7⟩ 0xB 0x24 0x9),
   (false, 0x0148B909, .dsub ⟨false, false, 0⟩ 0xB 0x24 0x9),
   (false, 0x414CB909, .dmul ⟨false, true, 0⟩ 0xB 0x24 0x9),
   (false, 0x8150B909, .dfma ⟨true, false, 0⟩ 0xB 0x24 0x9),
   (false, 0x2954B909, .dmin ⟨false, false, 5⟩ 0xB 0x24 0x9),
   (false, 0x7958B909, .dmax ⟨false, true, 7⟩ 0xB 0x24 0x9),
   (false, 0x015CB900, .dabs ⟨false, false, 0⟩ 0xB 0x24),
   (false, 0x4160B900, .dneg ⟨false, true, 0⟩ 0xB 0x24),
   (false, 0x8164B909, .dcmpeq ⟨true, false, 0⟩ 0xB 0x24 0x9),
   (false, 0x2968B909, .dcmplt ⟨false, false, 5⟩ 0xB 0x24 0x9),
   (false, 0x796CB909, .dcmple ⟨false, true, 7⟩ 0xB 0x24 0x9),
   (false, 0x0170B909, .dcmpun ⟨false, false, 0⟩ 0xB 0x24 0x9),
   (false, 0x4174B909, .ddiv ⟨false, true, 0⟩ 0xB 0x24 0x9),
   (false, 0x8178B900, .dsqrt ⟨true, false, 0⟩ 0xB 0x24)]

theorem test_decode_wordsF : ∀ p ∈ wordsF, (decode p.1 p.2.1).toOption = some p.2.2 := by decide +kernel

theorem test_encode_wordsF : ∀ p ∈ wordsF, encode p.2.2 = p.2.1 := by decide +kernel

/-- Class F (Table 11.6). -/
def wordsF2 : List (Bool × Nat × Instr) :=
  [(false, 0x2980B900, .fex2 ⟨false, false, 5⟩ 0xB 0x24),
   (false, 0x7984B900, .flg2 ⟨false, true, 7⟩ 0xB 0x24),
   (false, 0x0188B900, .fsinp ⟨false, false, 0⟩ 0xB 0x24),
   (false, 0x418CB900, .fcosp ⟨false, true, 0⟩ 0xB 0x24),
   (false, 0x8190B900, .ftanh ⟨true, false, 0⟩ 0xB 0x24),
   (false, 0x29A0B900, .cvtif ⟨false, false, 5⟩ 0xB 0x24),
   (false, 0x79A4B900, .cvtuf ⟨false, true, 7⟩ 0xB 0x24),
   (false, 0x01A8B900, .cvtfi ⟨false, false, 0⟩ 0xB 0x24),
   (false, 0x41ACB900, .cvtfu ⟨false, true, 0⟩ 0xB 0x24),
   (false, 0x81B0B900, .cvtfd ⟨true, false, 0⟩ 0xB 0x24),
   (false, 0x29B4B900, .cvtdf ⟨false, false, 5⟩ 0xB 0x24),
   (false, 0x79B8B900, .cvtid ⟨false, true, 7⟩ 0xB 0x24),
   (false, 0x01BCB900, .cvtdi ⟨false, false, 0⟩ 0xB 0x24),
   (false, 0x41C0B900, .cvtfh ⟨false, true, 0⟩ 0xB 0x24),
   (false, 0x81C4B900, .cvthf ⟨true, false, 0⟩ 0xB 0x24),
   (false, 0x29C8B900, .cvtfb ⟨false, false, 5⟩ 0xB 0x24),
   (false, 0x79CCB900, .cvtbf ⟨false, true, 7⟩ 0xB 0x24),
   (false, 0x01D0B900, .cvtf8a ⟨false, false, 0⟩ 0xB 0x24),
   (false, 0x41D4B900, .cvtf8b ⟨false, true, 0⟩ 0xB 0x24),
   (false, 0x81D8B900, .cvt8af ⟨true, false, 0⟩ 0xB 0x24),
   (false, 0x29DCB900, .cvt8bf ⟨false, false, 5⟩ 0xB 0x24),
   (false, 0x79E0B900, .nqdec ⟨false, true, 7⟩ 0xB 0x24),
   (false, 0x01E4B900, .nqenc ⟨false, false, 0⟩ 0xB 0x24)]

theorem test_decode_wordsF2 : ∀ p ∈ wordsF2, (decode p.1 p.2.1).toOption = some p.2.2 := by decide +kernel

theorem test_encode_wordsF2 : ∀ p ∈ wordsF2, encode p.2.2 = p.2.1 := by decide +kernel

/-- Class I (Table 11.4). -/
def wordsI : List (Bool × Nat × Instr) :=
  [(false, 0x0202E4A5, .addi ⟨false, false, 0⟩ 0xB 0x24 0xA5),
   (false, 0x4212E4A5, .andi ⟨false, true, 0⟩ 0xB 0x24 0xA5),
   (false, 0x8222E4A5, .ori ⟨true, false, 0⟩ 0xB 0x24 0xA5),
   (false, 0x2A32E4A5, .xori ⟨false, false, 5⟩ 0xB 0x24 0xA5),
   (false, 0x7A42E4A5, .shli ⟨false, true, 7⟩ 0xB 0x24 0xA5),
   (false, 0x0252E4A5, .shri ⟨false, false, 0⟩ 0xB 0x24 0xA5),
   (false, 0x4262E4A5, .sari ⟨false, true, 0⟩ 0xB 0x24 0xA5),
   (false, 0x8272E4A5, .cmpeqi ⟨true, false, 0⟩ 0xB 0x24 0xA5),
   (false, 0x2A82E4A5, .cmplti ⟨false, false, 5⟩ 0xB 0x24 0xA5),
   (false, 0x7A92E4A5, .cmpltui ⟨false, true, 7⟩ 0xB 0x24 0xA5),
   (false, 0x02A2E4A5, .muli ⟨false, false, 0⟩ 0xB 0x24 0xA5),
   (false, 0x42B0CDA5, .xset ⟨false, true, 0⟩ 0x3 0xD 0xA5),
   (false, 0x82C0E4A5, .xoff ⟨true, false, 0⟩ 0x3 0x24 0xA5),
   (false, 0x2AD0C0A5, .xinc ⟨false, false, 5⟩ 0x3 0xA5)]

theorem test_decode_wordsI : ∀ p ∈ wordsI, (decode p.1 p.2.1).toOption = some p.2.2 := by decide +kernel

theorem test_encode_wordsI : ∀ p ∈ wordsI, encode p.2.2 = p.2.1 := by decide +kernel

/-- Class W (Table 11.5). -/
def wordsW : List (Bool × Nat × Instr) :=
  [(false, 0x7F0BA5A5, .li ⟨false, true, 7⟩ 0xB 0xA5A5),
   (false, 0x074BA5A5, .lih ⟨false, false, 0⟩ 0xB 0xA5A5),
   (false, 0x478BA5A5, .addiw ⟨false, true, 0⟩ 0xB 0xA5A5),
   (false, 0x87CBA5A5, .ldk ⟨true, false, 0⟩ 0xB 0xA5A5)]

theorem test_decode_wordsW : ∀ p ∈ wordsW, (decode p.1 p.2.1).toOption = some p.2.2 := by decide +kernel

theorem test_encode_wordsW : ∀ p ∈ wordsW, encode p.2.2 = p.2.1 := by decide +kernel

/-- Class M (Table 11.7). -/
def wordsM : List (Bool × Nat × Instr) :=
  [(false, 0x43017235, .ldb ⟨false, true, 0⟩ 0xB 0x24 0x35),
   (false, 0x83097235, .ldbs ⟨true, false, 0⟩ 0xB 0x24 0x35),
   (false, 0x2B117235, .ldh ⟨false, false, 5⟩ 0xB 0x24 0x35),
   (false, 0x7B197235, .ldhs ⟨false, true, 7⟩ 0xB 0x24 0x35),
   (false, 0x03217235, .ldw ⟨false, false, 0⟩ 0xB 0x24 0x35),
   (false, 0x43297235, .ldl ⟨false, true, 0⟩ 0xB 0x24 0x35),
   (false, 0x83317235, .ldq ⟨true, false, 0⟩ 0xB 0x24 0x35),
   (false, 0x2B397235, .stb ⟨false, false, 5⟩ 0xB 0x24 0x35),
   (false, 0x7B417235, .sth ⟨false, true, 7⟩ 0xB 0x24 0x35),
   (false, 0x03497235, .stw ⟨false, false, 0⟩ 0xB 0x24 0x35),
   (false, 0x43517235, .stl ⟨false, true, 0⟩ 0xB 0x24 0x35),
   (false, 0x83597235, .stq ⟨true, false, 0⟩ 0xB 0x24 0x35),
   (false, 0x2B617235, .ldf ⟨false, false, 5⟩ 0xB 0x24 0x35),
   (false, 0x7B697235, .ldff ⟨false, true, 7⟩ 0xB 0x24 0x35),
   (false, 0x03717235, .ste ⟨false, false, 0⟩ 0xB 0x24 0x35),
   (false, 0x43797235, .stf ⟨false, true, 0⟩ 0xB 0x24 0x35),
   (false, 0x83801235, .sete ⟨true, false, 0⟩ 0x24 0x35),
   (false, 0x2B897205, .ldwr ⟨false, false, 5⟩ 0xB 0x24 0x5),
   (false, 0x7B917203, .ldacq ⟨false, true, 7⟩ 0xB 0x24 0x3),
   (false, 0x03997203, .strel ⟨false, false, 0⟩ 0xB 0x24 0x3),
   (false, 0x43A01235, .pref ⟨false, true, 0⟩ 0x24 0x35)]

theorem test_decode_wordsM : ∀ p ∈ wordsM, (decode p.1 p.2.1).toOption = some p.2.2 := by decide +kernel

theorem test_encode_wordsM : ∀ p ∈ wordsM, encode p.2.2 = p.2.1 := by decide +kernel

/-- Class S1 (Table 11.8). -/
def wordsS1 : List (Bool × Nat × Instr) :=
  [(false, 0x840CB909, .aadd ⟨true, false, 0⟩ 0x3 0xB 0x24 0x9),
   (false, 0x2C2CB909, .axchg ⟨false, false, 5⟩ 0x3 0xB 0x24 0x9),
   (false, 0x7C4CB909, .acas ⟨false, true, 7⟩ 0x3 0xB 0x24 0x9),
   (false, 0x046CB909, .amin ⟨false, false, 0⟩ 0x3 0xB 0x24 0x9),
   (false, 0x448CB909, .amax ⟨false, true, 0⟩ 0x3 0xB 0x24 0x9),
   (false, 0x84ACB909, .aand ⟨true, false, 0⟩ 0x3 0xB 0x24 0x9),
   (false, 0x2CCCB909, .aor ⟨false, false, 5⟩ 0x3 0xB 0x24 0x9),
   (false, 0x7CECB909, .afadd ⟨false, true, 7⟩ 0x3 0xB 0x24 0x9)]

theorem test_decode_wordsS1 : ∀ p ∈ wordsS1, (decode p.1 p.2.1).toOption = some p.2.2 := by decide +kernel

theorem test_encode_wordsS1 : ∀ p ∈ wordsS1, encode p.2.2 = p.2.1 := by decide +kernel

/-- Class S2 (Table 11.8). -/
def wordsS2 : List (Bool × Nat × Instr) :=
  [(false, 0x050C8909, .red ⟨false, false, 0⟩ 0x3 0x8 0x24 0x9),
   (false, 0x452C1000, .fence ⟨false, true, 0⟩ 0x3 0x1),
   (false, 0x854C090A, .waitv ⟨true, false, 0⟩ 0x3 0x24 0xA),
   (false, 0x2D6C1900, .notify ⟨false, false, 5⟩ 0x3 0x1 0x24),
   (false, 0x7D8C0900, .qlock ⟨false, true, 7⟩ 0x3 0x24),
   (false, 0x05AC0900, .qunlock ⟨false, false, 0⟩ 0x3 0x24),
   (false, 0x45CC0900, .bar ⟨false, true, 0⟩ 0x3 0x24),
   (false, 0x85EC1909, .binit ⟨true, false, 0⟩ 0x3 0x1 0x24 0x9)]

theorem test_decode_wordsS2 : ∀ p ∈ wordsS2, (decode p.1 p.2.1).toOption = some p.2.2 := by decide +kernel

theorem test_encode_wordsS2 : ∀ p ∈ wordsS2, encode p.2.2 = p.2.1 := by decide +kernel

/-- Class B (Table 11.9). -/
def wordsB : List (Bool × Nat × Instr) :=
  [(false, 0x2E002F35, .bra ⟨false, false, 5⟩ 0x2F35),
   (false, 0x7E192F35, .bnz ⟨false, true, 7⟩ 0x24 0x2F35),
   (false, 0x06292F35, .bz ⟨false, false, 0⟩ 0x24 0x2F35),
   (false, 0x46302F35, .call ⟨false, true, 0⟩ 0x2F35),
   (false, 0x86490000, .brx ⟨true, false, 0⟩ 0x24),
   (false, 0x2E590000, .callx ⟨false, false, 5⟩ 0x24),
   (false, 0x7E600000, .ret ⟨false, true, 7⟩),
   (false, 0x06792F35, .dbnz ⟨false, false, 0⟩ 0x24 0x2F35)]

theorem test_decode_wordsB : ∀ p ∈ wordsB, (decode p.1 p.2.1).toOption = some p.2.2 := by decide +kernel

theorem test_encode_wordsB : ∀ p ∈ wordsB, encode p.2.2 = p.2.1 := by decide +kernel

/-- Class X (Table 11.10). -/
def wordsX : List (Bool × Nat × Instr) :=
  [(false, 0x46800000, .nop ⟨false, true, 0⟩),
   (false, 0x86810006, .exit ⟨true, false, 0⟩ 0x6),
   (false, 0x2E820000, .yield ⟨false, false, 5⟩),
   (false, 0x7E8300E0, .trap ⟨false, true, 7⟩ 0xE),
   (false, 0x06840000, .tret ⟨false, false, 0⟩),
   (false, 0x46851640, .joinset ⟨false, true, 0⟩ 0x5 0x24),
   (false, 0x86861400, .join ⟨true, false, 0⟩ 0x5),
   (false, 0x2E870240, .regrp ⟨false, false, 5⟩ 0x24),
   (false, 0x7E8800E0, .grow ⟨false, true, 7⟩ 0xE),
   (false, 0x068900E0, .shrink ⟨false, false, 0⟩ 0xE),
   (false, 0x468A2CE0, .growt ⟨false, true, 0⟩ 0xB 0xE),
   (false, 0x86905640, .tdset ⟨true, false, 0⟩ 0x15 0x24),
   (false, 0x2E91B150, .tdget ⟨false, false, 5⟩ 0x2C 0x15),
   (false, 0x7E92024D, .cvset ⟨false, true, 7⟩ 0x24 0xD),
   (false, 0x06930000, .ofence ⟨false, false, 0⟩),
   (false, 0x4694264D, .mma ⟨false, true, 0⟩ 0x9 0x24 0xD),
   (false, 0x8695000D, .mwait ⟨true, false, 0⟩ 0xD),
   (false, 0x2E96264D, .mdrain ⟨false, false, 5⟩ 0x9 0x24 0xD),
   (false, 0x7E975640, .wbload ⟨false, true, 7⟩ 0x15 0x24),
   (false, 0x06983A40, .obres ⟨false, false, 0⟩ 0xE 0x24),
   (false, 0x46993800, .obrel ⟨false, true, 0⟩ 0xE),
   (false, 0x869A2E42, .twalk ⟨true, false, 0⟩ 0xB 0x24 0x2),
   (false, 0x2E9B2E40, .sacl ⟨false, false, 5⟩ 0xB 0x24),
   (false, 0x7E9C0240, .sacs ⟨false, true, 7⟩ 0x24),
   (false, 0x06A00242, .copy ⟨false, false, 0⟩ 0x0 0x24 0x2),
   (false, 0x46A10A40, .chaingo ⟨false, true, 0⟩ 0x2 0x24),
   (false, 0x86A20240, .twait ⟨true, false, 0⟩ 0x24),
   (false, 0x2EA30240, .twany ⟨false, false, 5⟩ 0x24),
   (false, 0x7EA42E40, .tffr ⟨false, true, 7⟩ 0xB 0x24),
   (false, 0x06A50240, .tclr ⟨false, false, 0⟩ 0x24)]

theorem test_decode_wordsX : ∀ p ∈ wordsX, (decode p.1 p.2.1).toOption = some p.2.2 := by decide +kernel

theorem test_encode_wordsX : ∀ p ∈ wordsX, encode p.2.2 = p.2.1 := by decide +kernel

/-- Class X (Table 11.10). -/
def wordsX2 : List (Bool × Nat × Instr) :=
  [(false, 0x46A60240, .coll ⟨false, true, 0⟩ 0x24),
   (false, 0x86A82E40, .spawn ⟨true, false, 0⟩ 0xB 0x24),
   (false, 0x2EA90240, .tsig ⟨false, false, 5⟩ 0x24),
   (false, 0x7EAA0240, .mwrite ⟨false, true, 7⟩ 0x24),
   (false, 0x06AB2E40, .prop ⟨false, false, 0⟩ 0xB 0x24),
   (false, 0x46AC0240, .trfree ⟨false, true, 0⟩ 0x24),
   (false, 0x86ADB240, .trstat ⟨true, false, 0⟩ 0x2C 0x24),
   (false, 0x2EB02E41, .rclaim ⟨false, false, 5⟩ 0xB 0x24 0x1),
   (false, 0x7EB12E41, .rcommit ⟨false, true, 7⟩ 0xB 0x24 0x1),
   (false, 0x06B22E41, .rawait ⟨false, false, 0⟩ 0xB 0x24 0x1),
   (false, 0x46B32E41, .rretire ⟨false, true, 0⟩ 0xB 0x24 0x1),
   (true, 0x86B80000, .wfe ⟨true, false, 0⟩),
   (true, 0x2EB90240, .itlb ⟨false, false, 5⟩ 0x24)]

theorem test_decode_wordsX2 : ∀ p ∈ wordsX2, (decode p.1 p.2.1).toOption = some p.2.2 := by decide +kernel

theorem test_encode_wordsX2 : ∀ p ∈ wordsX2, encode p.2.2 = p.2.1 := by decide +kernel

/-- How a word is turned away. -/
def turnedAway (st : Bool) (w : Nat) : Option Reject :=
  match decode st w with
  | .ok _ => none
  | .error r => some r

/-- R98 steps 1 to 5 on words of Table 11.13 and of the class chapters. -/
theorem test_rejected_words :
    turnedAway false 0x00000000 = some .illegal ∧ turnedAway false 0x40000000 = some .illegal ∧ turnedAway false 0x041470C9 = some .badNumber ∧
    turnedAway false 0xC8044042 = none ∧ turnedAway false 0x06114003 = none ∧ turnedAway false 0x00E00000 = some .illegal ∧
    turnedAway false 0x017C0000 = some .illegal ∧ turnedAway false 0x00C0001F = some .badNumber ∧
    turnedAway false 0x00C04100 = some .privileged ∧ turnedAway false 0x46810009 = some .badNumber ∧
    turnedAway false 0x46800010 = some .nonzero ∧ turnedAway false 0x46B80000 = some .privileged ∧
    turnedAway true 0x46860400 = some .illegal ∧ turnedAway false 0x46B81000 = some .privileged := by decide +kernel

/-- A word the table does not name has no row; a steward's own word is read as a steward's. -/
theorem test_table_words :
    decodeTableWord 32 0x46B80000 = some (.wfe ⟨false, true, 0⟩) ∧ decodeTableWord 32 0 = none ∧
    decodeTableWord 16 0x00706105 = none := by decide +kernel

/-! ## Ill-formed terms, one for each check -/

/-- No flags. -/
def c0 : Ctl := ⟨false, false, 0⟩

theorem test_ill_formed_words :
    ∀ p ∈ ([(false, .mfs c0 4 4 0), (false, .mfs c0 4 0 31), (false, .mts c0 0 0 7), (true, .shfl c0 4 5 6),
        (false, .ldw c0 4 59 0), (true, .ldf c0 4 2 0), (false, .red c0 0 10 2 4), (false, .fence c0 0 0),
        (false, .fence c0 0 6), (false, .waitv c0 7 2 59), (false, .notify c0 0 2 2), (false, .binit c0 0 2 2 4),
        (false, .exit c0 9), (false, .tdset c0 0 57), (false, .tdget c0 57 0), (false, .cvset c0 56 0),
        (false, .mdrain c0 12 4 0), (true, .wbload c0 0 4), (false, .obres c0 16 4), (false, .obrel c0 16),
        (false, .twalk c0 4 53 0), (false, .sacl c0 4 57), (true, .sacs c0 4), (false, .copy c0 0 4 4),
        (false, .copy c0 1 4 1), (false, .copy c0 0 51 0), (false, .chaingo c0 4 4), (false, .coll c0 53),
        (false, .spawn c0 4 49), (false, .mwrite c0 58), (false, .trstat c0 54 4), (false, .wfe c0),
        (false, .itlb c0 4), (true, .rclaim c0 4 2 6), (true, .joinset c0 0 4)] : List (Bool × Instr)),
      p.2.wf p.1 = false := by decide +kernel

theorem test_ill_formed_events :
    ∀ i ∈ ([.chainRecordComplete 0 4, .collTimeout 256, .blockDispatch 4, .taskTake 192, .launch 256,
        .growDeadlockCheck 192, .contextSave 0 128, .contextRestore 0 0 192, .starvationTimeExpiry 0 128 0,
        .frespReplay 0 256, .machineCheck 0 0 7, .machineCheck 0 256 1, .preemptionRequest 192 0, .partitionSwap 16 0,
        .slotMap 256, .powerRefresh 4 0 0, .flitReceive 12 true 0 0, .laneLoss 12, .collContribution (0, 0) 256 [],
        .collAbortReport (256, 0) 0 0, .collDecision (256, 0) true 0 0 [], .hostApertureRead 17 0 0 4, .vfFlr 0, .vfFlr 17, .stewardTimer 4,
        .partitionCreate 16 [] 0 0 [] 0 0, .partitionDestroy 16, .sacShareChange 0 8] : List Instr),
      i.wf false = false := by decide +kernel

theorem test_well_formed :
    ∀ p ∈ ([(false, .ldw c0 4 58 0), (false, .ldw c0 4 61 0), (false, .waitv c0 7 2 58), (false, .waitv c0 6 2 59),
        (false, .copy c0 63 50 0), (false, .spawn c0 4 48), (true, .mts c0 4 3 7), (true, .wfe c0)] : List (Bool × Instr)),
      p.2.wf p.1 = true := by decide +kernel

/-! ## Small machines -/

/-- The page tables of a partition (Table 26.1) whose first GiB lies at physical 0, its second at the windows of cores 0
to 15, and its third, modifiable, at the third of HBM. -/
def tables : Memory :=
  [(0x40000000, 0x01), (0x40000002, 0x10), (0x40000003, 0x40), (0x40100000, 0x1F), (0x40100008, 0x1F), (0x4010000D, 0x08),
   (0x40100010, 0x3F), (0x40100013, 0x80)]

/-- A word of a cohort on core 0, slot 0, at PC 0x100. -/
def at0 (l : List Nat) : Issue := ⟨0, 0, 0x100, 0, l⟩

/-- One thread on core 0, whose registers hold v, issuing a word; its launch has a handler. -/
def user (v : Store Word) : State :=
  { mem := tables, ctxs := [(4, { block := 1, pc := 0x100, v := v })]
    groups := [(0, { block := 1, alloc := 256, members := [4] })]
    blocks := [(1, { launch := 1, kernel := placedKernel, cores := [0] })]
    launches := [(1, { kernel := placedKernel, handler := 0x2000, dispatched := 1 })]
    parts := [(0, { quads := [0, 1, 2, 3], root := 0x40000000 })]
    issue := some (at0 [4]) }

/-- Two threads of one group, in lanes 0 and 1. -/
def twins (v w : Store Word) : State :=
  { user v with
    ctxs := [(4, { block := 1, pc := 0x100, v := v }), (5, { block := 1, pc := 0x100, lane := 1, tid := 1, v := w })]
    groups := [(0, { block := 1, alloc := 256, members := [4, 5] })]
    issue := some (at0 [4, 5]) }

/-- Steward 0 issuing a word. -/
def steward (v : Store Word) : State :=
  { user [] with
    ctxs := [(0, { stewardCtx 0 with status := .running, pc := 0x100, v := v })]
    groups := [(192 * 128, stewardGroup 0)], issue := some ⟨192, 0, 0x100, 0, [0]⟩ }

/-- Steward 0 of a partition with quad 1; its register 4 names entry 0x07 of core 5's fault buffer, where thread 9 and an
operation at its object wait, or core 5's entry 6, which is free, or an entry of core 192. -/
def answering (w : Word) : State :=
  { steward [(4, w)] with
    parts := [(0, { quads := [1], root := 0x40000000 })]
    ctxs := [(0, { stewardCtx 0 with status := .running, pc := 0x100, v := [(4, w)] }),
      (9, { block := 1, core := 5, status := .parked (.xfault (some (5 * 256 + 7)) 0x1234 3) 0 0 0 })]
    ops := [(0, { core := 5, fault := some (5 * 256 + 7), kind := .copy ⟨0x4000, 0x5000, 4, 2, 64, 128, 1, 5, 0, 0, []⟩
                  atObject := true })]
    nextOp := 1, faults := [(5 * 256 + 7, ⟨0, 0x1000, 64⟩)] }

/-- A word of steward 0. -/
def atSteward : Issue := ⟨192, 0, 0x100, 0, [0]⟩

/-! ## States that meet the hypotheses of the statements -/

theorem test_meets_IntegerWords :
    (∃ i d lat f s is, arithmetic i = some (d, lat, f) ∧ State.Ready s is (wordInfo i) noneBusy) ∧
    (∃ i d lat f s is, logic i = some (d, lat, f) ∧ State.Ready s is (wordInfo i) noneBusy) ∧
    ∃ i d lat f s is, pairsAndCompares i = some (d, lat, f) ∧ State.Ready s is (wordInfo i) noneBusy :=
  ⟨⟨.mad c0 2 4 6, _, _, _, twins [(4, 0xFFFFFFFF)] [(4, 1)], at0 [4, 5], rfl, by decide +kernel⟩,
    ⟨.sar c0 2 4 6, _, _, _, user [(4, 0x80000000), (6, 32)], at0 [4], rfl, by decide +kernel⟩,
    .sarl c0 2 4 6, _, _, _, user [(5, 0x80000000), (6, 64)], at0 [4], rfl, by decide +kernel⟩

theorem test_meets_DivisionWords : ∃ i d f s is, division i = some (d, f) ∧ State.Ready s is (wordInfo i) noneBusy :=
  ⟨.div c0 2 4 6, _, _, user [(4, 0x80000000), (6, 0xFFFFFFFF)], at0 [4], rfl, by decide +kernel⟩

theorem test_meets_IndexRegisterWords :
    (∃ ctl x, ∃ l : RegField, ∃ i : BitVec 8, ∃ s is, State.Ready s is (wordInfo (.xset ctl x l i)) noneBusy ∧
      i.toNat + 4 * l.toNat ≤ (s.chainBase is).alloc) ∧
    (∃ ctl x, ∃ l : RegField, ∃ i : BitVec 8, ∃ s is, State.Ready s is (wordInfo (.xset ctl x l i)) noneBusy ∧
      (s.chainBase is).alloc < i.toNat + 4 * l.toNat ∧
      ∀ id ∈ is.cohort, (s.ctx id).handler = false ∧ s.handlerOf (s.ctx id) ≠ 0) ∧
    ∃ i x f s is, indexStep i = some (x, f) ∧ State.Ready s is (wordInfo i) noneBusy :=
  ⟨⟨c0, 1, 63, 4, user [], at0 [4], by decide +kernel⟩, ⟨c0, 1, 63, 5, user [], at0 [4], by decide +kernel⟩,
    .xinc c0 3 0x80, _, _, user [], at0 [4], rfl, by decide +kernel⟩

theorem test_meets_ConstantAndSpecialReads :
    (∃ ctl d i s is, State.Ready s is (wordInfo (.ldk ctl d i)) noneBusy ∧
      ∀ id ∈ is.cohort, (s.blocks.get? (s.ctx id).block).isSome = true ∧
        (s.launches.get? (s.block (s.ctx id).block).launch).isSome = true) ∧
    (∀ s ∈ [user [], steward []], ∀ is, s.issue = some is → ∀ id ∈ is.cohort,
      State.Ready s is (wordInfo (.mfs c0 4 0 0x18)) (specialBusy (specialNumber 0 0x18)) ∧ (s.ctx id).core = is.core ∧
      (threadRegister s is (s.ctx id) 0x18).isSome = true ∧ (threadRegister s is (s.ctx id) 0x45).isSome = true) ∧
    (∀ n ∈ [0x0B, 0x0D, 0x100, 0x103], (stewardRegister (steward []) atSteward ((steward []).ctx 0) n).isSome = true) ∧
    ((user []).group (at0 [4]).key).block = ((user []).ctx 4).block ∧
    ∀ n ∈ [0x03, 0x0F, 0x13, 0x28, 0x37, 0x3B, 0x52], (blockRegister (user []) (at0 [4]) ((user []).ctx 4) n).isSome = true := by
  refine ⟨⟨c0, 4, 3, user [], at0 [4], by decide +kernel⟩, ?_, by decide +kernel, by decide +kernel, by decide +kernel⟩
  intro s hs
  simp only [List.mem_cons, List.not_mem_nil, or_false] at hs
  rcases hs with rfl | rfl <;> (rintro _ ⟨⟩; decide +kernel)

theorem test_meets_SpecialRegisterWrites :
    ∃ ctl h l b m s is, writeMask (specialNumber h l) = some m ∧
      State.Ready s is (wordInfo (.mts ctl h l b)) (specialBusy (specialNumber h l)) ∧
      mtsWaits (specialNumber h l) s is = none ∧ isSteward is.core = false ∧
      ∀ id ∈ is.cohort, (s.ctx id).core = is.core :=
  ⟨c0, 0, 0x17, 4, _, user [(4, 0xFF)], at0 [4], rfl, by decide +kernel⟩

theorem test_meets_IndexAndStewardRegisterWrites :
    (∃ ctl h l b s is, 0x3C ≤ specialNumber h l ∧ specialNumber h l < 0x40 ∧
      State.Ready s is (wordInfo (.mts ctl h l b)) (specialBusy (specialNumber h l)) ∧
      ∀ id ∈ is.cohort, ((s.ctx id).rd (s.now is.core) b 0).toNat % 2 ^ 8 +
        ((s.ctx id).rd (s.now is.core) b 0).toNat / 2 ^ 8 % 2 ^ 8 ≤ (s.chainBase is).alloc) ∧
    (∃ ctl h l b s is p, p < 4 ∧ is.core = 192 + p ∧ is.cohort = [p] ∧ (s.ctx p).core = 192 + p ∧
      State.Ready s is (wordInfo (.mts ctl h l b)) (specialBusy (specialNumber h l)) ∧ specialNumber h l = 0x100 ∧
      (s.parts.get? (((s.ctx p).rd (s.now is.core) b 0).toNat % 2 ^ 4)).isSome = true) ∧
    (∃ ctl h l b s is p, p < 4 ∧ is.core = 192 + p ∧ is.cohort = [p] ∧ (s.ctx p).core = 192 + p ∧
      State.Ready s is (wordInfo (.mts ctl h l b)) (specialBusy (specialNumber h l)) ∧ specialNumber h l = 0x102) ∧
    (∃ ctl h l b s is p, p < 4 ∧ is.core = 192 + p ∧ is.cohort = [p] ∧ (s.ctx p).core = 192 + p ∧
      State.Ready s is (wordInfo (.mts ctl h l b)) (specialBusy (specialNumber h l)) ∧ specialNumber h l = 0x103) ∧
    (let s : State := { steward [(4, 5)] with stewards := [(0, { svec := 0x100 })] }
     s.Ready atSteward (wordInfo (.mts c0 4 0 4)) (specialBusy 0x100) ∧ s.parts.get? 5 = none ∧ (s.ctx 0).handler = false ∧
      s.handlerOf (s.ctx 0) ≠ 0) ∧
    (∀ w ∈ [0x00000506, 0x0000C007], let s : State := { answering w with stewards := [(0, { svec := 0x100 })] }
     s.Ready atSteward (wordInfo (.mts c0 4 1 4)) (specialBusy 0x101) ∧
      ¬ ((s.faults.get? ((s.ctx 0).rd 0 4 0).toNat).isSome = true ∧
        ((s.ctx 0).rd 0 4 0).toNat / 2 ^ 10 % 2 ^ 6 ∈ (s.parts.getD (s.partOf (s.ctx 0)) {}).quads) ∧
      (s.ctx 0).handler = false ∧ s.handlerOf (s.ctx 0) ≠ 0) ∧
    ∀ w ∈ [0x00000507, 0x80000507], let s := answering w
     s.Ready atSteward (wordInfo (.mts c0 4 1 4)) (specialBusy 0x101) ∧ (s.faults.get? (5 * 2 ^ 8 + 7)).isSome = true ∧
      1 ∈ (s.parts.getD (s.partOf (s.ctx 0)) {}).quads ∧ (s.ctx 0).status = .running ∧ s.faultQ = [] ∧
      s.NoneWait (fun q => match q with | .xfault none _ _ => true | _ => false) ∧ (s.ctx 9).handler = false ∧
      s.handlerOf (s.ctx 9) ≠ 0 :=
  ⟨⟨c0, 0, 0x3F, 4, user [(4, 0x1234FC04)], at0 [4], by decide +kernel⟩,
    ⟨c0, 4, 0, 4, steward [(4, 0x10)], atSteward, 0, by decide +kernel⟩,
    ⟨c0, 4, 2, 4, steward [(4, 8)], atSteward, 0, by decide +kernel⟩,
    ⟨c0, 4, 3, 4, steward [(4, 8)], atSteward, 0, by decide +kernel⟩, by decide +kernel, by
      intro w hw
      simp only [List.mem_cons, List.not_mem_nil, or_false] at hw
      rcases hw with rfl | rfl <;> exact ⟨by decide +kernel, by decide +kernel, by decide +kernel, by decide +kernel⟩, by
      intro w hw
      simp only [List.mem_cons, List.not_mem_nil, or_false] at hw
      rcases hw with rfl | rfl <;> exact ⟨by decide +kernel, by decide +kernel, by decide +kernel, by decide +kernel,
        by decide +kernel, by decide +kernel, by decide +kernel, by decide +kernel⟩⟩

theorem test_meets_GroupOperations :
    ∃ i s is d f, groupResult s is.cohort (fun u => (s.ctx u).rd (s.now is.core)) i = some (d, f) ∧
      State.Ready s is (wordInfo i) noneBusy :=
  ⟨.gredadd c0 2 4 6, twins [(4, 1)] [(4, 2), (6, 1)], at0 [4, 5], _, _, rfl, by decide +kernel⟩

theorem test_meets_FloatingWords :
    (∃ i d lat f s is, floating i = some (d, lat, f) ∧ State.Ready s is (wordInfo i) noneBusy) ∧
    ∃ i d lat f s is, conversion i = some (d, lat, f) ∧ State.Ready s is (wordInfo i) noneBusy :=
  ⟨⟨.dfma c0 2 4 6, _, _, _, user [], at0 [4], rfl, by decide +kernel⟩,
    .cvtdi c0 2 4, _, _, _, user [(5, 0x7FF80000)], at0 [4], rfl, by decide +kernel⟩

theorem test_meets_VariableFloatingWords :
    ∃ i d n f s is, approximate i = some (d, n, f) ∧ State.Ready s is (wordInfo i) noneBusy :=
  ⟨.ddiv c0 2 4 6, _, _, _, user [], at0 [4], rfl, by decide +kernel⟩

/-- Every word of some bytes lies clear of the objects, decided. -/
theorem unguarded_of (s : State) (x n : Nat) (h : (List.range (x % 4 + n)).all (fun i =>
    let w := x / 4 * 4 + i
    w % 4 != 0 || (((s.locks.get? w).isNone || s.NoneWait (fun q => match q with | .qlock a _ => decide (a = w) | _ => false)) &&
      !(s.bars.getD (w / 16 * 16) {}).armed && (s.rings.get? (w / 16 * 16)).isNone &&
      s.NoneWait (fun q => match q with | .ring a _ _ _ _ _ => decide (a = w / 16 * 16) | _ => false))) = true) :
    Unguarded s x n := by
  intro w h1 h2 h3
  have := List.all_eq_true.mp h (w - x / 4 * 4) (List.mem_range.mpr (by omega))
  rw [show x / 4 * 4 + (w - x / 4 * 4) = w by omega] at this
  simp only [h3, bne_self_eq_false, Bool.false_or, Bool.and_eq_true, Bool.or_eq_true, decide_eq_true_eq,
    Bool.not_eq_true', Option.isNone_iff_eq_none] at this
  exact ⟨this.1.1.1, this.1.1.2, this.1.2, this.2⟩

/-- No matrix operation has the bytes, where none is in flight or unseen. -/
theorem notMatrix_of (s : State) (id pa n : Nat) (h : s.ops.all (fun p => match p.2.kind with | .matrix _ => false | _ => true) = true)
    (u : ∀ p ∈ s.blocks, p.2.unseen = []) : NotMatrix s id pa n := by
  have e : ∀ j a, s.matrixOwns j a = false ∧ s.matrixTouches j a = false := by
    intro j a
    have hb : (s.block (s.ctx j).block).unseen = [] := by
      unfold State.block Store.getD
      generalize (s.ctx j).block = k
      have : ∀ (m : Store Block), (∀ p ∈ m, p.2.unseen = []) → ((m.get? k).getD {}).unseen = [] := by
        intro m
        induction m with
        | nil => intro _; rfl
        | cons p m ih =>
          intro hm
          unfold Store.get?
          split
          · exact hm p (List.mem_cons_self ..)
          · exact ih (fun q hq => hm q (List.mem_cons_of_mem _ hq))
      exact this s.blocks u
    unfold State.matrixOwns State.matrixTouches
    rw [hb]
    simp only [List.any_nil, Bool.or_false, List.any_eq_false]
    refine ⟨?_, ?_⟩ <;>
    · intro p hp
      have := List.all_eq_true.mp h p hp
      split at this <;> simp_all
  exact fun i _ => ⟨(e _ _).1, fun j _ => (e _ _).2⟩

/-- No bytes lie in an object where no lock, barrier or ring is in use and every thread runs. -/
theorem unguarded_free (s : State) (x n : Nat) (h : s.locks = [] ∧ s.bars = [] ∧ s.rings = [] ∧
    s.ctxs.all (fun p => decide (p.2.status = .running)) = true) : Unguarded s x n := by
  have q : ∀ f, s.NoneWait f := by
    intro f p hp
    have := of_decide_eq_true (List.all_eq_true.mp h.2.2.2 p hp)
    simp [Ctx.parkKind, this]
  intro w _ _ _
  rw [h.1, h.2.1, h.2.2.1]
  exact ⟨.inl rfl, rfl, rfl, q _⟩

/-- Bytes lie in memory, decided. -/
theorem inMemory_of (pa n : Nat) (h : 0 < n ∧ (List.range n).all (fun j => match regionOf (pa + j) with
    | .registers _ _ => false
    | .control _ _ => false
    | .mgmt _ => false
    | .store _ _ => false
    | _ => true) = true) : InMemory pa n := by
  refine ⟨h.1, fun j hj => ?_⟩
  have := List.all_eq_true.mp h.2 j (List.mem_range.mpr hj)
  revert this
  split <;> simp

theorem test_meets_LoadWords :
    (∃ i d a off size signed mask, ∃ s s' : State, ∃ is id pa uc mod, loads i = some (d, a, off, size, signed, mask) ∧
      is.cohort = [id] ∧ s.Ready is (wordInfo i) noneBusy ∧
      (∀ r, mask = some r → ((s.chainBase is).rj.getD r.toNat 0).getLsbD (s.ctx id).lane = true) ∧
      s.access (s.ctx id) (address (s.ctx id) (s.now is.core) a off) size size needR false .plain = .ok pa uc mod ∧
      s.recordAccess (s.ctx id) mod false pa size (address (s.ctx id) (s.now is.core) a off) = .inl s' ∧
      s.responseError (s.ctx id).core pa size = none) ∧
    ∃ i d a off size signed, ∃ r : BitVec 3, ∃ s s' : State, ∃ is id pa uc mod,
      loads i = some (d, a, off, size, signed, some r) ∧ is.cohort = [id] ∧ s.Ready is (wordInfo i) noneBusy ∧
      (∀ q, some r = some q → ((s.chainBase is).rj.getD q.toNat 0).getLsbD (s.ctx id).lane = true) ∧
      s.access (s.ctx id) (address (s.ctx id) (s.now is.core) a off) size size needR false .plain = .ok pa uc mod ∧
      s.recordAccess (s.ctx id) mod false pa size (address (s.ctx id) (s.now is.core) a off) = .inl s' ∧
      s.responseError (s.ctx id).core pa size = none :=
  ⟨⟨.ldq c0 8 2 64, 8, 2, _, 16, false, none, user [(2, 0x3FFFFFF0)], user [(2, 0x3FFFFFF0)], at0 [4], 4, 0x3FFFFBF0, false,
      false, rfl, rfl, by decide +kernel, nofun, by decide +kernel⟩,
    .ldwr c0 8 2 1, 8, 2, 0, 4, false, 1,
    (user [(2, 0x1000)]).updGroup 0 (fun g => { g with rj := [(1, 1)] }),
    (user [(2, 0x1000)]).updGroup 0 (fun g => { g with rj := [(1, 1)] }), at0 [4], 4, 0x1000, false,
      false, rfl, rfl, by decide +kernel, by rintro _ ⟨⟩; decide +kernel, by decide +kernel⟩

/-- The user thread with its block under a task that may be restarted. -/
def restartable (v : Store Word) : State := (user v).updBlock 1 (fun b => { b with restart := true })

theorem test_meets_StoreWords :
    (∃ i d a off size release, ∃ s s' : State, ∃ is id pa uc mod, stores i = some (d, a, off, size, release) ∧
      is.cohort = [id] ∧ s.Ready is (wordInfo i) noneBusy ∧
      stageFull (fun s is c => address c (s.now is.core) a off) size s is = none ∧
      (release = true → deferredAt false true (s.ctx id) = none) ∧
      s.access (s.ctx id) (address (s.ctx id) (s.now is.core) a off) size size needW true .plain = .ok pa uc mod ∧
      s.recordAccess (s.ctx id) mod true pa size (address (s.ctx id) (s.now is.core) a off) = .inl s' ∧
      ((s.isDet (s.ctx id) || s.isRestart (s.ctx id)) && stagedRegion (regionOf pa)) = false) ∧
    ∃ i d a off size release, ∃ s s' : State, ∃ is id pa uc mod, stores i = some (d, a, off, size, release) ∧
      is.cohort = [id] ∧ s.Ready is (wordInfo i) noneBusy ∧
      stageFull (fun s is c => address c (s.now is.core) a off) size s is = none ∧
      (release = true → deferredAt false true (s.ctx id) = none) ∧
      s.access (s.ctx id) (address (s.ctx id) (s.now is.core) a off) size size needW true .plain = .ok pa uc mod ∧
      s.recordAccess (s.ctx id) mod true pa size (address (s.ctx id) (s.now is.core) a off) = .inl s' ∧
      ((s.isDet (s.ctx id) || s.isRestart (s.ctx id)) && stagedRegion (regionOf pa)) = true ∧
      (s.isDet (s.ctx id) = true →
        stagedSize (s.block (s.ctx id).block).stage + 10 + size ≤ Config.stageLimit) ∧
      (s.blocks.get? (s.ctx id).block).isSome = true :=
  ⟨⟨.strel c0 8 2 3, 8, 2, 0, 4, true, user [(2, 0x40400000), (8, 5)], user [(2, 0x40400000), (8, 5)], at0 [4], 4,
      0x080000400000, false, false, rfl, rfl, by decide +kernel, by decide +kernel, fun _ => by decide +kernel,
      by decide +kernel⟩,
    .stl c0 8 2 63, 8, 2, _, 8, false, restartable [(2, 0x1000), (8, 5)], restartable [(2, 0x1000), (8, 5)], at0 [4], 4,
      0x11F8, false, false, rfl, rfl, by decide +kernel, by decide +kernel, nofun, by decide +kernel, by decide +kernel,
      by decide +kernel, fun h => absurd h (by decide +kernel), by decide +kernel⟩

/-- The scratchpad of core 0, in the second GiB. -/
def pad : Store Word := [(2, 0x40400000), (8, 0x55)]

/-- Another thread of the block, in lane 1, that waits. -/
def withWaiter (s : State) (p : Park) : State :=
  { s with
    ctxs := s.ctxs ++ [(5, { block := 1, pc := 0x200, lane := 1, tid := 1, status := .parked p 0 2 0 })]
    groups := [(0, { block := 1, alloc := 256, members := [4, 5] })] }

theorem test_meets_TaggedWords :
    (∃ (ctl : Ctl) (d a : RegField) (o : BitVec 7) (s : State) (is : Issue) (id pa core off : Nat) (uc mod : Bool),
      is.cohort = [id] ∧ s.Idle id ∧ s.NoneWait (taggedWait pa) ∧ deferredAt false true (s.ctx id) = none ∧
      s.access (s.ctx id) (address (s.ctx id) (s.now is.core) a (o.toInt * 4)) 4 4 needRW true .tagged = .ok pa uc mod ∧
      regionOf pa = .scratch core off ∧ s.tagWaitTrap (s.ctx id) is.pc core off = none ∧
      s.responseError (s.ctx id).core pa 4 = none ∧
      s.Ready is (wordInfo (.ldf ctl d a o)) (s.barred false) ∧ s.Ready is (wordInfo (.ldff ctl d a o)) (s.barred false) ∧
      s.Ready is (wordInfo (.ste ctl d a o)) noneBusy ∧ s.Ready is (wordInfo (.stf ctl d a o)) noneBusy ∧
      s.Ready is (wordInfo (.sete ctl a o)) (s.barred false) ∧ NotMatrix s id pa 4) ∧
    ∃ (ctl : Ctl) (d a : RegField) (o : BitVec 7) (s : State) (is : Issue) (id w pa core off dst arr sc n : Nat)
      (uc mod : Bool), is.cohort = [id] ∧ w ≠ id ∧ s.Idle id ∧ deferredAt false true (s.ctx id) = none ∧
      s.Ready is (wordInfo (.stf ctl d a o)) noneBusy ∧
      s.access (s.ctx id) (address (s.ctx id) (s.now is.core) a (o.toInt * 4)) 4 4 needRW true .tagged = .ok pa uc mod ∧
      regionOf pa = .scratch core off ∧ s.isFull pa = false ∧ s.responseError (s.ctx id).core pa 4 = none ∧
      s.waiters (taggedWait pa) = [w] ∧
      (s.ctx w).status = .parked (.tagged pa 0 dst 0) arr sc n ∧ NotMatrix s id pa 4 ∧
      ∀ i, i < 4 → s.matrixOwns w (pa + i) = false :=
  ⟨⟨c0, 8, 2, 63, user pad, at0 [4], 4, 0x0800004000FC, 0, 252, false, false, rfl, by decide +kernel, by decide +kernel,
      by decide +kernel, by decide +kernel, by decide +kernel, by decide +kernel, by decide +kernel, by decide +kernel,
      by decide +kernel, by decide +kernel, by decide +kernel, by decide +kernel,
      notMatrix_of _ _ _ _ (by decide +kernel) (by decide +kernel)⟩,
    c0, 8, 2, 0, withWaiter (user pad) (.tagged 0x080000400000 0 7 0), at0 [4], 4, 5, 0x080000400000, 0, 0, 7, 0, 2, 0, false,
    false, by decide +kernel, by decide +kernel, by decide +kernel, by decide +kernel, by decide +kernel, by decide +kernel,
    by decide +kernel, by decide +kernel, by decide +kernel, by decide +kernel, by decide +kernel,
    notMatrix_of _ _ _ _ (by decide +kernel) (by decide +kernel), by decide +kernel⟩

theorem test_meets_AtomicWords :
    ∃ i d a p f, ∃ s : State, ∃ is id pa uc mod, atomics i = some (d, a, p, f) ∧ is.cohort = [id] ∧ s.Idle id ∧
      s.Ready is (wordInfo i) (s.barred true) ∧ deferredAt false true (s.ctx id) = none ∧
      s.access (s.ctx id) (address (s.ctx id) (s.now is.core) a 0) 4 4 needRW true .atomic = .ok pa uc mod ∧ OffTrace pa ∧
      s.atomicTrap (s.ctx id) pa mod (atomicDet pa p) (address (s.ctx id) (s.now is.core) a 0) (Nat.log2 4 + 8) = none ∧
      s.responseError (s.ctx id).core pa 4 = none ∧ Unguarded s (memKey (s.ctx id).core pa) 4 ∧ NotMatrix s id pa 4 :=
  ⟨.acas c0 4 8 2 6, 8, 2, 4, _, user [(2, 0x1004), (8, 0), (6, 9)], at0 [4], 4, 0x1004, false, false, rfl, by decide +kernel,
    by decide +kernel, by decide +kernel, by decide +kernel, by decide +kernel, by decide +kernel, by decide +kernel,
    by decide +kernel, unguarded_of _ _ _ (by decide +kernel), notMatrix_of _ _ _ _ (by decide +kernel) (by decide +kernel)⟩

/-- The user thread with its block deterministic. -/
def deterministic (v : Store Word) : State := (user v).updBlock 1 (fun b => { b with det := true })

/-- A launch that has staged nothing but what the issuing block has is never full while the region has room at all. -/
theorem room_for_one (ea : State → Issue → Ctx → DWord) (n : Nat) (s : State) (is : Issue)
    (h : s.stageUsed (s.block (s.ctx (is.cohort.headD 0)).block).launch =
      stagedSize (s.block (s.ctx (is.cohort.headD 0)).block).stage) : stageFull ea n s is = none := by
  unfold stageFull
  simp only [h]
  split
  · next hh => simp at hh; omega
  · rfl

theorem test_meets_ReductionWord :
    (∃ ctl, ∃ p : BitVec 3, ∃ k a b : RegField, ∃ s : State, ∃ is id pa uc mod, is.cohort = [id] ∧
      s.Ready is (wordInfo (.red ctl p k a b)) noneBusy ∧ deferredAt false true (s.ctx id) = none ∧
      stageFull (fun s is c => address c (s.now is.core) a 0) 4 s is = none ∧ k.toNat ≤ 9 ∧
      s.access (s.ctx id) (address (s.ctx id) (s.now is.core) a 0) (if k.toNat = 7 then 8 else 4)
        (if k.toNat = 7 then 8 else 4) needRW true .atomic = .ok pa uc mod ∧
      s.atomicTrap (s.ctx id) pa mod false (address (s.ctx id) (s.now is.core) a 0)
        (Nat.log2 (if k.toNat = 7 then 8 else 4) + 8) = none ∧
      (s.isDet (s.ctx id) && stagedRegion (regionOf pa)) = false) ∧
    ∃ ctl, ∃ p : BitVec 3, ∃ k a b : RegField, ∃ s : State, ∃ is id pa uc mod, is.cohort = [id] ∧
      s.Ready is (wordInfo (.red ctl p k a b)) noneBusy ∧ deferredAt false true (s.ctx id) = none ∧
      stageFull (fun s is c => address c (s.now is.core) a 0) 4 s is = none ∧ k.toNat ≤ 9 ∧
      s.access (s.ctx id) (address (s.ctx id) (s.now is.core) a 0) (if k.toNat = 7 then 8 else 4)
        (if k.toNat = 7 then 8 else 4) needRW true .atomic = .ok pa uc mod ∧
      s.atomicTrap (s.ctx id) pa mod false (address (s.ctx id) (s.now is.core) a 0)
        (Nat.log2 (if k.toNat = 7 then 8 else 4) + 8) = none ∧
      (s.isDet (s.ctx id) && stagedRegion (regionOf pa)) = true ∧ (s.blocks.get? (s.ctx id).block).isSome = true :=
  ⟨⟨c0, 3, 7, 2, 8, user [(2, 0x1008), (8, 0x3F800000)], at0 [4], 4, 0x1008, false, false, by decide +kernel⟩,
    c0, 5, 9, 2, 8, deterministic [(2, 0x1008)], at0 [4], 4, 0x1008, false, false, rfl, by decide +kernel,
    by decide +kernel, room_for_one _ 4 _ _ (by decide +kernel), by decide +kernel⟩

theorem test_meets_WaitAndNotify :
    (∃ (ctl : Ctl) (p : BitVec 3) (a b : RegField) (s s' : State) (is : Issue) (id pa : Nat) (uc mod : Bool),
      is.cohort = [id] ∧ s.Idle id ∧ s.Ready is (wordInfo (.waitv ctl p a b)) (s.barred false) ∧
      deferredAt false true (s.ctx id) = none ∧
      s.waitTrap (s.ctx id) is.pc p.toNat ((s.ctx id).rd (s.now is.core) b 1).toNat = none ∧
      s.access (s.ctx id) (address (s.ctx id) (s.now is.core) a 0) 4 4 needR false .atomic = .ok pa uc mod ∧
      s.atomicTrap (s.ctx id) pa false (decide (1 < p.toNat)) (address (s.ctx id) (s.now is.core) a 0) (Nat.log2 4) = none ∧
      s.recordAccess (s.ctx id) mod false pa 4 (address (s.ctx id) (s.now is.core) a 0) = .inl s' ∧
      s.responseError (s.ctx id).core pa 4 = none) ∧
    ∃ (ctl : Ctl) (p : BitVec 3) (k a : RegField) (s : State) (is : Issue) (id pa : Nat) (uc mod : Bool),
      is.cohort = [id] ∧ s.Idle id ∧ s.Ready is (wordInfo (.notify ctl p k a)) noneBusy ∧
      deferredAt false true (s.ctx id) = none ∧ k.toNat ≤ 1 ∧
      s.access (s.ctx id) (address (s.ctx id) (s.now is.core) a 0) 4 4 needRW true .atomic = .ok pa uc mod ∧
      s.atomicTrap (s.ctx id) pa mod (decide (1 < p.toNat)) (address (s.ctx id) (s.now is.core) a 0) (Nat.log2 4 + 8) = none ∧
      s.responseError (s.ctx id).core pa 4 = none ∧
      id ∉ s.waiters (fun q => decide (q = .waitv (memKey (s.ctx id).core pa))) ∧
      s.waiters (fun q => decide (q = .waitv (memKey (s.ctx id).core pa))) ≠ [] :=
  ⟨⟨c0, 2, 2, 8, user [(2, 0x1000)], user [(2, 0x1000)], at0 [4], 4, 0x1000, false, false, by decide +kernel⟩,
    c0, 2, 0, 2, withWaiter (user [(2, 0x1000)]) (.waitv 0x1000), at0 [4], 4, 0x1000, false, false, by decide +kernel⟩

theorem test_meets_QueueLocks :
    ∀ s ∈ [user [(2, 0x1000)], { user [(2, 0x1000)] with locks := [(0x1000, 9)] },
        { user [(2, 0x1000)] with locks := [(0x1000, 4)] },
        { withWaiter (user [(2, 0x1000)]) (.qlock 0x1000 2) with locks := [(0x1000, 4)] }],
      (at0 [4]).cohort = [4] ∧ State.Idle s 4 ∧ deferredAt false true (s.ctx 4) = none ∧ (s.ctx 4).status = .running ∧
      s.access (s.ctx 4) (address (s.ctx 4) (s.now 0) 2 0) 4 4 needRW true .atomic = .ok 0x1000 false false ∧
      OffTrace 0x1000 ∧
      s.atomicTrap (s.ctx 4) 0x1000 false (decide (1 < (3 : BitVec 3).toNat)) (address (s.ctx 4) (s.now 0) 2 0)
        (Nat.log2 4 + 8) = none ∧
      s.responseError (s.ctx 4).core 0x1000 4 = none ∧
      s.Ready (at0 [4]) (wordInfo (.qlock c0 3 2)) (s.barred false) ∧
      s.waitTrap (s.ctx 4) 0x100 (3 : BitVec 3).toNat ((s.ctx 4).readV (s.now 0) 1).toNat = none ∧
      s.Ready (at0 [4]) (wordInfo (.qunlock c0 3 2)) noneBusy ∧
      (s.locks.get? 0x1000 = none ∨ s.locks.get? 0x1000 = some 9 ∨ s.locks.get? 0x1000 = some 4) := by decide +kernel

/-- A barrier object of two arrivals at scope 2, of which n are awaited, at the start of core 0's scratchpad. -/
def armed (n : Nat) : State :=
  { user pad with
    mem := tables.writeBytes 0x080000400000 (toBytes 4 n ++ toBytes 4 2 ++ toBytes 4 9)
    bars := [(0x080000400000, { remain := n, init := 2, armed := true, scope := 2 })] }

theorem test_meets_BarrierObjects :
    (∃ ctl, ∃ p : BitVec 3, ∃ k a b : RegField, ∃ s : State, ∃ is id pa uc mod, is.cohort = [id] ∧ s.Idle id ∧
      deferredAt false true (s.ctx id) = none ∧
      s.access (s.ctx id) (address (s.ctx id) (s.now is.core) a 0) 16 16 needRW true .atomic = .ok pa uc mod ∧
      OffTrace pa ∧
      s.atomicTrap (s.ctx id) pa mod false (address (s.ctx id) (s.now is.core) a 0) (Nat.log2 16 + 8) = none ∧
      s.responseError (s.ctx id).core pa 16 = none ∧
      s.Ready is (wordInfo (.binit ctl p k a b)) (s.barred false) ∧ k.toNat ≤ 1 ∧
      0 < ((s.ctx id).rd (s.now is.core) b 0).toNat ∧ ((s.ctx id).rd (s.now is.core) b 0).toNat < 2 ^ 31 ∧
      s.barWaiters (memKey (s.ctx id).core pa) = [] ∧ s.copyNames (memKey (s.ctx id).core pa) = false) ∧
    ∀ s ∈ [armed 2, withWaiter (armed 1) (.bar 0x080000400000)],
      s.Idle 4 ∧ deferredAt false true (s.ctx 4) = none ∧
      s.access (s.ctx 4) (address (s.ctx 4) (s.now 0) 2 0) 16 16 needRW true .atomic = .ok 0x080000400000 false false ∧
      OffTrace 0x080000400000 ∧
      s.atomicTrap (s.ctx 4) 0x080000400000 false false (address (s.ctx 4) (s.now 0) 2 0) (Nat.log2 16 + 8) = none ∧
      s.responseError (s.ctx 4).core 0x080000400000 16 = none ∧
      s.Ready (at0 [4]) (wordInfo (.bar c0 2 2)) noneBusy ∧
      s.waitTrap (s.ctx 4) 0x100 (2 : BitVec 3).toNat ((s.ctx 4).readV (s.now 0) 1).toNat = none ∧
      (let q := s.bars.getD (memKey 0 0x080000400000) {}
       q.armed = true ∧ q.bytes = false ∧ q.scope = (2 : BitVec 3).toNat ∧ q.damaged = [] ∧ (2 ≤ q.remain ∨
        q.remain ≤ 1 ∧ s.barWaiters 0x080000400000 = [5])) ∧
      s.barFaults.get? 0x080000400000 = none ∧ 4 ∉ s.barWaiters 0x080000400000 :=
  ⟨⟨c0, 2, 1, 2, 8, user pad, at0 [4], 4, 0x080000400000, false, false, by decide +kernel⟩, by decide +kernel⟩
theorem test_meets_WordsWithoutResult :
    (user []).Ready (at0 [4]) (wordInfo (.nop c0)) noneBusy ∧
    ((user [(2, 0xFFFFFFFF), (3, 0xFFFFFF)]).Ready (at0 [4]) (wordInfo (.pref c0 2 0)) noneBusy ∧
      ∀ id ∈ (at0 [4]).cohort, (address ((user [(2, 0xFFFFFFFF), (3, 0xFFFFFF)]).ctx id) 0 2 0).toNat <
        2 ^ (if isSteward ((user [(2, 0xFFFFFFFF), (3, 0xFFFFFF)]).ctx id).core then 52 else 56)) ∧
    ((user []).Ready (at0 [4]) (wordInfo (.fence c0 3 5)) noneBusy ∧ fenceWaits 5 (user []) (at0 [4]) = none ∧
      ∀ id ∈ (at0 [4]).cohort, deferredAt false true ((user []).ctx id) = none) ∧
    ((steward [(3, 0x08000000)]).Ready atSteward (wordInfo (.itlb c0 2)) noneBusy ∧
      storesPending (steward [(3, 0x08000000)]) atSteward = none ∧
      ∀ id ∈ atSteward.cohort, (((steward [(3, 0x08000000)]).ctx id).rdPair 0 2).toNat / 2 ^ 56 % 2 ^ 2 = 0 ∧
        (((steward [(3, 0x08000000)]).ctx id).rdPair 0 2).toNat / 2 ^ 58 % 2 ^ 2 ≠ 3) ∧
    (user []).Ready (at0 [4]) (wordInfo (.yield ⟨false, true, 0⟩)) noneBusy ∧
    (user []).Ready (at0 [4]) (wordInfo (.yield c0)) noneBusy := by
  refine ⟨?_, ?_, ?_, ?_, ?_, ?_⟩ <;> decide +kernel

/-- The control bits of a word that ends its run. -/
def ce : Ctl := ⟨false, true, 0⟩

theorem test_meets_BranchWords :
    (∃ i f, ∃ s : State, ∃ is, branches i = some f ∧ s.Ready is (wordInfo i) noneBusy ∧
      ∀ c a, i = .brx c a → ∀ id ∈ is.cohort,
        ((s.ctx id).rdPair (s.now is.core) a).toNat % 4 = 0 ∧ ((s.ctx id).rdPair (s.now is.core) a).toNat < 2 ^ 56) ∧
    (∃ i f, ∃ s : State, ∃ is, branches i = some f ∧ s.Ready is (wordInfo i) noneBusy ∧ i = .brx ce 4 ∧
      ∀ c a, i = .brx c a → ∀ id ∈ is.cohort,
        ((s.ctx id).rdPair (s.now is.core) a).toNat % 4 = 0 ∧ ((s.ctx id).rdPair (s.now is.core) a).toNat < 2 ^ 56) ∧
    (∃ ctl a, ∃ s : State, ∃ is, s.Ready is (wordInfo (.brx ctl a)) noneBusy ∧
      (∀ id ∈ is.cohort, (s.ctx id).handler = false ∧ s.handlerOf (s.ctx id) ≠ 0) ∧
      ∀ id ∈ is.cohort, ((s.ctx id).rdPair (s.now is.core) a).toNat % 4 ≠ 0) ∧
    ∃ ctl a, ∃ s : State, ∃ is, s.Ready is (wordInfo (.brx ctl a)) noneBusy ∧
      (∀ id ∈ is.cohort, (s.ctx id).handler = false ∧ s.handlerOf (s.ctx id) ≠ 0) ∧
      ∀ id ∈ is.cohort, ((s.ctx id).rdPair (s.now is.core) a).toNat % 4 = 0 ∧
        2 ^ 56 ≤ ((s.ctx id).rdPair (s.now is.core) a).toNat :=
  ⟨⟨.dbnz ce 4 0x2000, _, twins [(4, 1)] [], at0 [4, 5], rfl, by decide +kernel, nofun⟩,
    ⟨.brx ce 4, _, user [(4, 0xFFFFFFFC), (5, 0xFFFFFF)], at0 [4], rfl, by decide +kernel, rfl, by
      rintro _ _ ⟨⟩; decide +kernel⟩,
    ⟨ce, 4, user [(4, 2)], at0 [4], by decide +kernel⟩, ce, 4, user [(5, 0x1000000)], at0 [4], by decide +kernel⟩

/-- A user thread with a full return stack, and room in its thread-local region at 0x8000. -/
def fullStack : State := (user []).updCtx 4 (fun c => { c with hw := List.replicate 8 0x104, tls := 0x8000 })

/-- A user thread with one return PC in its thread-local region. -/
def spilled : State :=
  { (user []).updCtx 4 (fun c => { c with spilled := 1, kept := [8], tls := 0x8000 }) with mem := (0x8000, 0x08) :: tables }

theorem test_meets_CallsAndReturns :
    (∃ i f, ∃ s : State, ∃ is, callTarget i = some f ∧ s.Ready is (wordInfo i) noneBusy ∧
      (∀ c a, i = .callx c a → ∀ id ∈ is.cohort,
        ((s.ctx id).rdPair (s.now is.core) a).toNat % 4 = 0 ∧ ((s.ctx id).rdPair (s.now is.core) a).toNat < 2 ^ 56) ∧
      ∀ id ∈ is.cohort, (s.ctx id).hw.length < 8) ∧
    (∃ i f, ∃ s : State, ∃ is id pa uc mod, callTarget i = some f ∧ s.Ready is (wordInfo i) noneBusy ∧
      (∀ c a, i = .callx c a → ∀ id ∈ is.cohort,
        ((s.ctx id).rdPair (s.now is.core) a).toNat % 4 = 0 ∧ ((s.ctx id).rdPair (s.now is.core) a).toNat < 2 ^ 56) ∧
      is.cohort = [id] ∧ (s.ctx id).hw.length = 8 ∧ (s.ctx id).spilled < s.spillDepth (s.ctx id) ∧
      s.access (s.ctx id) ((s.ctx id).tls + BitVec.ofNat 64 (8 * (s.ctx id).spilled)) 8 8 needW true .plain =
        .ok pa uc mod) ∧
    (∃ ctl, ∃ s : State, ∃ is, s.Ready is (wordInfo (.ret ctl)) noneBusy ∧
      ∀ id ∈ is.cohort, ∃ v l, (s.ctx id).hw = v :: l ∧ v.toNat % 4 = 0) ∧
    ∃ ctl, ∃ s : State, ∃ is id pa uc mod, s.Ready is (wordInfo (.ret ctl)) noneBusy ∧ is.cohort = [id] ∧
      (s.ctx id).hw = [] ∧ 0 < (s.ctx id).spilled ∧
      s.access (s.ctx id) ((s.ctx id).tls + BitVec.ofNat 64 (8 * ((s.ctx id).spilled - 1))) 8 8 needR false .plain =
        .ok pa uc mod ∧
      s.responseError (s.ctx id).core pa 8 = none ∧ s.Idle id ∧
      (s.ctx id).kept.head? = some (BitVec.ofNat 64 (s.physNat (s.ctx id).core pa 8)) ∧
      (BitVec.ofNat 64 (s.physNat (s.ctx id).core pa 8) : DWord).toNat % 4 = 0 :=
  ⟨⟨.callx ce 4, _, user [(4, 8)], at0 [4], rfl, by decide +kernel, by rintro _ _ ⟨⟩; decide +kernel, by decide +kernel⟩,
    ⟨.call ce 40, _, fullStack, at0 [4], 4, 0x8000, false, false, rfl, by decide +kernel, nofun, by decide +kernel⟩,
    ⟨ce, fullStack, at0 [4], by decide +kernel, by
      intro id h; rcases List.mem_singleton.mp h with rfl; exact ⟨0x104, List.replicate 7 0x104, by decide +kernel⟩⟩,
    ce, spilled, at0 [4], 4, 0x8000, false, false, by decide +kernel⟩

theorem test_meets_TrapAndReturn :
    (ce.e = true ∧ (twins [] []).Ready (at0 [4, 5]) (wordInfo (.trap ce 63)) noneBusy ∧
      ∀ id ∈ (at0 [4, 5]).cohort, ((twins [] []).ctx id).handler = false ∧
        (twins [] []).handlerOf ((twins [] []).ctx id) ≠ 0) ∧
    (twins [] []).Ready (at0 [4, 5]) (wordInfo (.tret ce)) noneBusy ∧
    ∀ id ∈ (at0 [4, 5]).cohort, ((twins [] []).ctx id).tpc.toNat % 4 = 0 ∧
      (∀ e ∈ ((twins [] []).ctx id).early, e.tgt ≠ .sp 0x40 ∧ e.tgt ≠ .sp 0x41) ∧
      ∀ k, (twins [] []).launches.get? ((twins [] []).block ((twins [] []).ctx id).block).launch = some k →
        id ∉ k.deadlocked := by
  refine ⟨by decide +kernel, by decide +kernel, ?_⟩
  intro id h
  simp only [at0, List.mem_cons, List.not_mem_nil, or_false] at h
  rcases h with rfl | rfl <;> exact ⟨by decide +kernel, by decide +kernel, by rintro _ ⟨⟩; decide +kernel⟩

/-- The user thread in its handler. -/
def handling : State := (user []).updCtx 4 (fun c => { c with handler := true })

theorem test_meets_TrapWithoutHandler :
    (∃ (s : State) (id : Nat), (s.ctxs.get? id).isSome = true ∧ ((s.ctx id).handler = true ∨ s.handlerOf (s.ctx id) = 0) ∧
      isSteward (s.ctx id).core = true) ∧
    ∃ (s : State) (id : Nat), ∃ l, (s.ctxs.get? id).isSome = true ∧
      ((s.ctx id).handler = true ∨ s.handlerOf (s.ctx id) = 0) ∧ isSteward (s.ctx id).core = false ∧
      s.launches.get? (s.block (s.ctx id).block).launch = some l ∧ l.prop = none ∧ l.ending = none ∧ l.gang = none ∧
      s.blocks.get? (s.ctx id).block ≠ none ∧ id ∉ l.deadlocked :=
  ⟨⟨steward [], 0, by decide +kernel⟩,
    handling, 4, { kernel := placedKernel, handler := 0x2000, dispatched := 1 }, by decide +kernel⟩

/-- The same after a firing of the deadlock check in which these threads trapped. -/
def fired (l : List Nat) : State :=
  handling.updLaunch 1 (fun q => { q with deadlocked := l, deadlock := some ⟨2, 0x280, 0, 0, 0x100, 0⟩ })

theorem test_meets_TrapWithoutHandler_fired :
    ∀ l ∈ [[4], [4, 5]], let s := fired l; let q := s.launches.getD 1 {}
      (s.ctxs.get? 4).isSome = true ∧ (s.ctx 4).handler = true ∧ isSteward (s.ctx 4).core = false ∧
      s.launches.get? (s.block (s.ctx 4).block).launch = some q ∧ q.prop = none ∧ q.ending = none ∧ q.gang = none ∧
      s.blocks.get? (s.ctx 4).block ≠ none ∧ 4 ∈ q.deadlocked ∧ ((∃ u ∈ q.deadlocked, u ≠ 4) ∨ q.deadlocked = [4]) := by
  decide +kernel

theorem test_meets_ExitWord :
    ce.e = true ∧ (user []).Ready (at0 [4]) (wordInfo (.exit ce 8)) noneBusy ∧ storesPending (user []) (at0 [4]) = none ∧
    deferredAt true true ((user []).ctx 4) = none ∧
    ((user []).isTraced ((user []).ctx 4) = true → 6 ≤ (8 : BitVec 4).toNat ∧ (8 : BitVec 4).toNat ≤ 8) ∧
    (user []).exitPending ((user []).ctx 4) 4 = none ∧ (user []).closingFull ((user []).ctx 4) 4 0x100 = none ∧
    ((user []).group (groupKey 0 0)).arrived = [] ∧
    (user []).NoneWait (fun p => match p with | .regrp _ => true | _ => false) ∧
    ∀ k, (user []).launches.get? ((user []).block ((user []).ctx 4).block).launch = some k → 4 ∉ k.deadlocked :=
  ⟨rfl, by decide +kernel, by decide +kernel, by decide +kernel, by decide +kernel, by decide +kernel, by decide +kernel,
    by decide +kernel, by decide +kernel, by rintro _ ⟨⟩; decide +kernel⟩

/-- Two threads of which one issues; the group's rejoin mask 7 names both lanes, or only the first. -/
def joining (mask : Word) : State :=
  { (twins [] []).updGroup 0 (fun g => { g with rj := [(7, mask)] }) with issue := some (at0 [4]) }

theorem test_meets_RejoinMasks :
    ((user [(4, 3)]).Ready (at0 [4]) (wordInfo (.joinset c0 7 4)) noneBusy ∧
      ((user []).group (at0 [4]).key).arrived.getD (7 : BitVec 3).toNat 0 = 0) ∧
    ∀ s ∈ [joining 3, joining 1], s.Ready (at0 [4]) (wordInfo (.join ce 7)) noneBusy ∧
      ∀ id ∈ (at0 [4]).cohort, id ∈ (s.group (at0 [4]).key).members ∧ (s.ctx id).lane < 32 ∧
        ((s.group (at0 [4]).key).rj.getD (7 : BitVec 3).toNat 0).getLsbD (s.ctx id).lane = true := by decide +kernel

theorem test_meets_RegroupWord :
    ((joining 0).Ready (at0 [4]) (wordInfo (.regrp ce 4)) noneBusy ∧
      (joining 0).waitTrap ((joining 0).ctx 4) 0x100 1 0 = none ∧ 0 ∈ (joining 0).participants 1 0 ∧
      5 ∈ ((joining 0).group 0).members ∧ ((joining 0).ctx 5).live = true ∧ 5 ∉ (at0 [4]).cohort ∧
      ((joining 0).ctx 5).parkKind = none) ∧
    (twins [] []).Ready (at0 [4, 5]) (wordInfo (.regrp ce 4)) noneBusy ∧
    (twins [] []).waitTrap ((twins [] []).ctx 4) 0x100 1 0 = none ∧ (twins [] []).participants 1 0 = [(at0 [4, 5]).key] ∧
    ((twins [] []).group 0).saved = none ∧
    (∀ id ∈ (at0 [4, 5]).cohort, ((twins [] []).ctx id).lane < 32 ∧
      (twins [] []).memberAt ((twins [] []).group 0) ((twins [] []).ctx id).lane = some id) ∧
    (∀ m ∈ ((twins [] []).group 0).members, m ∈ (at0 [4, 5]).cohort ∨ ((twins [] []).ctx m).live = false) ∧
    (∀ p ∈ ((twins [] []).group 0).rj, p.2 = 0) ∧ ∀ p ∈ ((twins [] []).block 1).cv, p.2.signed = [] := by decide +kernel

/-- Two groups of the block: thread 4 alone in the first, in the second thread 5, which waits with key 3, and an exited one. -/
def regrouping : State :=
  { user [(4, 5)] with
    ctxs := [(4, { block := 1, pc := 0x100, v := [(4, 5)] }),
      (5, { block := 1, pc := 0x100, slot := 1, tid := 32, status := .parked (.regrp 3) 0 1 0 }),
      (6, { block := 1, pc := 0x100, slot := 1, lane := 1, tid := 33, status := .exited })]
    groups := [(0, { block := 1, alloc := 256, members := [4] }), (1, { block := 1, alloc := 256, index := 1, slot := 1, members := [5, 6] })] }

theorem test_meets_RegroupWord_sorts :
    let s := regrouping; let ps := s.participants 1 0; let all := ps.flatMap (fun g => (s.group g).members)
    s.Ready (at0 [4]) (wordInfo (.regrp ce 4)) noneBusy ∧ s.waitTrap (s.ctx 4) 0x100 1 0 = none ∧ ps = [0, 1] ∧
    (∀ g ∈ ps, (s.group g).saved = none ∧ (s.group g).alloc = (s.group 0).alloc ∧ (∀ p ∈ (s.group g).rj, p.2 = 0) ∧
      ∀ m ∈ (s.group g).members, (s.ctxs.get? m).isSome = true ∧ (s.ctx m).lane < 32 ∧ (s.ctx m).slot = g % 128 ∧
        (∀ n ∈ (s.group g).members, (s.ctx n).lane = (s.ctx m).lane → n = m) ∧
        (m ∈ (at0 [4]).cohort ∨ (s.ctx m).live = false ∨ (s.ctx m).parkKind = some (.regrp 3))) ∧
    all.Nodup ∧ (∀ id ∈ (at0 [4]).cohort, id ∈ all) ∧ ∀ p ∈ (s.block 1).cv, p.2.signed = [] := by
  intro s ps all
  exact ⟨by decide +kernel, by decide +kernel, by decide +kernel, by decide +kernel, by decide +kernel, by decide +kernel,
    by decide +kernel⟩

/-- The user thread's group with an allocation, and a grant queue of its core. -/
def pooled (alloc : Nat) (q : List (Nat × Nat)) : State :=
  { (user []).updGroup 0 (fun g => { g with alloc := alloc }) with cores := [(0, { growQ := q, freeRows := 16 })] }

theorem test_meets_RegisterPool :
    (∀ s ∈ [pooled 8 [], pooled 8 [(1, 32)], pooled 252 []], (at0 [4]).slot < 128 ∧ wholeGroup s (at0 [4]) = true ∧
      (∀ id ∈ (at0 [4]).cohort, id ∈ (s.group (at0 [4]).key).members) ∧
      s.Ready (at0 [4]) (wordInfo (.grow ce 1)) noneBusy ∧ (s.group (at0 [4]).key).alloc + 4 ≤ 256 ∧
      ((s.core 0).growQ = [] ∧ 4 ≤ s.budget 0 (s.groupLaunch 0) ∨ s.budget 0 (s.groupLaunch 1) < 32) ∧
      s.Ready (at0 [4]) (wordInfo (.grow ce 0)) noneBusy ∧ s.Ready (at0 [4]) (wordInfo (.growt ce 4 1)) noneBusy ∧
      (∀ id ∈ (at0 [4]).cohort, (s.ctx id).resolve (s.now 0) 4 < (s.group (at0 [4]).key).alloc)) ∧
    wholeGroup (pooled 12 []) (at0 [4]) = true ∧ (pooled 12 []).Ready (at0 [4]) (wordInfo (.shrink ce 1)) noneBusy ∧
    4 * (1 : RegField).toNat + 8 ≤ ((pooled 12 []).group 0).alloc ∧
    (pooled 12 []).Ready (at0 [4]) (wordInfo (.shrink ce 0)) noneBusy := by
  refine ⟨?_, ?_, ?_, ?_, ?_⟩ <;> decide +kernel

/-- A load to register 10 and a copy to register 11 are in flight, which a SHRINK of a group of 12 to 8 leaves behind. -/
def shrinking : State :=
  { pooled 12 [] with
    ops := [(0, { ctx := 4, block := 1, launch := 1, dst := [10], kind := .load 0x1000 4 false }),
      (1, { ctx := 4, block := 1, launch := 1, kind := .copy ⟨0x4000, 0x5000, 4, 1, 0, 0, 0, 5, 0, 0, [(0x6000, 4, 11)]⟩ })]
    nextOp := 2 }

theorem test_meets_RegisterPool_none : ∀ s ∈ [pooled 8 [], pooled 8 [(1, 32)]],
    wholeGroup s (at0 [4]) = true ∧ s.Ready (at0 [4]) (wordInfo (.growt ce 4 0)) noneBusy ∧
      ((s.core 0).growQ = [] ∨ (s.core 0).growQ = [(1, 32)]) := by decide +kernel

theorem test_meets_RegisterPool_flights :
    let s := shrinking
    wholeGroup s (at0 [4]) = true ∧ s.Ready (at0 [4]) (wordInfo (.shrink ce 1)) noneBusy ∧ 4 * 1 + 8 ≤ (s.group 0).alloc ∧
    (∃ q ∈ (s.ops.getD 0 {}).dst, 4 ∈ (s.group 0).members ∧ (s.group 0).alloc - 4 ≤ q) ∧
    ∀ p ∈ s.ops, p.1 < s.nextOp := by
  intro s
  exact ⟨by decide +kernel, by decide +kernel, by decide +kernel, by decide +kernel, by decide +kernel⟩

theorem test_meets_WaitForEvent :
    ∀ s ∈ [steward [], (steward []).updSteward 0 (fun w => { w with latch := true })],
      atSteward.cohort = [0] ∧ (s.ctx 0).core = 192 + 0 ∧ s.Ready atSteward (wordInfo (.wfe ce)) noneBusy := by
  decide +kernel

/-! ### Matrix words -/

/-- A tile descriptor of FP32 elements (Table 16.2). -/
def td (base space rows cols stride : Nat) : List Word :=
  [BitVec.ofNat 32 base, BitVec.ofNat 32 (space * 2 ^ 16), BitVec.ofNat 32 (rows + cols * 2 ^ 16), BitVec.ofNat 32 stride]

/-- Descriptors 1 to 3 of a product of 2 × 16 by 2 × 16, 4 of its drain, 5 in virtual memory, 6 in registers beside 7; record 0 of the
weight buffer. -/
def tiles : Store (List Word) :=
  [(1, td 0 1 2 16 64), (2, td 0 3 2 16 64), (3, td 0 4 2 2 0), (4, td 0x200 1 2 2 8), (5, td 0x4000 0 2 2 8), (6, td 8 5 1 2 0),
    (7, td 0 4 1 2 0),
    (31, [0, 0x40000, 0x10001, 0])]

/-- The words of a reservation record of the weight buffer. -/
def weightRecord : List Word := [0x80000000, 1024, 0, 0]

/-- Thread 4, with another in lane 1, in a block with tiles and a scratchpad share; convergence register 15 names the
lanes of a mask. -/
def matrix (v : Store Word) (lanes : Word) : State :=
  { (twins v []).updBlock 1 (fun b => { b with
      kernel := { placedKernel with scratch := 0x1000 }
      td := tiles, recs := [(0, weightRecord)], cv := [(15, { declared := true, core := 0, groups := 1, lanes := lanes })] })
    with issue := some (at0 [4]) }

/-- The packed values of the product and of the drain. -/
def product : Word := 0x00200C41
/-- The same. -/
def drained : Word := 0x00000083

theorem test_meets_TileDescriptors :
    ((matrix [(4, 0x100), (5, 0x20010000), (6, 0x10001), (7, 0x80000040)] 1).Ready (at0 [4]) (wordInfo (.tdset c0 31 4)) noneBusy ∧
      ((matrix [] 1).blocks.get? ((matrix [] 1).ctx 4).block).isSome = true ∧
      (31 : BitVec 5).toNat < (issuing (matrix [] 1) (at0 [4])).kernel.tiles ∧
      tileIllegal (sourceWords (matrix [(4, 0x100), (5, 0x00050000), (6, 0x10001), (7, 0x80000040)] 1) (at0 [4]) 4 4) = false) ∧
    (matrix [] 1).Ready (at0 [4]) (wordInfo (.tdget c0 4 31)) noneBusy ∧
    ((issuing (matrix [] 1) (at0 [4])).td.getD (31 : BitVec 5).toNat [0, 0, 0, 0]).length = 4 := by decide +kernel

theorem test_meets_ConvergenceRegisters :
    (∃ ctl a, ∃ v : BitVec 4, ∃ s : State, ∃ is, s.Ready is (wordInfo (.cvset ctl a v)) noneBusy ∧
      (s.blocks.get? (s.ctx (is.cohort.headD 0)).block).isSome = true ∧ v.toNat < (issuing s is).kernel.cvs ∧
      ((issuing s is).conv v.toNat).signed = [] ∧
      (((issuing s is).conv v.toNat).declared = true → ((issuing s is).conv v.toNat).core = is.core) ∧ s.convBusy (s.ctx (is.cohort.headD 0)).block v.toNat = false ∧
      (sourceWords s is a 5).getD 3 0 ++ (sourceWords s is a 5).getD 2 0 ++ (sourceWords s is a 5).getD 1 0 ++
        (sourceWords s is a 5).getD 0 0 = (1 : BitVec 128) ∧ (sourceWords s is a 5).getD 4 0 ≠ 0 ∧
      ∃ x, s.groups.get? (is.core * 128 + 0) = some x ∧ x.block = (s.ctx (is.cohort.headD 0)).block) ∧
    (user []).Ready (at0 [4]) (wordInfo (.ofence c0)) noneBusy ∧
    (at0 [4]).cohort.findSome? (user []).oldestWrite = none :=
  ⟨⟨c0, 4, 15, matrix [(4, 1), (8, 0x80000000)] 1, at0 [4], by decide +kernel, by decide +kernel, by decide +kernel,
      by decide +kernel, by decide +kernel, by decide +kernel, by decide +kernel, by decide +kernel,
      { block := 1, alloc := 256, members := [4, 5] }, by decide +kernel⟩, by decide +kernel⟩

theorem test_meets_MatrixSignatures :
    ∀ s ∈ [matrix [(4, product)] 1, matrix [(4, product)] 3],
      s.Ready (at0 [4]) (wordInfo (.mma c0 0 4 15)) noneBusy ∧ queueFull 15 s (at0 [4]) = none ∧
      (s.blocks.get? (s.ctx 4).block).isSome = true ∧ 15 < (s.block 1).kernel.cvs ∧
      ((s.block 1).conv 15).has (s.ctx 4) = true ∧ 4 ∉ ((s.block 1).conv 15).signed ∧ ((s.block 1).conv 15).signed = [] ∧
      checkMma s (s.block 1) (s.signerSet 1 ((s.block 1).conv 15)) ((s.ctx 4).rd 0 4 0) 0 = none := by decide +kernel

theorem test_meets_MatrixSignatures_drain :
    ∀ s ∈ [matrix [(4, drained)] 1, matrix [(4, drained)] 3],
      s.Ready (at0 [4]) (wordInfo (.mdrain c0 0 4 15)) noneBusy ∧ queueFull 15 s (at0 [4]) = none ∧
      (s.blocks.get? (s.ctx 4).block).isSome = true ∧ 15 < (s.block 1).kernel.cvs ∧
      ((s.block 1).conv 15).has (s.ctx 4) = true ∧ ((s.block 1).conv 15).signed = [] ∧
      checkDrain s (s.block 1) (s.signerSet 1 ((s.block 1).conv 15)) ((s.ctx 4).rd 0 4 0) 0 = none ∧
      s.traceDrain (s.ctx 4) 0x100 ((s.block 1).tile (drainTiles ((s.ctx 4).rd 0 4 0)).2) (decide (0 % 2 = 1)) = .inl s := by
  decide +kernel

/-- Thread 4 has signed under register 15, and thread 5 has yet to. -/
def halfSigned : State :=
  (matrix [] 3).updBlock 1 (fun b => { b with cv := [(15, { declared := true, core := 0, groups := 1, lanes := 3, signed := [4] })] })

/-- An operation thread 4 has signed is in flight. -/
def inFlight : State :=
  { matrix [] 1 with ops := [(0, { block := 1, kind := .matrix ⟨false, 15, [4], 0, [], [], [], [], 0, 0, [], [], [], []⟩ })], nextOp := 1 }

/-- An operation thread 4 has signed has completed, with one result for it. -/
def seenNext : State :=
  (matrix [] 1).updBlock 1 (fun b => { b with unseen :=
    [⟨⟨true, 15, [4], 0, [], [], [], [], 0, 0, [], [], [], [(4, 9, 0)]⟩, [4], [(4, 9, 0x3F800000), (5, 9, 0x40000000)], true⟩] })

theorem test_meets_MatrixWait :
    (∀ s ∈ [matrix [] 1, halfSigned, inFlight, seenNext], s.Ready (at0 [4]) (wordInfo (.mwait ce 15)) noneBusy ∧
      15 < (s.block 1).kernel.cvs ∧ ((s.block 1).conv 15).has (s.ctx 4) = true) ∧
    (∀ s ∈ [matrix [] 1, seenNext], 4 ∉ ((s.block 1).conv 15).signed ∧ s.waitsOp 4 1 15 = false ∧
      (s.block 1).errorFor 4 15 = none) ∧
    ((∃ u, (seenNext.block 1).unseen.filter (fun u => decide (u.mat.cv = 15) && u.waiters.contains 4) = [u] ∧
      seenNext.touched 4 u.mat = [] ∧ u.regs.filter (fun r => r.1 = 4) = [(4, 9, 0x3F800000)]) ∧
      ((matrix [] 1).block 1).unseen = [] ∧ ((matrix [] 1).blocks.get? 1).isSome = true) ∧
    (4 ∈ ((halfSigned.block 1).conv 15).signed ∧
      halfSigned.waitTrap (halfSigned.ctx 4) 0x100 ((halfSigned.block 1).conv 15).scope 0 = none) ∧
    4 ∉ ((inFlight.block 1).conv 15).signed ∧ inFlight.waitsOp 4 1 15 = true :=
  ⟨by decide +kernel, by decide +kernel, ⟨⟨_, rfl, by decide +kernel, rfl⟩, by decide +kernel⟩, by decide +kernel⟩

theorem test_meets_ReservationRecords :
    (∃ ctl, ∃ n a : RegField, ∃ s : State, ∃ is, s.Ready is (wordInfo (.obres ctl n a)) noneBusy ∧
      (s.blocks.get? (s.ctx (is.cohort.headD 0)).block).isSome = true ∧ recordIllegal (sourceWords s is a 4) = false ∧
      ((recordFields (sourceWords s is a 4)).fmt = 9 → (recordFields (sourceWords s is a 4)).blen = 64) ∧
      (issuing s is).recs.get? n.toNat = none ∧ n.toNat < (issuing s is).kernel.recs ∧
      recordRange (recordFields (sourceWords s is a 4)) = false ∧
      ∀ x ∈ s.blocks, x.2.cores.contains is.core = true → x.2.failed = none → x.2.saved = none → ∀ e ∈ x.2.recs,
        (recordFields e.2).weight = (recordFields (sourceWords s is a 4)).weight →
        overlaps ((recordFields e.2).base, (recordFields e.2).len)
          ((recordFields (sourceWords s is a 4)).base, (recordFields (sourceWords s is a 4)).len) = false) ∧
    (matrix [] 1).Ready (at0 [4]) (wordInfo (.obrel c0 0)) noneBusy ∧
    (0 : RegField).toNat < (issuing (matrix [] 1) (at0 [4])).kernel.recs ∧
    (matrix [] 1).recordBusy ((matrix [] 1).ctx 4).block (0 : RegField).toNat = none :=
  ⟨⟨c0, 15, 4, matrix [(4, 0x80000400), (5, 0x7FC00)] 1, at0 [4], by decide +kernel⟩, by decide +kernel⟩

/-- A thread's plain access of z bytes lands at pa, with nothing recorded and no error response. -/
def lands (s : State) (c : Ctx) (need : Need) (w : Bool) (z : Nat) (ea : DWord) (pa : Nat) : Bool :=
  (match s.access c ea z z need w .plain with
  | .ok p _ m => decide (p = pa) && (!m || decide (s.recordOf c = none))
  | _ => false) && (s.responseError c.core pa z).isNone

theorem lands_spec {s : State} {c : Ctx} {need : Need} {w : Bool} {z : Nat} {ea : DWord} {pa : Nat}
    (h : lands s c need w z ea pa = true) : s.responseError c.core pa z = none ∧
      ∃ uc mod, (mod = false ∨ s.recordOf c = none) ∧ s.access c ea z z need w .plain = .ok pa uc mod := by
  unfold lands at h
  rw [Bool.and_eq_true, Option.isNone_iff_eq_none] at h
  refine ⟨h.2, ?_⟩
  have := h.1
  split at this
  · next p uc m e =>
    simp only [Bool.and_eq_true, decide_eq_true_eq, Bool.or_eq_true, Bool.not_eq_true'] at this
    exact ⟨uc, m, this.2, by rw [e, this.1]⟩
  · cases this

theorem test_meets_WeightLoads :
    ∀ s ∈ [matrix [(4, 0xF40), (6, 64), (7, 1)] 1, matrix [(4, 0x4000), (6, 64)] 1],
      s.Ready (at0 [4]) (wordInfo (.wbload c0 2 4)) (s.barred false) ∧ s.Idle 4 ∧ 2 < (issuing s (at0 [4])).kernel.tiles ∧
      checkB s (issuing s (at0 [4])) 2 = none ∧ fmtBytes ((issuing s (at0 [4])).tile 2).fmt = 4 ∧
      ((issuing s (at0 [4])).tile 2).rows = 2 ∧ ((issuing s (at0 [4])).tile 2).rowBytes = 64 ∧
      s.rangeBusy 0 ((issuing s (at0 [4])).recordOf ((issuing s (at0 [4])).tile 2)) = none := by decide +kernel

theorem test_meets_WeightLoads_rows :
    (∀ i, i < 2 → (∀ o, o < 64 → 0xF40 + i * 64 + o < (issuing (matrix [] 1) (at0 [4])).kernel.scratch ∧
      (matrix [] 1).hasEcc 0 (scratchBase 0 + (0xF40 + i * 64 + o)) 1 = false) ∧ (0xF40 + i * 64 + 0) % 4 = 0) ∧
    let s := matrix [(4, 0x4000), (6, 64)] 1
    ∀ i, i < 2 → ∀ e, e * 4 < 64 → ∃ uc mod, (mod = false ∨ s.recordOf (s.ctx 4) = none) ∧
      s.access (s.ctx 4) (BitVec.ofNat 64 (0x4000 + i * 64 + e * 4)) 4 4 needR false .plain =
        .ok (0x4000 + i * 64 + e * 4) uc mod ∧ s.responseError (s.ctx 4).core (0x4000 + i * 64 + e * 4) 4 = none := by
  refine ⟨by decide +kernel, ?_⟩
  intro s i hi e he
  have : ∀ i, i < 2 → ∀ e, e < 16 → lands s (s.ctx 4) needR false 4 (BitVec.ofNat 64 (0x4000 + i * 64 + e * 4))
      (0x4000 + i * 64 + e * 4) = true := by decide +kernel
  obtain ⟨r, uc, mod, m, a⟩ := lands_spec (this i hi e (by omega))
  exact ⟨uc, mod, m, a, r⟩

/-- The elements of a tile lie where a list says, decided. -/
def reachesB (s : State) (c : Ctx) (b : Block) (core : Nat) (T : Tile) (need : Need) (w : Bool) (l : List (Nat × Bool)) : Bool :=
  let z := fmtBytes T.fmt
  decide (l.length = T.rows * (T.rowBytes / z)) && (List.range T.rows).all (fun i => (List.range (T.rowBytes / z)).all (fun j =>
    match l[i * (T.rowBytes / z) + j]? with
    | some (pa, mod) => if T.space = 0 then (s.responseError c.core pa z).isNone &&
        (match s.access c (BitVec.ofNat 64 (tileOffset T i j)) z z need w .plain with
        | .ok p _ m => decide (p = pa) && decide (m = mod)
        | _ => false)
      else !mod && decide (pa = (if T.space = 1 then scratchBase b.scratchCore + b.scratchOff else obBase core) + tileOffset T i j)
    | none => false))

theorem reaches_of {s : State} {c : Ctx} {b : Block} {core : Nat} {T : Tile} {need : Need} {w : Bool} {l : List (Nat × Bool)}
    (h : reachesB s c b core T need w l = true) : Reaches s c b core T need w l := by
  unfold reachesB at h
  simp only [Bool.and_eq_true, decide_eq_true_eq, List.all_eq_true, List.mem_range] at h
  refine ⟨h.1, fun i j hi hj => ?_⟩
  have := h.2 i hi j hj
  split at this
  · next pa mod e =>
    refine ⟨pa, mod, e, ?_⟩
    split at this
    · next h0 =>
      rw [if_pos h0]
      rw [Bool.and_eq_true, Option.isNone_iff_eq_none] at this
      refine ⟨this.1, ?_⟩
      have := this.2
      split at this
      · next p uc m e =>
        simp only [Bool.and_eq_true, decide_eq_true_eq] at this
        exact ⟨uc, by rw [e, this.1, this.2]⟩
      · cases this
    · next h0 =>
      rw [if_neg h0]
      simpa only [Bool.and_eq_true, decide_eq_true_eq, Bool.not_eq_true'] using this
  · cases this

/-- Words of SACL and SACS: key 7, tile 2 at step 5, input descriptor 1 and output descriptor 5, and θ = 0.5. -/
def sacBlock : Store Word := [(4, 7), (5, 0x00020005), (6, 0xA1), (7, 0x3F000000)]

/-- An entry for them, of the step before. -/
def sacEntry : SacEntry :=
  { part := 0, key := 7, tile := 2, step := 4, replays := 2, inTd := td 0 1 2 16 64, outTd := td 0x4000 0 2 2 8
    inData := [0, 0, 0x80, 0x3F] ++ List.replicate 124 0, outData := List.replicate 16 1, used := 0 }

/-- The block's input is 1.0 in its first element. -/
def sacMachine : State :=
  { matrix sacBlock 1 with mem := tables ++ [(scratchBase 0 + 2, 0x80), (scratchBase 0 + 3, 0x3F)] }

/-- Where the input lies in the scratchpad. -/
def sacInput : List (Nat × Bool) :=
  (List.range 2).flatMap (fun i => (List.range 16).map (fun j => (scratchBase 0 + i * 64 + j * 4, false)))

/-- Where the output lies in memory. -/
def sacOutput : List (Nat × Bool) := [(0x4000, false), (0x4004, false), (0x4008, false), (0x400C, false)]

theorem test_meets_StepActivationCache :
    ∀ s ∈ [sacMachine, { sacMachine with sac := [(3, sacEntry)] },
        sacMachine.updPart 0 (fun p => { p with sacShare := 16 })],
      s.Idle 4 ∧ s.isRestart (s.ctx 4) = false ∧
      sacCheck s (issuing s (at0 [4])) (s.ctx 4) (sourceWords s (at0 [4]) 4 4) 0x100 = none ∧
      (s.launches.get? (issuing s (at0 [4])).launch).isSome = true ∧
      (Rules.sacWords s (at0 [4]) 4).input = td 0 1 2 16 64 ∧ (Rules.sacWords s (at0 [4]) 4).output = td 0x4000 0 2 2 8 ∧
      s.Ready (at0 [4]) (wordInfo (.sacl c0 8 4)) (s.barred false) ∧ s.Ready (at0 [4]) (wordInfo (.sacs c0 4)) (s.barred false) := by
  decide +kernel

theorem test_meets_StepActivationCache_tiles :
    ∀ s ∈ [sacMachine, { sacMachine with sac := [(3, sacEntry)] },
        sacMachine.updPart 0 (fun p => { p with sacShare := 16 })],
      Reaches s (s.ctx 4) (issuing s (at0 [4])) 0 (tileOf (td 0 1 2 16 64)) needR false sacInput ∧
      Reaches s (s.ctx 4) (issuing s (at0 [4])) 0 (tileOf (td 0x4000 0 2 2 8)) needW true sacOutput ∧
      Reaches s (s.ctx 4) (issuing s (at0 [4])) 0 (tileOf (td 0x4000 0 2 2 8)) needR false sacOutput := by
  have : ∀ s ∈ [sacMachine, { sacMachine with sac := [(3, sacEntry)] },
        sacMachine.updPart 0 (fun p => { p with sacShare := 16 })],
      reachesB s (s.ctx 4) (issuing s (at0 [4])) 0 (tileOf (td 0 1 2 16 64)) needR false sacInput = true ∧
      reachesB s (s.ctx 4) (issuing s (at0 [4])) 0 (tileOf (td 0x4000 0 2 2 8)) needW true sacOutput = true ∧
      reachesB s (s.ctx 4) (issuing s (at0 [4])) 0 (tileOf (td 0x4000 0 2 2 8)) needR false sacOutput = true := by
    decide +kernel
  exact fun s h => ⟨reaches_of (this s h).1, reaches_of (this s h).2.1, reaches_of (this s h).2.2⟩

theorem test_meets_StepActivationCache_hit :
    (let s : State := { sacMachine with sac := [(3, sacEntry)] }
     s.sacKept sacEntry = true ∧ s.sacFind (s.partOf (s.ctx 4)) 7 2 = some (3, sacEntry) ∧ sacEntry.step = (5 + 65535) % 2 ^ 16 ∧
       sacEntry.replays < (s.launchFor (s.ctx 4)).replay ∧ sameShape sacEntry.inTd (td 0 1 2 16 64) = true ∧
       sameShape sacEntry.outTd (td 0x4000 0 2 2 8) = true ∧
       assay 0x3F000000 (sacValues (tileOf (td 0 1 2 16 64)) (s.elemBytes 4 4 sacInput))
         (sacValues (tileOf (td 0 1 2 16 64)) sacEntry.inData) = true ∧
       ∀ p ∈ sacOutput, p.2 = false ∧ InMemory p.1 4 ∧ Unguarded s p.1 4 ∧ NotMatrix s 4 p.1 4) ∧
    sacMachine.sacFind 0 7 2 = none ∧ ((sacMachine.updPart 0 (fun p => { p with sacShare := 16 })).parts.getD 0 {}).sacShare ≠ 0 ∧
    (sacMachine.parts.getD 0 {}).sacShare = 0 := by
  refine ⟨⟨by decide +kernel, by decide +kernel, by decide +kernel, by decide +kernel, by decide +kernel, by decide +kernel,
    by decide +kernel, ?_⟩, by decide +kernel⟩
  intro p hp
  simp only [sacOutput, List.mem_cons, List.not_mem_nil, or_false] at hp
  rcases hp with rfl | rfl | rfl | rfl <;>
    exact ⟨rfl, inMemory_of _ _ (by decide +kernel), unguarded_of _ _ _ (by decide +kernel),
      notMatrix_of _ _ _ _ (by decide +kernel) (by decide +kernel)⟩

/-- An entry whose 64 KiB of the data region at 0x100000 no longer hold what it left there. -/
theorem test_meets_StepActivationCache_overwritten :
    let e := { sacEntry with place := 1, leftIn := [1] }
    let s : State := { sacMachine.updPart 0 (fun p => { p with sacShare := 16, sacRegion := 0x100000 }) with sac := [(3, e)] }
    s.sacFind (s.partOf (s.ctx 4)) 7 2 = some (3, e) ∧ s.sacKept e = false ∧ e.step = (5 + 65535) % 2 ^ 16 ∧
      e.replays < (s.launchFor (s.ctx 4)).replay ∧ (∀ q ∈ s.sac, q.2.place < 16) ∧ (s.sacOf 0).length ≤ 16 := by
  decide +kernel

/-- A restored entry whose input fails the assay, where θ is 0. -/
theorem test_meets_StepActivationCache_assay :
    assay 0 (sacValues (tileOf (td 0 1 2 16 64)) (sacMachine.elemBytes 4 4 sacInput))
      (sacValues (tileOf (td 0 1 2 16 64)) (List.replicate 128 0)) = false := by decide +kernel

/-- The words of a TWALK of one level over 16 elements: the token at 0x4000, the tree at 0x5000 with nodes of 36 bytes, and
the address of the logits. -/
def walkBlock (logit : Word) : Store Word := [(8, 0x4000), (10, 0x5000), (12, 0x01000010), (13, 36), (14, logit)]

theorem test_meets_TreeWalk :
    ∀ s ∈ [user (walkBlock 0), user (walkBlock 0x6000)],
      let l := fun i => (s.ctx 4).rd 0 8 i
      s.Idle 4 ∧ s.Ready (at0 [4]) (wordInfo (.twalk c0 4 8 3)) (fun o => specialBusy (0x38 + (3 : BitVec 2).toNat) o || s.barred false o) ∧
      walksFull s (at0 [4]) = none ∧ (l 4).toNat / 2 ^ 24 % 2 ^ 4 = 1 ∧ (l 4).toNat % 2 ^ 16 = 16 ∧
      (l 5).toNat = 36 ∧ (l 4).toNat / 2 ^ 16 % 2 ^ 8 = 0 ∧ (l 4).toNat / 2 ^ 28 = 0 ∧
      s.isRestart (s.ctx 4) = false ∧ ((l 7 ++ l 6 : DWord) = 0 ∨ (l 7 ++ l 6 : DWord) = 0x6000) ∧
      (l 1 ++ l 0 : DWord) = 0x4000 ∧ (l 3 ++ l 2 : DWord) = 0x5000 := by decide +kernel

theorem test_meets_TreeWalk_reads :
    ∀ s ∈ [user (walkBlock 0), user (walkBlock 0x6000)],
      (∀ j, j < 16 → lands s (s.ctx 4) needR false 2 (0x4000 + BitVec.ofNat 64 (2 * j)) (0x4000 + 2 * j) = true) ∧
      (∀ j, j < 16 → lands s (s.ctx 4) needR false 2 (0x5000 + BitVec.ofNat 64 (0 * 36) + BitVec.ofNat 64 (2 * j))
        (0x5000 + 2 * j) = true) ∧
      lands s (s.ctx 4) needR false 4 (0x5000 + BitVec.ofNat 64 (0 * 36) + BitVec.ofNat 64 32) 0x5020 = true := by
  decide +kernel

theorem test_meets_TreeWalk_logit :
    let s := user (walkBlock 0x6000)
    ∀ k, k < 1 → (∃ uc mod, (mod = false ∨ s.recordOf (s.ctx 4) = none) ∧ InMemory (0x6000 + 4 * k) 4 ∧
      s.access (s.ctx 4) ((0x6000 : DWord) + BitVec.ofNat 64 (4 * k)) 4 4 needW true .plain = .ok (0x6000 + 4 * k) uc mod) ∧
      ∀ j x, j < 1 → x < 16 → (0x5000 + j * 36 + 2 * x + 2 ≤ 0x6000 + 4 * k ∨ 0x6000 + 4 * k + 4 ≤ 0x5000 + j * 36 + 2 * x) ∧
        (0x5000 + j * 36 + 32 + 4 ≤ 0x6000 + 4 * k ∨ 0x6000 + 4 * k + 4 ≤ 0x5000 + j * 36 + 32) := by
  intro s k hk
  obtain rfl : k = 0 := by omega
  have h : lands s (s.ctx 4) needW true 4 ((0x6000 : DWord) + BitVec.ofNat 64 (4 * 0)) (0x6000 + 4 * 0) = true := by decide +kernel
  obtain ⟨_, uc, mod, m, a⟩ := lands_spec h
  exact ⟨⟨uc, mod, m, inMemory_of _ _ (by decide +kernel), a⟩, by omega⟩
/-! ### Shuttle, tags, collectives, tasks, traces and rings -/

/-- An access of z bytes to virtual memory lands at pa, with no error response. -/
def landsV (s : State) (c : Ctx) (need : Need) (w : Bool) (z : Nat) (ea : DWord) (pa : Nat) : Bool :=
  (match s.accessVirtual c ea z z need w .plain with
  | .ok p _ _ => decide (p = pa)
  | _ => false) && (s.responseError c.core pa z).isNone

theorem landsV_spec {s : State} {c : Ctx} {need : Need} {w : Bool} {z : Nat} {ea : DWord} {pa : Nat}
    (h : landsV s c need w z ea pa = true) : s.responseError c.core pa z = none ∧
      ∃ uc mod, s.accessVirtual c ea z z need w .plain = .ok pa uc mod := by
  unfold landsV at h
  rw [Bool.and_eq_true, Option.isNone_iff_eq_none] at h
  refine ⟨h.2, ?_⟩
  have := h.1
  split at this
  · next p uc m e => exact ⟨uc, m, by rw [e, of_decide_eq_true this]⟩
  · cases this

/-- Words of COPY: 64 bytes twice from 0x4000 to 0x5000. -/
def copyWords (k8 k9 : Word) : Store Word :=
  [(4, 0x4000), (6, 0x5000), (8, 64), (9, 2), (10, 64), (11, 128), (12, k8), (13, k9)]

/-- A child task that waits for two signals, under entry 3 with generation 5. -/
def withChild (s : State) : State :=
  { s with tasks := [(3, { gen := 5, launch := 1, waits := 2, phase := .waiting })], gens := [(3, 5)] }

/-- An armed barrier object whose arrivals count bytes, at 0x40400000 in virtual memory. -/
def byteBarrier (v : Store Word) : State :=
  { user v with
    mem := (tables.writeBytes 0x080000400000 (toBytes 4 128 ++ toBytes 4 128 ++ toBytes 4 0xB))
    bars := [(0x080000400000, { remain := 128, init := 128, armed := true, bytes := true, scope := 2 })] }

theorem test_meets_ShuttleWords :
    ((user (copyWords 0 0)).Idle 4 ∧ (user (copyWords 0 0)).Ready (at0 [4]) (wordInfo (.copy c0 63 4 0)) noneBusy ∧
      copyWaits (user (copyWords 0 0)) (at0 [4]) = none ∧ ((user (copyWords 0 0)).runOf (at0 [4])).accepted = [] ∧
      ((user (copyWords 0 0)).copiesOf 0).length < 256 ∧ (user (copyWords 0 0)).isTraced ((user (copyWords 0 0)).ctx 4) = false ∧
      ((user (copyWords 0 0)).ctx 4).rd 0 4 4 = 64) ∧
    (∃ pa uc mod, (byteBarrier (copyWords 0x40400000 0)).accessVirtual ((byteBarrier (copyWords 0x40400000 0)).ctx 4)
        0x40400000 16 16 needRW true .atomic = .ok pa uc mod ∧
      ((byteBarrier (copyWords 0x40400000 0)).barrier pa).armed = true ∧
      ((byteBarrier (copyWords 0x40400000 0)).barrier pa).bytes = true ∧
      (byteBarrier (copyWords 0x40400000 0)).Ready (at0 [4]) (wordInfo (.copy c0 0 4 1)) noneBusy) ∧
    ((withChild (user (copyWords 0x14003 0))).waitingTask 0x14003).isSome = true ∧
    ((user []).Ready (at0 [4]) (wordInfo (.copy c0 63 4 0)) noneBusy ∧ ((user []).ctx 4).rd 0 4 4 = 0 ∧ copyWaits (user []) (at0 [4]) = none ∧
      (user []).tagPending (at0 [4]).key 63 = false ∧ (user []).NoneWait isTagWait) ∧
    ∀ s ∈ [user [(4, 0xFFFFFFC0), (5, 0xFFFFFF)], user []], s.Ready (at0 [4]) (wordInfo (.chaingo c0 3 4)) noneBusy ∧
      chainWaits 3 s (at0 [4]) = none ∧
      s.noRoom 4 (s.partOf (s.ctx 4)) (s.chainAt 4 (s.partOf (s.ctx 4)) ((s.ctx 4).rdPair 0 4).toNat) = none ∧
      ((s.ctx 4).rdPair 0 4).toNat < 2 ^ 56 ∧ ((s.ctx 4).rdPair 0 4).toNat % 64 = 0 := by
  refine ⟨?_, ⟨0x080000400000, false, false, ?_⟩, ?_, ?_, ?_⟩ <;> decide +kernel

/-- The user thread, some tags of its group set and one with a fault; a copy is in flight that will set tag 5. -/
def tagged' (v : Store Word) (tags : DWord) : State :=
  { (user v).updGroup 0 (fun g => { g with tags := tags, tagFaults := [(9, ⟨0x303, 0, 0⟩)] }) with
    ops := [(0, { ctx := 4, block := 1, launch := 1, kind := .copy ⟨0, 0, 1, 1, 0, 0, 0, 5, 0, 0, []⟩ })], nextOp := 1 }

theorem test_meets_TagWords :
    (∀ s ∈ [tagged' [(4, 0x20), (5, 0x80000000)] 0x8000000000000000, tagged' [] 0, tagged' [(4, 0x20)] 0,
        tagged' [(4, 0x20)] 0x20],
      (∀ i ∈ [Instr.twait c0 4, .twany c0 4], s.Ready (at0 [4]) (wordInfo i) noneBusy) ∧ (s.ctx 4).deferred = none ∧
      (∀ n, n < 64 → ((s.ctx 4).rdPair 0 4).getLsbD n = true →
        (s.group 0).tags.getLsbD n = true ∨ s.tagPending 0 n = true) ∧
      (∀ n, n < 64 → ((s.ctx 4).rdPair 0 4).getLsbD n = true → (s.group 0).tagFaults.get? n = none)) ∧
    (tagged' [(4, 0x220)] 0x220).Ready (at0 [4]) (wordInfo (.tffr c0 8 4)) noneBusy ∧
    (tagged' [(4, 0x220)] 0x220).Ready (at0 [4]) (wordInfo (.tclr c0 4)) noneBusy := by decide +kernel

/-- Words of a COLL of four 32-bit integers under group 1: it writes at 0x5000, its status at 0x6000, and sets tag 7. -/
def collWords : Store Word :=
  [(8, 0x4000), (10, 0x5000), (12, 4), (13, 0x1C010000), (14, 0x6000)]

/-- Collective group 1 is valid, of partition 0, with two ranks, of which this device is the first or the second. -/
def withGroup (s : State) (rank : Nat) : State :=
  { s with mem := s.mem.writeBytes (mgmtBase + 0x20040) (toBytes 4 (0x80000002 + rank * 2 ^ 16) ++ toBytes 4 0) }

theorem test_meets_CollectiveWord :
    ∀ s ∈ [withGroup (user collWords) 0, withGroup (user collWords) 1],
      s.Ready (at0 [4]) (wordInfo (.coll c0 8)) noneBusy ∧ storesPending s (at0 [4]) = none ∧
      s.isTraced (s.ctx 4) = false ∧ s.isRestart (s.ctx 4) = false ∧
      collBad s (s.partOf (s.ctx 4)) (sourceWords s (at0 [4]) 8 8) = false ∧
      (∀ i, i < 4 → landsV s (s.ctx 4) needR false 4 (BitVec.ofNat 64 (0x4000 + 0 * 2 ^ 32) + BitVec.ofNat 64 (i * 4))
        (0x4000 + 4 * i) = true) ∧
      s.collDone.getD 1 [] = [] ∧ s.collIn.getD 1 [] = [] ∧ (s.collGroup 1).rank < 2 := by decide +kernel

/-- Words of SPAWN: kernel 2 with 32 threads, class T, one signal, arguments at 0x4000, no ranges. -/
def spawnWords : Store Word := [(16, 0x00800002), (17, 32), (18, 0x4000)]

/-- The user thread runs a task with room for children; kernel 2 is in its image. -/
def parent' (s : State) : State :=
  { s with tasks := [(0, { launch := 1, phase := .running, block := some 1 })]
           images := [⟨0, 0, [(2, { entry := 0x400 })]⟩] }

theorem test_meets_TaskWords :
    (∀ s ∈ [parent' (user spawnWords),
        (parent' (user spawnWords)).updCore 0 (fun c => { c with taskQ := List.replicate 64 1 })],
      s.Ready (at0 [4]) (wordInfo (.spawn c0 4 16)) (s.barred false) ∧ s.Idle 4 ∧ (s.ctx 4).core = 0 ∧
      s.spawnLaunch (s.ctx 4) = some 1 ∧
      spawnValid s (s.launches.getD 1 {}) ((List.range 12).map ((s.ctx 4).rd 0 16)) = true ∧
      (rangesOf (((List.range 12).map ((s.ctx 4).rd 0 16)).drop 4)).getD [] = [] ∧ s.recordOf (s.ctx 4) = none ∧
      (∀ i, i < 8 → landsV s (s.ctx 4) needR false 8 (0x4000 + BitVec.ofNat 64 (8 * i)) (0x4000 + 8 * i) = true) ∧
      s.freeEntry = some 1 ∧ ((s.core 0).taskQ.length = 0 ∨ 64 ≤ (s.core 0).taskQ.length)) ∧
    (let s := parent' (steward spawnWords)
     s.Ready atSteward (wordInfo (.spawn c0 4 16)) (s.barred false) ∧ s.Idle 0 ∧ (s.ctx 0).core = 192 ∧
      s.spawnLaunch (s.ctx 0) = some 1 ∧
      spawnValid s (s.launches.getD 1 {}) ((List.range 12).map ((s.ctx 0).rd 0 16)) = true ∧ s.recordOf (s.ctx 0) = none ∧
      (∀ i, i < 8 → landsV s (s.ctx 0) needR false 8 (0x4000 + BitVec.ofNat 64 (8 * i)) (0x4000 + 8 * i) = true) ∧
      s.freeEntry = some 1) ∧
    (withChild (user [(4, 0x14003)])).Ready (at0 [4]) (wordInfo (.tsig c0 4)) noneBusy ∧
    (withChild (user [(4, 0x14003)])).Idle 4 ∧
    (withChild (user [(4, 0x14003)])).taskOf 0x14003 = some 3 ∧
    (withChild (user [(4, 0x14003)])).tasks.get? 3 = some { gen := 5, launch := 1, waits := 2, phase := .waiting } := by
  refine ⟨?_, ?_, ?_, ?_, ?_, ?_⟩ <;> decide +kernel

/-- Trace 2 of partition 0, built, with one record that read the first granule of the third GiB. -/
def traceOf (stale : Bool) : Trace :=
  { launch := 1, done := true, recs := [(0, { reads := [0x80000000 / 64], stale := stale })] }

/-- The user thread beside that trace. -/
def tracing (v : Store Word) (stale : Bool) : State := { user v with traces := [(2, traceOf stale)] }

theorem test_meets_TraceWords :
    (∃ pa uc, (tracing [(4, 0x80000000), (6, 5)] false).accessVirtual ((tracing [(4, 0x80000000), (6, 5)] false).ctx 4)
        0x80000000 4 4 needRW true .plain = .ok pa uc true ∧ pa + 4 ≤ 2 ^ 39 ∧
      (tracing [(4, 0x80000000), (6, 5)] false).Idle 4 ∧
      (tracing [(4, 0x80000000), (6, 5)] false).Ready (at0 [4]) (wordInfo (.mwrite c0 4)) (State.barred (tracing [(4, 0x80000000), (6, 5)] false) false) ∧
      mwriteWaits 4 (tracing [(4, 0x80000000), (6, 5)] false) (at0 [4]) = none ∧
      ((traceOf false).recs.getD 0 {}).reads.contains (pa / 64) = true ∧
      (tracing [(4, 0x80000000), (6, 5)] false).responseError 0 pa 4 = none ∧
      Unguarded (tracing [(4, 0x80000000), (6, 5)] false) pa 4) ∧
    ∀ s ∈ [tracing [(4, 2)] false, tracing [(4, 2)] true],
      s.Ready (at0 [4]) (wordInfo (.prop c0 8 4)) noneBusy ∧ s.isTraced (s.ctx 4) = false ∧
      s.namedTrace (at0 [4]) [4] 4 = some 2 ∧ (s.traces.getD 2 {}).dead = false ∧ (s.traces.getD 2 {}).done = true ∧
      (s.traces.getD 2 {}).props = [] ∧ (s.traces.getD 2 {}).spoiled = false ∧ s.Ready (at0 [4]) (wordInfo (.trfree c0 4)) noneBusy ∧
      freeWaits 4 s (at0 [4]) = none ∧ s.Ready (at0 [4]) (wordInfo (.trstat c0 8 4)) noneBusy := by
  refine ⟨⟨0x80000000, false, ?_, ?_, ?_, ?_, ?_, ?_, ?_, unguarded_of _ _ _ ?_⟩, ?_⟩ <;> decide +kernel

/-- The twins at a ring of 2 ^ 4 places whose header, in the scratchpad, holds four indices. -/
def ringed (claim commit await retire index : Nat) : State :=
  { twins ((8, BitVec.ofNat 32 index) :: pad.take 1) pad with
    mem := (tables.writeBytes 0x080000400000 (toBytes 4 (claim + 4 * 2 ^ 28) ++ toBytes 4 commit ++ toBytes 4 await ++
      toBytes 4 retire)) }

theorem test_meets_RingWords :
    (∀ s ∈ [ringed 0 0 0 0 0, ringed 14 14 0 0 0, ringed 15 14 13 0 0, ringed 2 0 0 (2 ^ 28 - 12) 0],
      s.Ready (at0 [4, 5]) (wordInfo (.rclaim c0 4 2 4)) (s.barred true) ∧ s.Ready (at0 [4, 5]) (wordInfo (.rawait c0 4 2 4)) (s.barred true) ∧
      (∀ u ∈ (at0 [4, 5]).cohort, s.Idle u) ∧ s.NoneWait isRingWait ∧
      s.access (s.ctx 4) 0x40400000 16 64 needRW true .atomic = .ok 0x080000400000 false false ∧
      OffTrace 0x080000400000 ∧
      (s.ringWait (s.ctx 4) 0x100 0x40400000 0x080000400000).isNone = true ∧
      (s.ringMode (s.ctx 4) 0x40400000 0x080000400000).isNone = true ∧
      s.responseError 0 0x080000400000 16 = none ∧ s.physNat 255 (memKey 0 0x080000400000) 4 / 2 ^ 28 = 4) ∧
    ∀ s ∈ [ringed 3 1 3 1 1, ringed 3 1 3 1 2], let s := { s with issue := some (at0 [4]) }
      s.Ready (at0 [4]) (wordInfo (.rcommit c0 8 2 4)) (s.barred true) ∧ s.Ready (at0 [4]) (wordInfo (.rretire c0 8 2 4)) (s.barred true) ∧
      ((s.ctx 4).rd 0 8 0).toNat < 2 ^ 28 ∧ (((s.ctx 4).rd 0 8 0).toNat + 2 ^ 28 - 1) % 2 ^ 28 < 2 := by
  refine ⟨?_, ?_⟩ <;> decide +kernel

/-- The twins at a ring whose header holds 4, 1, 4, 1, with an index each. -/
def committing (i j : Nat) : State :=
  (ringed 4 1 4 1 i).updCtx 5 (fun c => { c with v := [(2, 0x40400000), (8, BitVec.ofNat 32 j)] })

/-- Two threads whose indices follow on from the header's, one of which does, none of which does. -/
theorem test_meets_RingWords_several :
    ∀ p ∈ [(1, 2, 2), (3, 1, 1), (3, 2, 0)], let s := committing p.1 p.2.1
      let index := fun u => ((s.ctx u).rd (s.now 0) 8 0).toNat
      let dist := fun j k : Nat => (k + 2 ^ 28 - j) % 2 ^ 28
      s.Ready (at0 [4, 5]) (wordInfo (.rcommit c0 8 2 4)) (s.barred true) ∧
      s.Ready (at0 [4, 5]) (wordInfo (.rretire c0 8 2 4)) (s.barred true) ∧ (∀ u ∈ (at0 [4, 5]).cohort, s.Idle u) ∧
      s.NoneWait isRingWait ∧
      (∀ u ∈ (at0 [4, 5]).cohort, (s.ctx u).block = (s.ctx 4).block ∧ index u < 2 ^ 28 ∧ dist 1 (index u) < dist 1 4) ∧
      (∀ u ∈ (at0 [4, 5]).cohort, ∀ v ∈ (at0 [4, 5]).cohort, index u = index v → u = v) ∧
      (∀ j, j < p.2.2 → ∃ u ∈ (at0 [4, 5]).cohort, dist 1 (index u) = j) ∧
      ∀ u ∈ (at0 [4, 5]).cohort, dist 1 (index u) ≠ p.2.2 := by
  intro p hp
  simp only [List.mem_cons, List.not_mem_nil, or_false] at hp
  rcases hp with rfl | rfl | rfl <;> exact ⟨by decide +kernel, by decide +kernel, by decide +kernel, by decide +kernel,
    by decide +kernel, by decide +kernel, by decide +kernel, by decide +kernel⟩
/-! ### Completions -/

/-- An operation of the user thread in flight. -/
def flying (k : OpKind) (dst : List Nat) : State :=
  { user [(4, 0x7F800001), (8, 9)] with
    ops := [(0, { ctx := 4, block := 1, launch := 1, dst := dst, kind := k })], nextOp := 1 }

/-- A read of an operation that must be there. -/
def State.flight (s : State) (k : Nat) : Op := s.ops.getD k {}

/-- The matrix operation of a kind. -/
def matOf : OpKind → MatOp
  | .matrix m => m
  | _ => ⟨false, 0, [], 0, [], [], [], [], 0, 0, [], [], [], []⟩

/-- The state after a word, where there is one. -/
def after (i : Instr) (s : State) : State :=
  match exec i s with
  | .next t => t
  | _ => {}

/-- An MMA and a drain to the scratchpad, signed by all that are to sign them. -/
def multiplying : State := after (.mma c0 0 4 15) (matrix [(4, product)] 1)
/-- The drain. -/
def draining : State := after (.mdrain c0 0 4 15) (matrix [(4, drained)] 1)
/-- A drain to virtual memory. -/
def drainingOut : State := after (.mdrain c0 0 4 15) (matrix [(4, 0xA3)] 1)
/-- A drain to registers. -/
def drainingRegs : State :=
  let s := matrix [] 1
  let m : MatOp := ⟨true, 15, [4], 0, td 0 4 1 2 0, [0, 0, 0, 0], td 8 5 1 2 0, [], 0, 0, [], [], [], [(4, 8, 0), (4, 9, 0)]⟩
  { s with ops := [(0, { ctx := 4, block := 1, launch := 1, kind := .matrix { m with seen := s.opBytes 0 (s.block 1) m } })]
           nextOp := 1 }

theorem test_meets_OperationsComplete :
    (∀ p ∈ [(0x1003, 1, 1), (0x3FFFFFFE, 2, 1), (0x1000, 4, 1), (0x1000, 8, 2), (0x3FFFFFF0, 16, 4)],
      let s := flying (.load p.1 p.2.1 true) ((List.range p.2.2).map (252 + ·))
      let o := State.flight s 0
      s.ops.get? 0 = some o ∧ (s.ctxs.get? o.ctx).isSome = true ∧
      s.ops.filter (fun p => decide (p.2.ctx = o.ctx) && p.2.isLoad) = [(0, o)] ∧
      s.NoneWait (fun q => decide (q = .late 0)) ∧ s.responseError o.core p.1 p.2.1 = none ∧
      o.dst = (List.range (p.2.1 / 4 + if p.2.1 < 4 then 1 else 0)).map (252 + ·) ∧
      s.isDet (s.ctx o.ctx) = false ∧ s.isRestart (s.ctx o.ctx) = false) ∧
    (let s := flying (.value 0x1000 [3, 4]) [254, 255]
     s.ops.filter (fun p => decide (p.2.ctx = 4) && p.2.isLoad) = [(0, State.flight s 0)]) ∧
    (∀ k ∈ [OpKind.result [5, 6] (some (3, 7)) 0x21, .result [5, 6] none 0, .walk [1, 2] (0, 0x80010001)],
      (flying k [4, 5]).ops.get? 0 = some (State.flight (flying k [4, 5]) 0)) ∧
    ∀ k ∈ [3, 9], (flying (.rows 8 [3, 9]) []).ops.get? k = none ∧ ((flying (.rows 8 [3, 9]) []).core 0).growQ = [] := by
  refine ⟨?_, ?_, ?_, ?_⟩ <;> decide +kernel

/-- No store of its thread is in flight beside a load. -/
theorem test_meets_OperationsComplete_alone :
    ∀ p ∈ (flying (.load 0x1000 4 true) [252]).ops, p.2.ctx = 4 → p.2.isStore = false := by decide +kernel

theorem test_meets_OperationsComplete_memory :
    NotMatrix (flying (.load 0x1000 4 true) [252]) 4 0x1000 4 :=
  notMatrix_of _ _ _ _ (by decide +kernel) (by decide +kernel)

theorem test_meets_MatrixOperationsComplete :
    (∀ s ∈ [multiplying, draining, drainingOut, drainingRegs], let o := State.flight s 0; let m := matOf o.kind
      s.ops.get? 0 = some o ∧ o.kind = .matrix m ∧ o.fault = none ∧ o.err = none ∧ s.matBlocked 0 o m = false ∧
      m.seen = s.opBytes o.core (s.block o.block) m ∧ (s.blocks.get? o.block).isSome = true ∧
      s.NoneWait (fun q => match q with | .mwait _ => true | _ => false) ∧
      fmtBits (tileOf m.c).fmt = 8 * fmtBytes (tileOf m.c).fmt ∧ 0 < fmtBytes (tileOf m.c).fmt) ∧
    (let m := matOf (State.flight multiplying 0).kind; let C := tileOf m.c
     m.drain = false ∧ metaGood multiplying (multiplying.block 1) 0 m = true ∧ C.space = 4 ∧ C.base + C.rows ≤ 1024 ∧
      0 < C.rows ∧ 0 < C.cols ∧ C.cols * fmtBytes C.fmt ≤ 512) ∧
    (∀ s ∈ [draining, drainingOut, drainingRegs], let m := matOf (State.flight s 0).kind; let A := tileOf m.a
      m.drain = true ∧ A.space = 4 ∧ A.base + A.rows ≤ 1024 ∧ fmtBits A.fmt = 8 * fmtBytes A.fmt ∧ A.cols * fmtBytes A.fmt ≤ 512) ∧
    (let m := matOf (State.flight drainingRegs 0).kind
     (tileOf m.c).space = 5 ∧ m.signers.Nodup ∧ (tileOf m.c).rows ≤ m.signers.length ∧
       (∀ id ∈ m.signers, (drainingRegs.ctxs.get? id).isSome = true) ∧
       ∀ i, i < 2 → (4, 8 + i, (0 : Word)) ∈ m.held) := by
  refine ⟨?_, ?_, ?_, ?_⟩ <;> decide +kernel

theorem test_meets_MatrixOperationsComplete_scratchpad :
    let m := matOf (State.flight draining 0).kind
    let b := draining.block 1
    (tileOf m.c).space = 1 ∧ Apart b 0 (tileOf m.c) ∧ ∀ a, InTile b 0 (tileOf m.c) a → ¬ InTile b 0 (tileOf m.a) a := by
  intro m b
  have hc : tileOf m.c = tileOf (td 0x200 1 2 2 8) := by decide +kernel
  have ha : tileOf m.a = tileOf (td 0 4 2 2 0) := by decide +kernel
  rw [hc, ha]
  have ac : ∀ i o, tileAddr b 0 (tileOf (td 0x200 1 2 2 8)) i o = scratchBase b.scratchCore + b.scratchOff + 512 + i * 8 + o :=
    fun _ _ => rfl
  have aa : ∀ i o, tileAddr b 0 (tileOf (td 0 4 2 2 0)) i o = accBase 0 + (0 + i) * 512 + o := fun _ _ => rfl
  have hb : scratchBase b.scratchCore + b.scratchOff = 0x080000400000 := by decide +kernel
  refine ⟨by decide, ?_, ?_⟩
  · intro i j x y o q hi hj hx hy ho hq e
    replace hi : i < 2 := hi
    replace hj : j < 2 := hj
    replace hx : x < 2 := hx
    replace hy : y < 2 := hy
    have h4 : fmtBytes (tileOf (td 0x200 1 2 2 8)).fmt = 4 := by decide
    rw [ac, ac, h4] at e
    rw [h4] at ho hq
    omega
  · rintro a ⟨i, j, o, hi, hj, ho, rfl⟩ ⟨x, y, q, hx, hy, hq, e⟩
    replace hi : i < 2 := hi
    replace hj : j < 2 := hj
    have h4 : fmtBytes (tileOf (td 0x200 1 2 2 8)).fmt = 4 := by decide
    rw [ac, aa, h4, hb] at e
    rw [h4] at ho
    have : accBase 0 = 0x080000800000 := by decide
    omega

theorem test_meets_MatrixOperationsComplete_memory :
    let s := drainingOut
    let C := tileOf (matOf (State.flight s 0).kind).c
    C.space = 0 ∧ s.isDet (s.ctx 4) = false ∧ s.isRestart (s.ctx 4) = false ∧ C.rows = 2 ∧ C.cols = 2 ∧
    ∀ i j, i < 2 → j < 2 →
      (∃ uc, s.translate (s.partOf (s.ctx 4)) (C.base + i * C.stride + j * 4) needW = .ok (0x4000 + i * 8 + j * 4) uc false) ∧
      0x4000 + i * 8 + j * 4 + 4 ≤ 2 ^ 39 ∧ s.responseError 0 (0x4000 + i * 8 + j * 4) 4 = none ∧
      Unguarded s (0x4000 + i * 8 + j * 4) 4 ∧
      ∀ x y, x < 2 → y < 2 → (x ≠ i ∨ y ≠ j) →
        0x4000 + i * 8 + j * 4 + 4 ≤ 0x4000 + x * 8 + y * 4 ∨ 0x4000 + x * 8 + y * 4 + 4 ≤ 0x4000 + i * 8 + j * 4 := by
  intro s C
  refine ⟨by decide +kernel, by decide +kernel, by decide +kernel, by decide +kernel, by decide +kernel, ?_⟩
  have h : ∀ i, i < 2 → ∀ j, j < 2 →
      s.translate (s.partOf (s.ctx 4)) (C.base + i * C.stride + j * 4) needW = .ok (0x4000 + i * 8 + j * 4) false false ∧
      s.responseError 0 (0x4000 + i * 8 + j * 4) 4 = none := by decide +kernel
  have w : s.locks = [] ∧ s.bars = [] ∧ s.rings = [] ∧ s.ctxs.all (fun p => decide (p.2.status = .running)) = true := by
    decide +kernel
  intro i j hi hj
  refine ⟨⟨false, (h i hi j hj).1⟩, by omega, (h i hi j hj).2, unguarded_free _ _ _ w, ?_⟩
  intro x y hx hy d
  omega

theorem test_meets_StoresArePerformed :
    (∀ s ∈ [flying (.store 0x3FFFFFFE [1, 2] true) []], let o := State.flight s 0
      NextStore s 0 o ∧ o.err = none ∧ s.accessError o.core 0x3FFFFFFE 2 = none ∧ s.cutPeer 0x3FFFFFFE = false) ∧
    ∀ k ∈ List.range 10, ∀ s ∈ [flying (.reduce 0x1000 k 7) []], let o := State.flight s 0
      NextStore s 0 o ∧ o.err = none ∧ s.accessError o.core 0x1000 (if k = 7 then 8 else 4) = none ∧ s.cutPeer 0x1000 = false ∧
        s.restartable o = false ∧ (s.ctx 4).live = true ∧ (s.ctxs.get? 4).isSome = true ∧ (s.ctx 4).deferred = none ∧
        o.isStore = true ∧ s.storeHeld 0 o = false ∧ s.hasEcc 0 0x1000 8 = false := by
  unfold NextStore
  refine ⟨?_, ?_⟩ <;> decide +kernel

/-- A reduction in flight to a word that memory holds with an uncorrectable error. -/
theorem test_meets_StoresArePerformed_ecc :
    ∀ k ∈ [2, 7], let s : State := { flying (.reduce 0x1000 k 7) [] with ecc := [0x1000] }; let o := State.flight s 0
      NextStore s 0 o ∧ o.err = none ∧ s.accessError o.core 0x1000 (if k = 7 then 8 else 4) = none ∧ s.cutPeer 0x1000 = false ∧
        s.hasEcc o.core 0x1000 (if k = 7 then 8 else 4) = true ∧ s.isRestart (s.ctx 4) = false ∧ (s.ctx 4).live = true ∧
        (s.ctxs.get? 4).isSome = true ∧ (s.ctx 4).deferred = none := by
  unfold NextStore
  decide +kernel

theorem test_meets_StoresArePerformed_memory :
    (InMemory 0x3FFFFFFE 2 ∧ Unguarded (flying (.store 0x3FFFFFFE [1, 2] true) []) 0x3FFFFFFE 2 ∧
      NotMatrix (flying (.store 0x3FFFFFFE [1, 2] true) []) 4 0x3FFFFFFE 2) ∧
    InMemory 0x1000 8 ∧ InMemory 0x1000 4 ∧ ∀ k n, Unguarded (flying (.reduce 0x1000 k 7) []) 0x1000 n ∧
      NotMatrix (flying (.reduce 0x1000 k 7) []) 4 0x1000 n :=
  ⟨⟨inMemory_of _ _ (by decide +kernel), unguarded_free _ _ _ (by decide +kernel),
    notMatrix_of _ _ _ _ (by decide +kernel) (by decide +kernel)⟩,
    inMemory_of _ _ (by decide +kernel), inMemory_of _ _ (by decide +kernel),
    fun _ _ => ⟨unguarded_free _ _ _ ⟨rfl, rfl, rfl, rfl⟩, notMatrix_of _ _ _ _ rfl
      (show ∀ p ∈ (user [(4, 0x7F800001), (8, 9)]).blocks, p.2.unseen = [] by decide +kernel)⟩⟩

/-- A copy of two rows of four bytes, with a completion of this kind. -/
def copyRec (kind : Nat) (caddr : DWord) : CopyRec := ⟨0x4000, 0x5000, 4, 2, 64, 128, kind, 5, caddr, 0, []⟩

/-- The user machine with a byte-counting barrier object that awaits n bytes at 0x40400000 in virtual memory, and task 3. -/
def signalled (n : Nat) (s : State) : State :=
  withChild { s with bars := [(0x080000400000, { remain := n, init := 128, armed := true, bytes := true, scope := 2 })] }

/-- The user thread's channel 3 is at a record at 0x6000 that it owns or not: four bytes from 0x4000 to 0x5000, with a signal of
this kind, and the next record at 0x6040. -/
def chained (own kind cword : Nat) : State :=
  { (signalled 4 (user [])).updCore 0 (fun c => { c with
      channels := [(3, { head := 0x6000, cur := 0x6000, busy := true, ctx := 4 })] }) with
    mem := (tables.writeBytes 0x4000 [1, 2, 3, 4]).writeBytes 0x6000 (toBytes 8 0x4000 ++ toBytes 8 0x5000 ++ toBytes 4 4 ++
      toBytes 4 1 ++ toBytes 8 0 ++ toBytes 8 0x6040 ++ toBytes 4 (own + kind * 16) ++ toBytes 4 0 ++ toBytes 8 cword) }

/-- The state a copy leaves. -/
def Moved.state : Moved → State
  | .wait s _ _ => s
  | .done s _ => s

/-- Bytes of plain storage, decided. -/
theorem inStorage_of (pa n : Nat) (h : (List.range n).all (fun j => match regionOf (pa + j) with
    | .hbm => true
    | .peer _ _ => true
    | .scratch _ _ => true
    | .acc _ _ => true
    | .ob _ _ => true
    | .wb _ _ => true
    | _ => false) = true) : InStorage pa n := by
  intro j hj
  have := List.all_eq_true.mp h j (List.mem_range.mpr hj)
  cases hr : regionOf (pa + j) <;> simp_all

/-- Copies of the four kinds: to memory, and between a core's scratchpad and memory. -/
def copies : List (State × CopyRec) :=
  ([(0, 0), (1, 0x40400000), (2, 0x14003), (3, 0)] : List (Nat × DWord)).flatMap (fun p =>
    [copyRec p.1 p.2, { copyRec p.1 p.2 with src := 0x40400100 }, { copyRec p.1 p.2 with dst := 0x40400100 }].map (fun c =>
      (signalled (if p.1 = 1 then 8 else 128) (flying (.copy c) []), c)))

/-- A byte of device memory or of a scratchpad. -/
def plainByte (x : Nat) : Bool :=
  match regionOf x with
  | .hbm => true
  | .scratch _ _ => true
  | _ => false

theorem inStorage_plain (x : Nat) (h : plainByte x = true) : InStorage x 1 := by
  intro j hj
  obtain rfl : j = 0 := by omega
  unfold plainByte at h
  rw [Nat.add_zero]
  revert h
  generalize regionOf x = r
  cases r <;> simp

/-- Where a virtual address of the copies lies. -/
def copyPlace (va : Nat) : Nat := if va < 0x40000000 then va else va - 0x40000000 + 0x080000000000

theorem test_meets_CopiesComplete :
    ∀ p ∈ copies, let s := p.1; let c := p.2; let o := State.flight s 0
     s.ops.get? 0 = some o ∧ o.kind = .copy c ∧ o.fault = none ∧ s.recordOf (s.ctx o.ctx) = none ∧ s.isDet (s.ctx o.ctx) = false ∧
      s.isRestart (s.ctx o.ctx) = false ∧ (c.rows = 2 ∧ c.rowBytes = 4 ∧ o.ctx = 4 ∧ o.core = 0 ∧ o.err = none) ∧
      ∀ r, r < 2 → ∀ b, b < 4 →
        s.side 0 0 (c.src + r * 64 + b) needR c.words false = .ok (copyPlace (c.src + r * 64 + b)) ∧
        s.side 0 0 (c.dst + r * 128 + b) needW c.words false = .ok (copyPlace (c.dst + r * 128 + b)) := by decide +kernel

theorem test_meets_CopiesComplete_places :
    ∀ p ∈ copies, let s := p.1; let c := p.2
     ∀ r, r < 2 → ∀ b, b < 4 →
      InStorage (copyPlace (c.src + r * 64 + b)) 1 ∧ InStorage (copyPlace (c.dst + r * 128 + b)) 1 ∧
      s.matrixOwns 4 (copyPlace (c.src + r * 64 + b)) = false ∧ NotMatrix s 4 (copyPlace (c.dst + r * 128 + b)) 1 ∧
      Unguarded s (copyPlace (c.dst + r * 128 + b)) 1 ∧
      ∀ q, q < 2 → ∀ d, d < 4 → copyPlace (c.dst + r * 128 + b) ≠ copyPlace (c.src + q * 64 + d) ∧
        (copyPlace (c.dst + r * 128 + b) = copyPlace (c.dst + q * 128 + d) → r = q ∧ b = d) := by
  intro p hp
  have h : ∀ p ∈ copies,
      p.1.ops.all (fun x => match x.2.kind with | .matrix _ => false | _ => true) = true ∧ (∀ x ∈ p.1.blocks, x.2.unseen = []) := by
    decide +kernel
  have g1 : ∀ p ∈ copies, ∀ r, r < 2 → ∀ b, b < 4 → plainByte (copyPlace (p.2.src + r * 64 + b)) = true ∧
      p.1.matrixOwns 4 (copyPlace (p.2.src + r * 64 + b)) = false := by decide +kernel
  have g2 : ∀ p ∈ copies, ∀ r, r < 2 → ∀ b, b < 4 → plainByte (copyPlace (p.2.dst + r * 128 + b)) = true ∧
      p.1.locks = [] ∧ (p.1.bars.getD (copyPlace (p.2.dst + r * 128 + b) / 4 * 4 / 16 * 16) {}).armed = false ∧ p.1.rings = [] := by
    decide +kernel
  have g3 : ∀ p ∈ copies, ((List.range 2).flatMap (fun r => (List.range 4).flatMap (fun b => (List.range 2).flatMap (fun q =>
      (List.range 4).map (fun d => (r, b, q, d)))))).all (fun (r, b, q, d) =>
        decide (copyPlace (p.2.dst + r * 128 + b) ≠ copyPlace (p.2.src + q * 64 + d)) &&
        (decide (copyPlace (p.2.dst + r * 128 + b) ≠ copyPlace (p.2.dst + q * 128 + d)) || decide (r = q ∧ b = d))) = true := by
    decide +kernel
  have n : ∀ p ∈ copies, p.1.ctxs.all (fun p => decide (p.2.status = .running)) = true := by decide +kernel
  intro s c r hr b hb
  obtain ⟨s1, s2⟩ := g1 p hp r hr b hb
  obtain ⟨d1, d2, d3, d4⟩ := g2 p hp r hr b hb
  have d5 : ∀ q, q < 2 → ∀ d, d < 4 → copyPlace (c.dst + r * 128 + b) ≠ copyPlace (c.src + q * 64 + d) ∧
      (copyPlace (c.dst + r * 128 + b) = copyPlace (c.dst + q * 128 + d) → r = q ∧ b = d) := by
    intro q hq d hd
    have := List.all_eq_true.mp (g3 p hp) (r, b, q, d) (by
      simp only [List.mem_flatMap, List.mem_map, List.mem_range]
      exact ⟨r, hr, b, hb, q, hq, d, hd, rfl⟩)
    simp only [Bool.and_eq_true, Bool.or_eq_true, decide_eq_true_eq] at this
    exact ⟨this.1, fun e => this.2.resolve_left (fun n => n e)⟩
  have q : ∀ f, s.NoneWait f := by
    intro f x hx
    have := of_decide_eq_true (List.all_eq_true.mp (n p hp) x hx)
    simp [Ctx.parkKind, this]
  refine ⟨inStorage_plain _ s1, inStorage_plain _ d1, s2, notMatrix_of _ _ _ _ (h p hp).1 (h p hp).2, ?_, d5⟩
  intro w h1 h2 h3
  obtain rfl : w = copyPlace (c.dst + r * 128 + b) / 4 * 4 := by omega
  exact ⟨.inl (by rw [d2]; rfl), d3, by rw [d4]; rfl, q _⟩

/-- What the four kinds of a copy name. -/
theorem test_meets_CopiesComplete_kinds :
    (∀ p ∈ copies, p.1.NoneWait isTagWait ∧ (∀ h ∈ (p.1.core 0).channels, h.2.busy = false) ∧ (∀ x ∈ p.1.ops, x.1 = 0) ∧
      (State.flight p.1 0).grp = 0) ∧
    (∀ p ∈ copies, p.2.kind = 1 → p.1.translate 0 0x40400000 needRW = .ok 0x080000400000 false false ∧ p.2.caddr = 0x40400000 ∧
      (p.1.barrier 0x080000400000).armed = true ∧ (p.1.barrier 0x080000400000).bytes = true ∧
      (match p.1.runCopy 4 0 p.2 false false none false with
      | .done u none => (u.dropOp 0).translate 0 0x40400000 needRW = .ok 0x080000400000 false false
      | _ => True)) ∧
    ∀ p ∈ copies, p.2.kind = 2 → p.1.waitingTask (p.2.caddr.setWidth 32) = some 3 := by
  refine ⟨by decide +kernel, ?_, by decide +kernel⟩
  have : ∀ p ∈ copies, p.2.kind = 1 → p.1.translate 0 0x40400000 needRW = .ok 0x080000400000 false false ∧ p.2.caddr = 0x40400000 ∧
      (p.1.barrier 0x080000400000).armed = true ∧ (p.1.barrier 0x080000400000).bytes = true ∧
      (match p.1.runCopy 4 0 p.2 false false none false with
      | .done u none => decide ((u.dropOp 0).translate 0 0x40400000 needRW = .ok 0x080000400000 false false)
      | _ => true) = true := by decide +kernel
  intro p hp hk
  obtain ⟨a, b, c, d, e⟩ := this p hp hk
  refine ⟨a, b, c, d, ?_⟩
  revert e
  split <;> simp

/-- Records of the four kinds, and the address or handle each names. -/
def records : List (Nat × Nat) := [(0, 0), (1, 0x40400000), (2, 0x14003), (3, 0)]

/-- What the channel at a record moves. -/
def performed (p : Nat × Nat) : Moved :=
  let s := chained 5 p.1 p.2; let ch := s.channel 0 3; let c := s.transfer ch.ctx 0x6000 ch.part
  s.runCopy ch.ctx 0 { c with resolved := s.resolveWindow ch.part c } ch.denied ch.noObject none false

theorem test_meets_CopiesComplete_chain :
    (∀ p ∈ (0, 3, 0) :: records.map (fun p => (5, p)), let s := chained p.1 p.2.1 p.2.2; let ch := s.channel 0 3
      ch.busy = true ∧ ch.wait = none ∧ ch.cur.toNat % 64 = 0 ∧ ch.ctx = 4 ∧
      s.side 0 ch.part ch.cur.toNat needR false ch.denied = .ok 0x6000 ∧
      s.side 0 ch.part ch.cur.toNat needW false ch.denied = .ok 0x6000 ∧
      s.shuttleNat 4 (0x6000 + 40) 4 % 2 = p.1 % 2) ∧
    (∀ p ∈ records, let s := chained 5 p.1 p.2; let ch := s.channel 0 3; let c := s.transfer ch.ctx 0x6000 ch.part
      let t := Moved.state (performed p)
      s.recordCheck ch.cur c = none ∧ c.kind = p.1 ∧ (match performed p with | .done _ none => true | _ => false) = true ∧
      t.recordOf (t.ctx ch.ctx) = none ∧ t.channel 0 3 = ch) ∧
    InStorage 0x6000 64 :=
  ⟨by decide +kernel, by decide +kernel, inStorage_of _ _ (by decide +kernel)⟩

theorem test_meets_CopiesComplete_chain_objects :
    (∀ p ∈ records, let t := Moved.state (performed p)
      t.NoneWait isTagWait ∧ (t.core 0).channels.map (·.1) = [3] ∧ t.ops = [] ∧
      t.locks = [] ∧ t.rings = [] ∧ (t.bars.getD 0x6020 {}).armed = false ∧
      t.ctxs.all (fun p => decide (p.2.status = .running)) = true ∧ (∀ x ∈ t.blocks, x.2.unseen = [])) ∧
    (let t := Moved.state (performed (1, 0x40400000))
     (t.updChannel 0 3 (fun y => y.stop none)).translate 0 0x40400000 needRW = .ok 0x080000400000 false false ∧
      (t.barrier 0x080000400000).armed = true ∧ (t.barrier 0x080000400000).bytes = true) ∧
    (Moved.state (performed (2, 0x14003))).waitingTask 0x14003 = some 3 := by
  refine ⟨?_, ?_, ?_⟩ <;> decide +kernel

/-! ### Collectives, launches and blocks -/

/-- A collective of the user thread in flight under group 1, kind 3; its status word is at 0x6000. -/
def collecting (rank mode : Nat) (passed aborted : Bool) : State :=
  { withGroup (user []) rank with
    ops := [(0, { ctx := 4, block := 1, launch := 1, kind := .coll 1 { src := 0x4000, dst := 0x5000, n := 1, mode := mode
                                                                       status := 0x6000, contribution := [1, 0, 0, 0]
                                                                       passed := passed, aborted := aborted } 3 0 })]
    nextOp := 1, collCount := [(1, 1)] }

/-- The collective of a kind. -/
def collOf : OpKind → Coll
  | .coll _ c _ _ => c
  | _ => {}

/-- Eight bytes of HBM as the device reads them depend on memory alone. -/
theorem physNat_congr (s u : State) (x : Nat) (hx : x + 8 ≤ 2 ^ 39) (h : ∀ i, i < 8 → u.mem.read (x + i) = s.mem.read (x + i)) :
    u.physNat 255 x 8 = s.physNat 255 x 8 := by
  have e : ∀ (v : State) i, i < 8 → v.physByte 255 (x + i) = v.mem.read (x + i) := by
    intro v i hi
    have : regionOf (x + i) = .hbm := by
      unfold regionOf
      rw [if_pos (by omega)]
    simp only [State.physByte, memKey, this]
  unfold State.physNat State.physBytes
  congr 1
  exact List.map_congr_left (fun i hi => by
    have := List.mem_range.mp hi
    rw [e u i this, e s i this, h i this])

/-- An engine's write in the first GiB of the tables lands at the same physical address. -/
theorem side_first (u : State) (va : Nat) (hva : va < 2 ^ 30) (hp : u.parts.get? 0 = some { quads := [0, 1, 2, 3], root := 0x40000000 })
    (ht : u.traces = [] ∧ u.ecc = []) (h0 : u.physNat 255 0x40000000 8 = 0x40100001) (h1 : u.physNat 255 0x40100000 8 = 0x1F) :
    u.side 0 0 va needW true false = .ok va := by
  have hr : regionOf va = .hbm := by
    unfold regionOf
    rw [if_pos (by omega)]
  have d : ∀ x, x < 2 ^ 39 → u.deviceNat x 8 = u.physNat 255 x 8 := by
    intro x hx
    have : regionOf x = .hbm := by
      unfold regionOf
      rw [if_pos (by omega)]
    unfold State.deviceNat
    rw [if_neg]
    simp [State.responseError, State.accessError, State.cutPeer, State.hasEcc, this, ht.2]
  have t : u.translate 0 va needW = .ok va false false := by
    unfold State.translate
    rw [hp]
    simp only [walkFrom, levelShift, levelBits]
    have e3 : va / 2 ^ 39 = 0 := by omega
    have e2 : va / 2 ^ 30 = 0 := by omega
    have em : va % 2 ^ 30 = va := Nat.mod_eq_of_lt hva
    rw [e3, e2, em]
    simp only [Nat.zero_mod, Nat.mul_zero, Nat.add_zero, d 0x40000000 (by decide), h0]
    have hl : leafValid [0, 1, 2, 3] 2 0 false = true := by decide
    simp [d 0x40100000 (by decide), h1, hl, needW, State.inStore, State.storeAt, ht.1]
  unfold State.side State.place
  rw [if_neg (by omega), t]
  simp [hr, reaches, State.accessError, State.cutPeer, needW]

/-- The bytes of an engine's write lie in memory, decided. -/
theorem collAt_of (s : State) (o : Op) (c : Coll) (va n : Nat) (h : va + n ≤ 2 ^ 30) (hc : o.core = 0) (he : o.err = none)
    (hp : c.part = 0) (hr : s.recordOf (s.ctx o.ctx) = none)
    (w : s.locks = [] ∧ s.bars = [] ∧ s.rings = [] ∧ s.ctxs.all (fun p => decide (p.2.status = .running)) = true)
    (m : s.ops.all (fun p => match p.2.kind with | .matrix _ => false | _ => true) = true) (u : ∀ p ∈ s.blocks, p.2.unseen = [])
    (pt : s.parts.get? 0 = some { quads := [0, 1, 2, 3], root := 0x40000000 } ∧ (s.traces = [] ∧ s.ecc = []) ∧
      s.physNat 255 0x40000000 8 = 0x40100001 ∧ s.physNat 255 0x40100000 8 = 0x1F) : CollAt s o c va va n := by
  refine ⟨by omega, hr, unguarded_free _ _ _ w, notMatrix_of _ _ _ _ m u, fun i hi => ?_⟩
  rw [hc, hp, he]
  exact side_first s (va + i) (by omega) pt.1 pt.2.1 pt.2.2.1 pt.2.2.2

/-- The four collectives of the tests, the first two with a decision still to come. -/
def collectives : List State :=
  [collecting 0 0 true false, collecting 1 0 false false, collecting 0 0 true true, collecting 1 0 false true]

theorem test_meets_CollectiveSteps :
    ∀ s ∈ collectives, let o := State.flight s 0; let c := collOf o.kind
      Open s 1 0 o c 0 ∧ (s.collGroup 1).valid = true ∧ c.mode = 0 ∧ c.decided = none ∧ s.inputs = [] ∧
      (c.passed = true → (s.collGroup 1).rank + 1 ≠ (s.collGroup 1).size) ∧
      (c.passed = false → (s.collGroup 1).rank + 1 = (s.collGroup 1).size ∧ 0 < (s.collGroup 1).rank) := by
  have h : ∀ s ∈ collectives, let o := State.flight s 0; let c := collOf o.kind
      (s.collOpen 1 = some (0, o, c, 3, 0) ∧ s.ops.get? 0 = some o ∧ o.kind = .coll 1 c 3 0 ∧
        s.collNumbered 1 c.number = some (0, c) ∧ c.number < s.collCount.getD 1 0 ∧ s.collOps 1 = [(0, o)]) := by decide +kernel
  have g : ∀ s ∈ collectives, let c := collOf (State.flight s 0).kind
      (s.collGroup 1).valid = true ∧ c.mode = 0 ∧ c.decided = none ∧ s.inputs = [] ∧
      (c.passed = true → (s.collGroup 1).rank + 1 ≠ (s.collGroup 1).size) ∧
      (c.passed = false → (s.collGroup 1).rank + 1 = (s.collGroup 1).size ∧ 0 < (s.collGroup 1).rank) := by decide +kernel
  intro s hs o c
  obtain ⟨h1, h2, h3, h4, h5, h6⟩ := h s hs
  have h7 := g s hs
  refine ⟨⟨h1, h2, h3, h4, h5, ?_⟩, h7⟩
  intro p hp k' q x y e
  rw [h6, List.mem_singleton] at hp
  rw [hp, h3] at e
  cases e
  exact h7.2.2.1

theorem test_meets_CollectiveSteps_places :
    ∀ s ∈ collectives, let o := State.flight s 0; let c := collOf o.kind
      CollAt s o c c.status 0x6000 8 ∧ CommitPlaces s o c 0x6000 0x5000 4 := by
  have h : ∀ s ∈ collectives, let o := State.flight s 0; let c := collOf o.kind
      (o.core = 0 ∧ o.err = none ∧ c.part = 0 ∧ c.status = 0x6000 ∧ c.dst = 0x5000) ∧ s.recordOf (s.ctx o.ctx) = none ∧
      (s.locks = [] ∧ s.bars = [] ∧ s.rings = [] ∧ s.ctxs.all (fun p => decide (p.2.status = .running)) = true) ∧
      s.ops.all (fun p => match p.2.kind with | .matrix _ => false | _ => true) = true ∧ (∀ p ∈ s.blocks, p.2.unseen = []) ∧
      (s.parts.get? 0 = some { quads := [0, 1, 2, 3], root := 0x40000000 } ∧ (s.traces = [] ∧ s.ecc = []) ∧
        s.physNat 255 0x40000000 8 = 0x40100001 ∧ s.physNat 255 0x40100000 8 = 0x1F) := by decide +kernel
  intro s hs o c
  obtain ⟨⟨h1, h2, h3, h4, h5⟩, h6, h7, h8, h9, h10⟩ := h s hs
  have a : CollAt s o c c.status 0x6000 8 := h4 ▸ collAt_of s o c 0x6000 8 (by decide) h1 h2 h3 h6 h7 h8 h9 h10
  refine ⟨a, h5 ▸ collAt_of s o c 0x5000 4 (by decide) h1 h2 h3 h6 h7 h8 h9 h10, a, .inl (by decide), ?_⟩
  intro u hu e ec i hi
  rw [show o.core = 0 from h1, show c.part = 0 from h3, show o.err = none from h2, show c.status = 0x6000 from h4]
  refine side_first u (0x6000 + i) (by omega) ?_ ?_ ?_ ?_
  · rw [e]; exact h10.1
  · refine ⟨by rw [e]; exact h10.2.1.1, ?_⟩
    rw [h10.2.1.2] at ec
    exact List.eq_nil_iff_forall_not_mem.mpr (fun a ha => nomatch ec a ha)
  · exact (physNat_congr s u _ (by decide) (fun j hj => hu _ (by omega))).trans h10.2.2.1
  · exact (physNat_congr s u _ (by decide) (fun j hj => hu _ (by omega))).trans h10.2.2.2

theorem test_meets_CollectiveSteps_result :
    let c := collOf (State.flight (collecting 1 0 false false) 0).kind
    let data : List Byte := toBytes 4 1 ++ toBytes 2 0 ++ toBytes 2 0 ++ toBytes 4 5
    data.take 8 = toBytes 4 c.n ++ toBytes 2 c.op ++ toBytes 2 c.mode ∧ (toBytes 4 6).length = c.n * elementSize c.op ∧
    ∀ i, i < c.n → element (elementSize c.op) (toBytes 4 6) i =
      combined c.op (element (elementSize c.op) (data.drop 8) i) (element (elementSize c.op) c.contribution i) := by
  decide +kernel

/-- Group 1 with three ranks and a stage of one page, of which this device is the second. -/
def middle (s : State) : State :=
  { s with mem := s.mem.writeBytes (mgmtBase + 0x20040) (toBytes 4 (0x80010003 + 1 * 2 ^ 9) ++ toBytes 4 0) }

theorem test_meets_CollectiveSteps_contributions :
    (let s := middle (user [])
     (s.collGroup 1).rank = 1 ∧ s.collCount.getD 1 0 = 0 ∧ s.collNumbered 1 7 = none ∧ s.collDone.getD 1 [] = [] ∧
     s.collIn.getD 1 [] = [] ∧ (s.collGroup 1).stage * 2 ^ 16 + 8 = 65544 ∧ (s.collGroup 1).rank + 1 ≠ (s.collGroup 1).size) ∧
    (let s := middle (collecting 1 0 false false)
     (s.collGroup 1).rank + 1 ≠ (s.collGroup 1).size ∧ 0 < (s.collGroup 1).rank) := by
  refine ⟨?_, ?_⟩ <;> decide +kernel

theorem test_meets_CollectiveSteps_entries :
    ((user []).held = [] ∧ (user []).mustWait (mgmtBase + 0x20000 + 64 * 255 + 4 * 15) (toBytes 4 7) = false ∧
      Unguarded (user []) (mgmtBase + 0x20000 + 64 * 255 + 4 * 15) 4 ∧ ∀ h, h < 256 → (user []).collNumbers h = []) ∧
    (let s := (collecting 0 0 true false).updColl 0 (fun c => { c with decided := some ⟨true, 0, 0, []⟩ })
     s.held = [] ∧ s.collBusy 1 = true ∧ 128 ≤ (s.mem.read (mgmtBase + 0x20000 + 64 * 1 + 3)).toNat ∧
       ∀ h, h < 256 → s.collNumbers h = []) :=
  ⟨⟨by decide +kernel, by decide +kernel, unguarded_free _ _ _ (by decide +kernel), by decide +kernel⟩, by decide +kernel⟩
/-- The user machine whose launch is another. -/
def launched (q : Launch) : State := { user [] with launches := [(1, q)] }

/-- A record of a stream. -/
def staged (pa : Nat) (l : List Byte) : Staged := { grp := 0, lane := 0, seq := 0, pa := pa, kind := 0, data := l }

/-- The user machine whose thread has exited; its block runs the root task of the launch. -/
def finished : State :=
  { (user []).updCtx 4 (fun c => { c with status := .exited }) with
    tasks := [(0, { launch := 1, phase := .running, block := some 1, root := some 0 })] }

/-- A launch of two blocks, with nothing of it resident, whose record lies at 0x7000. -/
def pendingLaunch : Launch := { kernel := { regs := 16, bclass := 2 }, nbx := 2, compl := 0x7000, dispatched := 1 }

/-- Task 1 of a launch is at the tail of core 0's queue. -/
def queuedTask : State :=
  { launched { pendingLaunch with dispatched := 2 } with
    tasks := [(1, { launch := 1, phase := .queued, queue := some 0 })], cores := [(0, { taskQ := [1] })] }

/-- The candidate of an answer. -/
def candidate (c : Option Candidate) : Candidate := c.getD ⟨0, 0, 0, 0, .task 0 0⟩

theorem test_meets_LaunchProgress_commit :
    (let q : Launch := { streams := [(0, [staged 0x1000 [1], staged 0x4000000000 [2, 3]])] }
     (launched q).launches.get? 1 = some q ∧ q.ending = none ∧ q.trace = none ∧
      q.streams.get? q.committed = some [staged 0x1000 [1], staged 0x4000000000 [2, 3]] ∧
      (∀ r ∈ [staged 0x1000 [1], staged 0x4000000000 [2, 3]], r.kind = 0 ∧ r.pa + r.data.length ≤ 2 ^ 39)) ∧
    (∀ m ∈ [[staged 0x1000 [1]], [staged 0x1000 [2]]],
      let q : Launch := { first := [(7, 3, [staged 0x1000 [1]])], second := [(7, 9, m)] }
      (launched q).launches.get? 1 = some q ∧ q.first.get? 7 = some (3, [staged 0x1000 [1]]) ∧
        q.second.get? 7 = some (9, m) ∧ q.ending = none ∧ q.gang = none ∧ q.prop = none) ∧
    sha256 (streamBytes [staged 0x1000 [1]]) ≠ sha256 (streamBytes [staged 0x1000 [2]]) := by
  refine ⟨?_, ?_, ?_⟩ <;> decide +kernel

theorem test_meets_LaunchProgress_memory (q : Launch) (x n : Nat) : Unguarded (launched q) x n :=
  unguarded_free _ _ _ ⟨rfl, rfl, rfl, rfl⟩

theorem test_meets_LaunchProgress_ends :
    (finished.blockOver 1 = true ∧ (finished.block 1).stage = [] ∧ (finished.block 1).failed = none ∧
      (finished.block 1).sample = none ∧ (finished.tasks.getD (finished.block 1).task {}).record = none ∧
      (finished.launches.getD (finished.block 1).launch {}).prop = none ∧
      (finished.launches.getD (finished.tasks.getD (finished.block 1).task {}).launch {}).prop = none ∧ finished.faults = [] ∧
      (∀ p ∈ finished.cores, p.2.growQ = [])) ∧
    (let q : Launch := { pendingLaunch with ending := some ⟨2, 0x103, 1, 5, 0x100, 0⟩ }
     let s : State := { launched q with blocks := [], ctxs := [], groups := [] }
     s.launches.get? 1 = some q ∧ s.launchDone 1 q = true ∧ q.prop = none) ∧
    (let q : Launch := { pendingLaunch with dispatched := 2 }
     ({ launched q with blocks := [], ctxs := [], groups := [] } : State).launchDone 1 q = true) := by
  refine ⟨?_, ?_, ?_⟩ <;> decide +kernel

theorem test_meets_LaunchProgress_starts :
    (let s := launched pendingLaunch
     let c := candidate ((s.choose 0).map (·.1))
     s.choose 0 = some (c, none) ∧ c.work = .block 1 [0] [] ∧ s.launches.get? 1 = some pendingLaunch ∧
      pendingLaunch.reserved = false ∧ s.freeEntry.isSome = true) ∧
    (let s := queuedTask
     let c := candidate ((s.candidates 0).find? (Candidate.forCore 0))
     (s.candidates 0).find? (Candidate.forCore 0) = some c ∧ s.choose 0 = some (c, none) ∧
      c.work = .task 1 0 ∧ s.admits 0 1 = some [0] ∧
      s.tasks.get? 1 = some { launch := 1, phase := .queued, queue := some 0 }) := by
  refine ⟨?_, ?_⟩ <;> decide +kernel

/-! ### Commands, slots and gangs -/

/-- Words in memory, from a physical address. -/
def Memory.words (m : Memory) (pa : Nat) (l : List Nat) : Memory := m.writeBytes pa (l.flatMap (toBytes 4))

/-- A queue of partition 0 with two entries at 0x8000 and this command at its head; its control block is at 0x10000. -/
def queueMemory (l : List Nat) (age : Nat) : Memory :=
  Memory.words (Memory.words tables 0x10000 [0x8000, 0, 0x80000001, age, 1, 0]) 0x8000 l

/-- The launch descriptor of kernel 0, at code base 0x40000, of n threads; its record is to lie at 0x7000. -/
def descriptor (n : Nat) : List Nat := [0x40000, 0, 0x2000, 0, 0, 1, 1, 1, n, 0, 0, 0, 0, 0, 0x7000, 0]

/-- Slot 0 is mapped to the queue with this command; descriptors of one thread and of none lie at 0x9000 and 0x9080, and
a list that names the first twice at 0x9100. -/
def queued (q : Slot) (l : List Nat) : State :=
  { user [] with
    mem := Memory.words (Memory.words (Memory.words (queueMemory l 7) 0x9000 (descriptor 1)) 0x9080 (descriptor 0)) 0x9100
      [0x9000, 0, 0x9000, 0]
    images := [⟨0, 0x40000, [(0, { regs := 16, bclass := 2 })]⟩]
    slots := [(0, q)] }

/-- The mapped slot. -/
def head : Slot := { qcb := 0x10000, map := true, busy := true }

/-- A trace of partition 0 that is done, with nothing stale. -/
def settled (s : State) : State := { s with traces := [(3, { done := true })] }

/-- The words of a command that is judged good. -/
def goodWords : Judged → List Word
  | .ok l => l
  | _ => []

/-- The launch prepared, or rejected. -/
def preparedLaunch : Prepared → Launch
  | .ok q _ _ => q
  | .reject q _ => q
  | .none => {}

theorem test_meets_QueueCommands :
    (∀ op ∈ [1, 2, 3, 4, 5], let s := queued head [op, 1]
      s.slots.get? 0 ≠ none ∧ s.judge 0 op = .bad) ∧
    (let s := queued head [1, 0, 0x9000, 0]; let b := (s.beginCommand 0).logDescriptor 0 0x9000; let r := preparedLaunch (b.prepare 0 0x9000)
     Commands s 0 1 (goodWords (s.judge 0 1)) ∧ word64 (goodWords (s.judge 0 1)) 2 = 0x9000 ∧
      b.prepare 0 0x9000 = .ok r 0 0 ∧ r.kernel.traced = false ∧ r.kernel.bclass ≠ 0 ∧ r.gang = none ∧
      withinBudget r.kernel r.nthr = true) ∧
    (let s := queued head [1, 0, 0x9080, 0]; let b := (s.beginCommand 0).logDescriptor 0 0x9080
     Commands s 0 1 (goodWords (s.judge 0 1)) ∧ word64 (goodWords (s.judge 0 1)) 2 = 0x9080 ∧
      b.prepare 0 0x9080 = .reject (preparedLaunch (b.prepare 0 0x9080)) 0x391) := by
  refine ⟨?_, ?_, ?_⟩ <;> (try unfold Commands) <;> decide +kernel

theorem test_meets_QueueCommands_others :
    (∀ q ∈ [{ head with running := true, result := some 4 }, head], let s := queued q [3, 0, 3, 0, 0x7000, 0]
      Commands s 0 3 (goodWords (s.judge 0 3)) ∧ s.traces.get? 3 = none) ∧
    (let s := queued head [3, 0, 16, 0, 0x7000, 0]
     Commands s 0 3 (goodWords (s.judge 0 3)) ∧ 15 < ((goodWords (s.judge 0 3)).getD 2 0).toNat) ∧
    (let s := settled (queued head [3, 0, 3, 0, 0x7000, 0])
     Commands s 0 3 (goodWords (s.judge 0 3)) ∧ s.traces.get? 3 = some { done := true } ∧ s.propLaunch 3 = none ∧ (s.slots.getD 0 {}).running = false) ∧
    (∀ b ∈ [false, true], ∀ v ∈ [1, 2], ∀ n ∈ [0, 1],
      let s := queued { head with begun := b, awake := b } [4, 0, 0x9014, 0, v, 0xFFFF, n]
      Commands s 0 4 (goodWords (s.judge 0 4)) ∧ (goodWords (s.judge 0 4)).getD 6 0 = BitVec.ofNat 32 n ∧
        (goodWords (s.judge 0 4)).getD 5 0 = 0xFFFF ∧ (goodWords (s.judge 0 4)).getD 4 0 = BitVec.ofNat 32 v ∧
        s.virtWord 0 (word64 (goodWords (s.judge 0 4)) 2) = some 1) ∧
    (∀ b ∈ [false, true], let q := { head with running := b }
     let s : State := { queued q [5, 0, 0x7000, 0, 9] with launches := [] }
     Commands s 0 5 (goodWords (s.judge 0 5)) ∧ s.earlierLaunch q = false ∧ q.age = 0) ∧
    (let s : State := { queued head [5, 0, 0x7000, 0, 9] with launches := [(1, { pendingLaunch with slot := some 0 })] }
     Commands s 0 5 (goodWords (s.judge 0 5)) ∧ s.earlierLaunch head = true) := by
  refine ⟨?_, ?_, ?_, ?_, ?_, ?_⟩ <;> (try unfold Commands) <;> decide +kernel

/-- The slot 0 machine whose command is LAUNCH of a kernel with two constant words. -/
def launching : State :=
  { queued head [1, 0, 0x9000, 0] with images := [⟨0, 0x40000, [(0, { regs := 16, bclass := 2, consts := 2 })]⟩] }

theorem test_meets_ConstantAndSpecialReads_admission :
    launching.judge 0 1 = .ok (goodWords (launching.judge 0 1)) ∧
    (match exec (.launch 0) launching with | .next _ => true | _ => false) = true ∧
    launching.launches.get? launching.launchNumber = none ∧
    ((after (.launch 0) launching).launches.get? launching.launchNumber).any (fun x => x.kernel.consts = 2) = true := by
  decide +kernel

/-- A slot that a kick may find asleep. -/
def sleeping : State := queued head [4]

/-- A queue of partition 0 that no slot has. -/
def unmapped : State :=
  { sleeping with slots := [(0, { qcb := 0x10000 })], parts := [(0, { quads := [0], qtable := 0x10000, root := 0x40000000 })] }

theorem test_meets_SlotsAndKicks :
    (sleeping.slotOf (sleeping.partOfCore 0) 0 = some 0 ∧ sleeping.slots.get? 0 = some head ∧
      sleeping.responseError 255 (0x10000 + 16) 4 = none) ∧
    (unmapped.partOfCore 0 = 0 ∧ unmapped.slotOf 0 0 = none ∧ (unmapped.parts.get? 0).isSome = true ∧
      unmapped.responseError 255 (0x10000 + 8) 4 = none ∧ unmapped.physNat 255 (0x10000 + 8) 4 / 2 ^ 31 % 2 = 1 ∧ unmapped.physNat 255 (0x10000 + 8) 4 / 2 ^ 8 % 2 ^ 4 = 0 ∧
      ∀ n, n < 4 → (unmapped.ctx n).parkKind ≠ some .wfe) ∧
    ((unmapped.slots.getD 0 {}).map = false ∧ (unmapped.slots.getD 0 {}).busy = false ∧ unmapped.goodQcb 0x10000 = true ∧
      ∀ p ∈ unmapped.slots, p.2.map = true → p.2.qcb ≠ 0x10000) ∧
    (sleeping.slots.getD 0 {}).map = true ∧ (sleeping.slots.getD 0 {}).running = false ∧
    (∀ n ∈ [12, 20], sleeping.accessError 255 (0x10000 + n) 4 = none ∧ sleeping.cutPeer (0x10000 + n) = false) ∧
    ∀ p ∈ sleeping.slots, sleeping.responseError 255 (p.2.qcb + 16) 4 = none := by
  refine ⟨?_, ?_, ?_, ?_⟩ <;> decide +kernel

/-- Launch 1 is the member of gang g, which device 5 issued or has not yet acknowledged. -/
def gangState (g : Nat) : State :=
  { launched { pendingLaunch with gang := some g, held := true } with
    gangs := [(g, { members := [1], remote := [5], awaiting := [5] })] }

/-- What admits a gang's members, where it does. -/
def admitted (o : Option (State × List Nat)) : State × List Nat := o.getD ({}, [])

/-- The device's read of n words at an address meets no refusal. -/
def readsOk (s : State) (part va n : Nat) : Bool :=
  ((List.range (if n = 0 then 0 else (va % 4 + 4 * n + 3) / 4)).findSome? (fun i =>
    match s.translate part (va / 4 * 4 + 4 * i) needR with
    | .ok pa _ _ => (s.deviceError pa).map (fun cause => (cause, pa))
    | _ => none)).isNone

theorem logReads_of {s : State} {part va n : Nat} (h : readsOk s part va n = true) : s.logReads part va n = s := by
  unfold State.logReads
  split
  · next e => exact absurd ((Option.isNone_iff_eq_none.mp h).symm.trans e) nofun
  · rfl

theorem logDescriptor_of {s : State} {part va : Nat} (h : (s.descriptorReads part va).all (fun r => readsOk s part r.1 r.2) = true) :
    s.logDescriptor part va = s := by
  unfold State.logDescriptor
  generalize s.descriptorReads part va = l at h ⊢
  induction l with
  | nil => rfl
  | cons r l ih =>
    rw [List.all_cons, Bool.and_eq_true] at h
    rw [List.foldl_cons, logReads_of h.1]
    exact ih h.2

/-- The slot 0 machine whose command is GANG of the list at 0x9100. -/
def ganging : State := queued head [2, 0, 0x9100, 0, 2, 0]

theorem test_meets_GangMessages_reads :
    (ganging.beginCommand 0).logReads 0 0x9100 4 = ganging.beginCommand 0 ∧
      (ganging.beginCommand 0).logDescriptor 0 0x9000 = ganging.beginCommand 0 ∧ ganging.logDescriptor 0 0x9000 = ganging :=
  ⟨logReads_of (by decide +kernel), logDescriptor_of (by decide +kernel), logDescriptor_of (by decide +kernel)⟩

theorem test_meets_GangMessages :
    let s := ganging; let b := s.beginCommand 0; let l := goodWords (s.judge 0 2)
    let ws := (b.virtWords 0 0x9100 4).getD []
    let ps := b.prepareAll 0 ((List.range 2).map (fun i => word64 ws (2 * i)))
    let a := { b with free := s.free + 256 : State }.admitAll s.localGang false ((goodMembers ps).map (fun p =>
      ({ p.1 with slot := some 0, queue := 0, prio := b.slotPriority (b.slots.getD 0 {}) }, p.2)))
    Commands s 0 2 l ∧ (l.getD 4 0).toNat = 2 ∧ (l.getD 5 0).toNat = 0 ∧ word64 l 2 = 0x9100 ∧
      b.virtWords 0 0x9100 4 = some ws ∧ (goodMembers ps).length = 2 ∧ a.isSome = true ∧ (admitted a).1.slots = b.slots ∧
      ∀ i, i < 2 → word64 ws (2 * i) = 0x9000 := by
  unfold Commands
  decide +kernel

theorem test_meets_GangMessages_others :
    (let s := ganging; let ps := s.prepareAll 0 [0x9000, 0x9000]
     let a := s.admitAll (6 * 2 ^ 32 + 3) true (goodMembers ps)
     (goodMembers ps).length = 2 ∧ s.gangs.get? (6 * 2 ^ 32 + 3) = none ∧ a.isSome = true) ∧
    (∀ g ∈ [6 * 2 ^ 32 + 3, 3], let s := gangState g; let x := s.gangs.getD g {}
     s.gangs.get? g = some x ∧ x.aborted = false ∧ x.started = false ∧ 5 ∈ x.awaiting ∧ x.members = [1] ∧
      s.launches.get? 1 = some (s.launches.getD 1 {}) ∧ (s.launches.getD 1 {}).ending = none) := by
  refine ⟨?_, ?_⟩ <;> decide +kernel
/-! ### Answers, alarms and preemption -/

/-- The user thread waits so. -/
def waiting (p : Park) (scope : Nat) : State :=
  (launched { kernel := { regs := 16 }, handler := 0x2000, watchdog := 16, dispatched := 1 }).updCtx 4
    (fun c => { c with status := .parked p 7 scope 65536 })

/-- It waits on an entry of core 0's fault buffer. -/
def faulted : State := { waiting (.xfault (some 3) 0x12345 9) 0 with faults := [(3, ⟨0, 0x10000, 65536⟩)] }

/-- The key of a fault buffer's waiter that has no entry. -/
def unentered (q : Park) : Bool :=
  match q with
  | .xfault none _ _ => true
  | _ => false

theorem test_meets_AnswersAndAlarms_faults :
    (faulted.faults.get? 3).isSome = true ∧ faulted.faultQ = [] ∧ faulted.NoneWait unentered ∧ faulted.faultWaiters 3 = [4] ∧
    (faulted.ctx 4).status = .parked (.xfault (some 3) 0x12345 9) 7 0 65536 ∧ (faulted.ctxs.get? 4).isSome = true ∧
    faulted.handlerOf (faulted.ctx 4) ≠ 0 ∧ (faulted.ctx 4).handler = false := by decide +kernel

theorem test_meets_AnswersAndAlarms_watchdog :
    ∀ p ∈ [Park.join 2, .waitv 0x1000, .qlock 0x1000 1, .bar 0x1000, .regrp 1, .prop 3 2 4, .tagged 0x1000 0 4 0],
      let s := waiting p 3
      isSteward (s.ctx 4).core = false ∧ (s.launchFor (s.ctx 4)).watchdog ≠ 0 ∧ 2 ^ (s.launchFor (s.ctx 4)).watchdog ≤ (s.ctx 4).count ∧
      s.resident 4 = true ∧ s.watched 4 = some 3 ∧
      (s.ctxs.get? 4).isSome = true ∧ s.handlerOf (s.ctx 4) ≠ 0 ∧ (s.ctx 4).handler = false ∧
      (s.ctx 4).parkKind.any isRingWait = false := by
  decide +kernel

/-- Its group waits for more rows than its launch's budget has. -/
def starving : State :=
  { waiting (.grow 200) 0 with cores := [(0, { freeRows := 8, growQ := [(0, 200)], quiet := 65536 })] }

theorem test_meets_AnswersAndAlarms_others :
    (starving.deadlockHolds 0 = true ∧ 65536 ≤ (starving.core 0).quiet ∧ (starving.core 0).growQ = [(0, 200)] ∧
      (starving.group 0).saved = none ∧ (starving.group 0).members = [4] ∧
      (starving.group 0).block = (starving.ctx 4).block ∧ (starving.ctx 4).parkKind = some (.grow 200) ∧
      (starving.launches.get? (starving.block 1).launch).isSome = true) ∧
    (starving.handlerOf (starving.ctx 4) ≠ 0 ∧ (starving.ctx 4).handler = false) ∧
    (let s := starving.updLaunch 1 (fun q => { q with handler := 0 }); let q := s.launches.getD 1 {}
     s.deadlockHolds 0 = true ∧ s.handlerOf (s.ctx 4) = 0 ∧ q.deadlocked = [] ∧ q.deadlock = none ∧ q.ending = none ∧
       q.prop = none ∧ q.gang = none) := by
  refine ⟨?_, ?_, ?_⟩ <;> decide +kernel

/-- A PC of the user thread's group has waited since cycle 0 on a core at cycle 70,000. -/
def starved : State :=
  ((user []).updGroup 0 (fun g => { g with pcSince := [(0x200, 0)] })).updCore 0 (fun c => { c with cycle := 70000 })

theorem test_meets_AnswersAndAlarms_blocks :
    ((starving.blocks.get? 1).isSome = true ∧ (starving.block 1).restart = false ∧
      (starving.launches.getD 1 {}).ending = none ∧ (starving.launches.getD 1 {}).gang = none ∧
      (starving.launches.getD 1 {}).prop = none) ∧
    (((restartable []).block 1).restart = true ∧
      ((restartable []).tasks.getD ((restartable []).block 1).task {}).runs < 3) ∧
    (let s := (restartable []).updBlock 1 (fun b => { b with sample := some 1, runs := 3 })
     (s.block 1).sample = some 1 ∧ (s.block 1).restart = true ∧ 3 ≤ (s.block 1).runs ∧
      (s.launches.getD 1 {}).ending = none ∧ (s.launches.getD 1 {}).gang = none ∧ (s.launches.getD 1 {}).prop = none) ∧
    (starved.groups.get? (groupKey 0 0)).isSome = true ∧ (starved.block 1).kernel.tclass = 0 ∧
    (0x200 : DWord) ∉ (starved.group 0).starved ∧ ((0x200 : DWord), 0) ∈ (starved.group 0).pcSince ∧
    0 + (starved.launches.getD (starved.block 1).launch {}).starve ≤ starved.now 0 := by decide +kernel

/-- The user machine whose block's groups are units of their own, asked to stop. -/
def askedToStop (saved : Option (Nat × List Byte)) : State :=
  { user [(4, 5)] with
    groups := [(0, { block := 1, alloc := 256, members := [4], preempt := true, saved := saved })]
    blocks := [(1, { launch := 1, kernel := { placedKernel with gclass := 1, bclass := 1 }, bclass := 1, cores := [0] })]
    launches := [(1, { kernel := placedKernel, save := 0x100000, dispatched := 1 })], issue := none }

/-- A partition on quad 0, its groups saved, and another that is off its cores. -/
def twoPartitions : State :=
  { askedToStop (some (0, [])) with parts := [(0, { quads := [0, 1] }), (1, { quads := [0], swapped := true })] }

theorem test_meets_PreemptionSteps :
    ((user []).groups.get? (groupKey 0 0)).isSome = true ∧
    (let s := askedToStop none
     s.groups.get? (groupKey 0 0) = some (s.group 0) ∧ s.unitKeys 0 = [0] ∧ s.groupQuiet 0 = true ∧
      (s.block (s.group 0).block).kernel.gclass ≠ 0 ∧ (s.block (s.group 0).block).failed = none ∧
      (s.block (s.group 0).block).failing = none ∧ s.faults = [] ∧ s.faultQ = []) ∧
    (let s := twoPartitions
     (s.parts.getD 0 {}).swapped = false ∧ (s.parts.getD 1 {}).swapped = true ∧ s.partSaved 0 = true ∧
      (∀ d ∈ (s.parts.getD 1 {}).quads, d ∈ (s.parts.getD 0 {}).quads) ∧ ∀ b ∈ s.blocks, b.2.saved = none) := by
  refine ⟨?_, ?_, ?_⟩ <;> decide +kernel

theorem test_meets_PreemptionSteps_resume :
    let s := askedToStop (some (0x100000, List.replicate 1536 0))
    let part := (s.launches.getD (s.block (s.group 0).block).launch {}).part
    (s.group 0).saved.isSome = true ∧ s.unitKeys 0 = [0] ∧ s.areaKept part (s.group 0).saved 0 256 = true ∧
      (s.ctx 4).lane = 0 ∧ s.areaKept part (s.group 0).saved (256 + 1280 * 0) 1280 = true ∧
      s.NoneWait (fun q => match q with | .regrp _ => true | _ => false) := by
  decide +kernel
/-! ### Power, links, the host and boot -/

/-- The device is in a boot state, or waits so in tack mode. -/
def booting (b : Boot) : State := { user [] with boot := b }

theorem test_meets_PowerAndLinks :
    (∀ j ∈ [90, 95, 96, 109], (j : Nat) < 110) ∧ (¬ ∃ n ∈ (user []).bypassCounts 0, 0 < n) ∧
    (∃ n ∈ (launched { pendingLaunch with bypass := 4 }).bypassCounts 0, 0 < n) ∧
    (((user []).links.getD 3 {}).up = true ∧ NoCollective (user [])) ∧
    ((user []).held = [] ∧ (user []).mustWait (mgmtBase + 0x30008) (toBytes 8 0xFFF) = false) := by
  refine ⟨?_, ?_, ?_, ?_, ?_⟩ <;> (try unfold NoCollective) <;> decide +kernel

/-- Device 1's traffic takes link 0, and a load of the user thread asks its memory for a word. -/
def asking : State :=
  let s := flying (.load (peerBase + 0x10000000000) 4 false) [2]
  { s with mem := s.mem.writeBytes (mgmtBase + 0x30008) [1] }

theorem test_meets_PowerAndLinks_waits : asking.held = [] ∧ NoCollective asking ∧
    asking.mustWait (mgmtBase + 0x30008) (toBytes 8 2) = true := by
  unfold NoCollective
  decide +kernel

theorem test_meets_PowerAndLinks_registers (x n : Nat) : (user []).held = [] ∧ Unguarded (user []) x n :=
  ⟨rfl, unguarded_free _ _ _ ⟨rfl, rfl, rfl, rfl⟩⟩

theorem test_meets_HostAndPartitions :
    ((user []).boot.state ≠ 4 ∧ (user []).held = [] ∧ NoCollective (user []) ∧ 0x1000 + 64 ≤ (user []).barSize 0 ∧
      ∀ i, i < 64 → (user []).storeAt (0x1000 + i) = 0x1000 + i) ∧
    (((user []).parts.get? 0).isSome = true ∧ 0x1000 + 4 ≤ (user []).barSize 1 ∧
      ∀ i, i < 4 → (user []).translate 0 (0x1000 + i) needR = .ok (0x1000 + i) false false ∧ 0x1000 + i < 2 ^ 39) ∧
    (let s := launched pendingLaunch
     s.launches.filter (fun p => decide (p.2.part = 0)) = [(1, pendingLaunch)] ∧ pendingLaunch.prop = none) ∧
    (let s := booting { state := 3 }; s.parts.get? 5 = none ∧ s.boot.state = 3 ∧ [4, 7].Nodup) ∧
    (Shares (user []) 5 16384 ∧ ¬ Shares (user []) 5 17) := by
  refine ⟨?_, ?_, ?_, ?_, ?_⟩ <;> (try unfold NoCollective) <;> (try unfold Shares) <;> decide +kernel

theorem test_meets_BootSteps :
    (∀ n ≤ 2, (booting { state := n, linkUp := true, url := true, attempts := n }).boot.state ≤ 2) ∧
    ((booting { state := 4, verifying := true }).boot.state = 4 ∧ (booting { state := 4, verifying := true }).boot.verifying = true) ∧
    (booting { state := 3, signing := true }).boot.signing = true ∧
    ((steward []).ctxs.get? 0).isSome = true ∧ ((steward []).ctx 0).parkKind ≠ some .wfe ∧
    (((steward []).updCtx 0 (fun c => { c with status := .parked .wfe 0 0 0 })).ctx 0).parkKind = some .wfe := by
  refine ⟨?_, ?_, ?_, ?_, ?_, ?_⟩ <;> decide +kernel
/-! ### Encodings, memory and steps -/

/-- A word where the user thread of a machine with nothing else fetches it. -/
def fetching (w : Nat) : State := { State.reset.withFetchWord 32 0x40042105 with mem := State.reset.mem.place w }

/-- A step answers a next state. -/
def goesOn (s : State) : Bool :=
  match step s with
  | .next _ => true
  | _ => false

/-- The lead of a core, where there is one. -/
def leadOf (s : State) (a : Nat) : Lead := (s.lead a).getD ⟨0, 0, [], false⟩

theorem test_meets_DecodeEncode :
    (Instr.add ⟨true, false, 5⟩ 2 4 63).isWord = true ∧ (Instr.add ⟨true, false, 5⟩ 2 4 63).wf false = true ∧
    (decode true 0x46B80000).toOption = some (.wfe ⟨false, true, 0⟩) := by decide +kernel

theorem test_meets_StepKeepsMemoryForm : (fetching 0x40042105).MemCanonical ∧ goesOn (fetching 0x40042105) = true := by
  decide +kernel

theorem test_meets_StepRunsDecoded :
    ({ user [] with inputs := [.powerFault] } : State).inputs = [.powerFault] ∧
    (∀ w ∈ [0x40042105, 0], let s := fetching w; let l := leadOf s 0
      let u := (({ s with turn := 1 } : State).ageGroups 0).beginRun 0 l
      s.inputs = [] ∧ s.nextAgent = some 0 ∧ s.lead 0 = some l ∧ l.fresh = true ∧ (∀ id ∈ l.cohort, (s.ctx id).due = false) ∧
      u.fetch (u.ctx (l.cohort.headD 0)) l.pc = .ok (BitVec.ofNat 32 w)) ∧
    (let s := (fetching 0x40042105).updGroup 0 (fun g => { g with run := some ⟨0, [4], 1, none, false, []⟩ })
     let l := leadOf s 0
     let u := ({ s with turn := 1 } : State).ageGroups 0
     s.inputs = [] ∧ s.nextAgent = some 0 ∧ s.lead 0 = some l ∧ l.fresh = false ∧
      u.fetch (u.ctx (l.cohort.headD 0)) l.pc = .ok 0x40042105) := by
  refine ⟨?_, ?_, ?_⟩ <;> decide +kernel

/-- The state in which a chain of n words more at most ends, where none of them is held or cannot be fetched. -/
def chainEnd : Nat → State → Issue → Option State
  | 0, t, is => if t.chainedTo is = none then some t else none
  | n + 1, t, is =>
    match t.chainedTo is with
    | none => some t
    | some b =>
      match t.fetch (t.ctx (b.cohort.headD 0)) b.pc with
      | .ok w =>
        match decode (isSteward b.core) w.toNat with
        | .error r => some (t.trapAll { b with word := w } ⟨r.cause, b.pc, w⟩)
        | .ok i =>
          match exec i { t with issue := some { b with word := w } } with
          | .next v => if v.standsAt b then none else chainEnd n v b
          | _ => none
      | _ => none

/-- Such a state is one that the statement's chain ends in. -/
theorem chainEnd_to (n : Nat) : ∀ (t : State) (is : Issue) (z : State), chainEnd n t is = some z → ChainTo n t is z := by
  induction n with
  | zero =>
    intro t is z h
    simp only [chainEnd] at h
    split at h
    · exact ⟨‹_›, (Option.some.inj h).symm⟩
    · cases h
  | succ n ih =>
    intro t is z h
    simp only [chainEnd] at h
    split at h
    · exact .inl ⟨‹_›, (Option.some.inj h).symm⟩
    · rename_i b hb
      split at h
      · rename_i w hw
        refine .inr ⟨b, w, hb, hw, ?_⟩
        split at h
        · rename_i r hr
          exact .inl ⟨r, hr, (Option.some.inj h).symm⟩
        · rename_i i hi
          split at h
          · rename_i v hv
            split at h
            · cases h
            · rename_i hs
              exact .inr ⟨i, v, hi, hv, by simpa using hs, ih _ _ _ h⟩
          · cases h
      · cases h

/-- These words follow the first one that the user thread of a machine with nothing else fetches. -/
def chaining (w : Nat) (ws : List Nat) : State :=
  let s := fetching w
  { s with mem := s.mem.writeBytes ((leadOf s 0).pc.toNat + 4) (ws.flatMap (toBytes 4)) }

/-- The first word's issue, and what it leaves. -/
def firstOf (s : State) (w : Word) : Option (Issue × State) :=
  let l := leadOf s 0
  let is : Issue := ⟨0, l.slot, l.pc, w, l.cohort⟩
  match decode false w.toNat with
  | .ok i =>
    match exec i { (({ s with turn := 1 } : State).ageGroups 0).beginRun 0 l with issue := some is } with
    | .next t => some (is, t)
    | _ => none
  | .error _ => none

/-- The PC at which the user thread stands when the chain has ended. -/
def chainPc (s : State) (w : Word) : Option DWord :=
  match firstOf s w with
  | some (is, t) => (chainEnd 2 t is).map (fun z => (z.ctx 4).pc - is.pc)
  | none => none

/-- ADD, FADD and JOINSET in one packet; ADD and FADD alone; ADD before a word that the table does not have; and a chained
word that traps. -/
theorem test_meets_StepRunsDecoded_chain :
    (∀ p ∈ ([([0x81046105, 0x06850440], some 12), ([0x01046105], some 8), ([0], some 4)] : List (List Nat × Option DWord)),
      let s := chaining 0x80042105 p.1
      let l := leadOf s 0
      let u := (({ s with turn := 1 } : State).ageGroups 0).beginRun 0 l
      u.fetch (u.ctx (l.cohort.headD 0)) l.pc = .ok 0x80042105 ∧ (0x80042105 : Word).msb = true ∧
      chainPc s 0x80042105 = p.2) ∧
    chainPc (fetching 0xC0042105) 0xC0042105 = some 0 := by
  decide +kernel

/-- The user thread's PC lies beyond every virtual address. -/
theorem test_meets_StepRunsDecoded_bad :
    let s := (fetching 0).updCtx 4 (fun c => { c with pc := 0x100000000000000 })
    let l := leadOf s 0
    let u := (({ s with turn := 1 } : State).ageGroups 0).beginRun 0 l
    s.inputs = [] ∧ s.nextAgent = some 0 ∧ s.lead 0 = some l ∧ l.fresh = true ∧
    u.fetch (u.ctx (l.cohort.headD 0)) l.pc = .bad 0x101 := by decide +kernel
/-! ## Examples that the spec works -/

/-- What register k holds once a word's results have landed. -/
def gives (i : Instr) (s : State) (id k : Nat) : Word := ((after i s).ctx id).readV 1000000 k

/-- The flags then. -/
def flagsOf (i : Instr) (v : Store Word) : Word := ((after i (user v)).ctx 4).readFstat 1000000

/-- Chapter 12: BFX of bits 15 to 4, sign-extended. -/
theorem test_bfx_example : gives (.bfx c0 6 4 5) (user [(4, 0xF0A0), (5, 0x10C04)]) 4 6 = 0xFFFFFF0A := by decide +kernel

/-- Chapter 13: FMUL rounds a tie to even, and FFMA rounds once. -/
theorem test_ffma_example :
    gives (.fmul c0 8 4 4) (user [(4, 0x3F800800)]) 4 8 = 0x3F801000 ∧ flagsOf (.fmul c0 8 4 4) [(4, 0x3F800800)] = 0x10 ∧
    gives (.fadd c0 9 8 6) (user [(8, 0x3F801000), (6, 0xBF800000)]) 4 9 = 0x3A000000 ∧
    gives (.ffma c0 6 4 4) (user [(4, 0x3F800800), (6, 0xBF800000)]) 4 6 = 0x3A000400 ∧
    flagsOf (.ffma c0 6 4 4) [(4, 0x3F800800), (6, 0xBF800000)] = 0 := by decide +kernel

/-- R126 and R127: the codes worked there. -/
theorem test_nq4_examples :
    gives (.nqdec c0 2 4) (user [(4, 0x1F0B)]) 4 2 = 0xBD1F0000 ∧
    gives (.fmul c0 2 4 5) (user [(4, 0xBD1F0000), (5, 0x40400000)]) 4 2 = 0xBDEE8000 ∧
    gives (.nqenc c0 2 4) (user [(4, 0x3EF5C28F)]) 4 2 = 5 ∧ gives (.nqenc c0 2 4) (user [(4, 0xBEF58000)]) 4 2 = 0xC := by
  decide +kernel

/-- Table 13.4, but for its directed modes. -/
theorem test_cvtf8a_table :
    ∀ p ∈ ([(0x43960000, 0x79, 0x10), (0x43E60000, 0x7E, 0x10), (0x43EB0000, 0x7E, 0x30), (0xFF800000, 0xFE, 0x20),
        (0xFFC00000, 0xFF, 0)] : List (Nat × Nat × Nat)),
      gives (.cvtf8a c0 2 4) (user [(4, BitVec.ofNat 32 p.1)]) 4 2 = BitVec.ofNat 32 p.2.1 ∧
      flagsOf (.cvtf8a c0 2 4) [(4, BitVec.ofNat 32 p.1)] = BitVec.ofNat 32 p.2.2 := by decide +kernel

/-- Lanes 0 to 7 of a group, with the keys of Chapter 12's divergent cohort; lane 4 heads a segment. -/
def eight : State :=
  { user [] with
    ctxs := [2, 0, 2, 1, 0, 2, 1, 0].mapIdx (fun k v => (k + 4,
      { block := 1, pc := 0x100, lane := k, tid := k
        v := [(7, if k = 4 then 1 else 0), (8, BitVec.ofNat 32 v), (12, if v = 0 then 0 else 1)] }))
    groups := [(0, { block := 1, alloc := 256, members := (List.range 8).map (· + 4) })]
    issue := some (at0 ((List.range 8).map (· + 4))) }

/-- A column of Table 12.5. -/
def column (i : Instr) : List Nat :=
  let t := after i eight
  (List.range 8).map (fun k => ((t.ctx (k + 4)).readV 1000000 20).toNat)

/-- Table 12.5. -/
theorem test_group_operations_table :
    column (.matchMask c0 20 8) = [0x25, 0x92, 0x25, 0x48, 0x92, 0x25, 0x48, 0x92] ∧
    column (.compact c0 20 8 9) = [5, 0, 6, 3, 1, 7, 4, 2] ∧ column (.gscan c0 20 8 7) = [2, 2, 4, 5, 0, 2, 3, 3] ∧
    column (.gredadd c0 20 8 7) = [5, 5, 5, 5, 3, 3, 3, 3] ∧ column (.ballot c0 20 12) = List.replicate 8 0x6D := by
  refine ⟨?_, ?_, ?_, ?_, ?_⟩ <;> decide +kernel

end Sys2Proof.Tests
end

section
/-!
SUPPORT. What the integer words compute, in the arithmetic of the rules' tables (R103 to R108, R111), and the statement
about them.
-/
namespace Sys2Proof.Machine
open Sys2Proof.Rules

/-! ## Immediates -/

theorem toInt_sext {n : Nat} (i : BitVec n) (h : n ≤ 32) : (sext i).toInt = i.toInt := BitVec.toInt_signExtend_of_le h

theorem toNat_zext {n : Nat} (i : BitVec n) (h : n ≤ 32) : (zext i).toNat = i.toNat := BitVec.toNat_setWidth_of_le h

theorem eq_sext_iff {n : Nat} (x : Word) (i : BitVec n) (h : n ≤ 32) : x.toInt = i.toInt ↔ x = sext i := by
  rw [← toInt_sext i h, BitVec.toInt_inj]

/-! ## Addition, subtraction and multiplication modulo 2 to the width -/

theorem ofNat_add_toNat {n : Nat} (x y : BitVec n) : BitVec.ofNat n (x.toNat + y.toNat) = x + y := by
  simp [BitVec.ofNat_add]

theorem ofNat_mul_toNat {n : Nat} (x y : BitVec n) : BitVec.ofNat n (x.toNat * y.toNat) = x * y := by
  simp [BitVec.ofNat_mul]

theorem ofNat_mul_add_toNat {n : Nat} (x y z : BitVec n) :
    BitVec.ofNat n (x.toNat * y.toNat + z.toNat) = x * y + z := by
  simp [BitVec.ofNat_add, BitVec.ofNat_mul]

theorem ofInt_sub_toNat {n : Nat} (x y : BitVec n) : BitVec.ofInt n (x.toNat - y.toNat) = x - y := by
  rw [Int.sub_eq_add_neg, BitVec.ofInt_add, BitVec.ofInt_neg, BitVec.sub_eq_add_neg]
  simp

theorem ofInt_add_sext {n : Nat} (x : Word) (i : BitVec n) (h : n ≤ 32) :
    BitVec.ofInt 32 (x.toInt + i.toInt) = x + sext i := by
  rw [BitVec.ofInt_add, ← toInt_sext i h, BitVec.ofInt_toInt, BitVec.ofInt_toInt]

theorem ofInt_mul_sext {n : Nat} (x : Word) (i : BitVec n) (h : n ≤ 32) :
    BitVec.ofInt 32 (x.toInt * i.toInt) = x * sext i := by
  rw [BitVec.ofInt_mul, ← toInt_sext i h, BitVec.ofInt_toInt, BitVec.ofInt_toInt]

/-! ## Saturation, minimum and maximum -/

theorem ofInt_clamp (x : Int) : BitVec.ofInt 32 (max (-2 ^ 31) (min (2 ^ 31 - 1) x)) = clamp32 x := by
  unfold clamp32
  split
  · rw [show max (-2 ^ 31) (min (2 ^ 31 - 1) x) = -2 ^ 31 by omega]; rfl
  · split
    · rw [show max (-2 ^ 31) (min (2 ^ 31 - 1) x) = 2 ^ 31 - 1 by omega]; rfl
    · rw [show max (-2 ^ 31) (min (2 ^ 31 - 1) x) = x by omega]

theorem ofInt_min (x y : Word) : BitVec.ofInt 32 (min x.toInt y.toInt) = if x.toInt ≤ y.toInt then x else y := by
  split
  · next h => rw [Int.min_eq_left h, BitVec.ofInt_toInt]
  · next h => rw [Int.min_eq_right (by omega), BitVec.ofInt_toInt]

theorem ofInt_max (x y : Word) : BitVec.ofInt 32 (max x.toInt y.toInt) = if x.toInt ≤ y.toInt then y else x := by
  split
  · next h => rw [Int.max_eq_right h, BitVec.ofInt_toInt]
  · next h => rw [Int.max_eq_left (by omega), BitVec.ofInt_toInt]

theorem ofNat_min (x y : Word) : BitVec.ofNat 32 (min x.toNat y.toNat) = if x.toNat ≤ y.toNat then x else y := by
  split
  · next h => rw [Nat.min_eq_left h, BitVec.ofNat_toNat, BitVec.setWidth_eq]
  · next h => rw [Nat.min_eq_right (by omega), BitVec.ofNat_toNat, BitVec.setWidth_eq]

theorem ofNat_max (x y : Word) : BitVec.ofNat 32 (max x.toNat y.toNat) = if x.toNat ≤ y.toNat then y else x := by
  split
  · next h => rw [Nat.max_eq_right h, BitVec.ofNat_toNat, BitVec.setWidth_eq]
  · next h => rw [Nat.max_eq_left (by omega), BitVec.ofNat_toNat, BitVec.setWidth_eq]

/-- LIH. -/
theorem ofNat_high_low (i : BitVec 16) (x : Word) :
    BitVec.ofNat 32 (i.toNat * 2 ^ 16 + x.toNat % 2 ^ 16) = i ++ x.setWidth 16 := by
  apply BitVec.eq_of_toNat_eq
  rw [BitVec.toNat_append, BitVec.toNat_setWidth, ← Nat.shiftLeft_add_eq_or_of_lt (Nat.mod_lt _ (by decide)),
    Nat.shiftLeft_eq, BitVec.toNat_ofNat]
  exact Nat.mod_eq_of_lt (by omega)

/-! ## Shifts as products and quotients -/

theorem ofNat_mul_two_pow {n : Nat} (x : BitVec n) (k : Nat) : BitVec.ofNat n (x.toNat * 2 ^ k) = x <<< k := by
  apply BitVec.eq_of_toNat_eq
  rw [BitVec.toNat_shiftLeft, Nat.shiftLeft_eq, BitVec.toNat_ofNat]

theorem ofNat_div_two_pow {n : Nat} (x : BitVec n) (k : Nat) : BitVec.ofNat n (x.toNat / 2 ^ k) = x >>> k := by
  apply BitVec.eq_of_toNat_eq
  rw [BitVec.toNat_ushiftRight, Nat.shiftRight_eq_div_pow, BitVec.toNat_ofNat]
  exact Nat.mod_eq_of_lt (Nat.lt_of_le_of_lt (Nat.div_le_self ..) x.isLt)

theorem ofInt_div_two_pow {n : Nat} (x : BitVec n) (k : Nat) :
    BitVec.ofInt n (x.toInt / 2 ^ k) = x.sshiftRight k := by
  rw [BitVec.sshiftRight_eq, Int.shiftRight_eq_div_pow, Int.natCast_pow]; rfl

theorem shl_eq_shlW (x n : Word) : logic.shl x n.toNat = shlW x n := by rw [logic.shl, ofNat_mul_two_pow]; rfl

theorem shr_eq_shrW (x n : Word) : logic.shr x n.toNat = shrW x n := by rw [logic.shr, ofNat_div_two_pow]; rfl

theorem sar_eq_sarW (x n : Word) : logic.sar x n.toNat = sarW x n := by
  rw [logic.sar, ofInt_div_two_pow, sarW, BitVec.msb_eq_getLsbD_last]

theorem shl_zext {n : Nat} (x : Word) (i : BitVec n) (h : n ≤ 32) : logic.shl x i.toNat = shlW x (zext i) := by
  rw [← toNat_zext i h, shl_eq_shlW]

theorem shr_zext {n : Nat} (x : Word) (i : BitVec n) (h : n ≤ 32) : logic.shr x i.toNat = shrW x (zext i) := by
  rw [← toNat_zext i h, shr_eq_shrW]

theorem sar_zext {n : Nat} (x : Word) (i : BitVec n) (h : n ≤ 32) : logic.sar x i.toNat = sarW x (zext i) := by
  rw [← toNat_zext i h, sar_eq_sarW]

theorem rotl_eq_rotlW (x n : Word) :
    BitVec.ofNat 32 (x.toNat * 2 ^ (n.toNat % 32)) ||| BitVec.ofNat 32 (x.toNat / 2 ^ (32 - n.toNat % 32)) =
      rotlW x n := by
  rw [ofNat_mul_two_pow, ofNat_div_two_pow, rotlW, BitVec.rotateLeft_def, Nat.mod_mod]

theorem shll_eq_shllW (x : DWord) (n : Word) :
    (if 64 ≤ n.toNat then 0 else BitVec.ofNat 64 (x.toNat * 2 ^ n.toNat)) = shllW x n := by rw [ofNat_mul_two_pow]; rfl

theorem shrl_eq_shrlW (x : DWord) (n : Word) :
    (if 64 ≤ n.toNat then 0 else BitVec.ofNat 64 (x.toNat / 2 ^ n.toNat)) = shrlW x n := by rw [ofNat_div_two_pow]; rfl

theorem sarl_eq_sarlW (x : DWord) (n : Word) :
    (if 64 ≤ n.toNat then (if x.getLsbD 63 then BitVec.ofNat 64 (2 ^ 64 - 1) else 0)
      else BitVec.ofInt 64 (x.toInt / 2 ^ n.toNat)) = sarlW x n := by
  rw [ofInt_div_two_pow, sarlW, BitVec.msb_eq_getLsbD_last]; rfl

/-! ## Counts and order of bits -/

/-- The sum of the powers of 2 at the places below n that pass a test. -/
def sumPow (q : Nat → Bool) (n : Nat) : Nat := ((List.range n).map (fun l => if q l then 2 ^ l else 0)).sum

theorem sumPow_succ (q : Nat → Bool) (n : Nat) : sumPow q (n + 1) = (if q n then 2 ^ n else 0) + sumPow q n := by
  rw [sumPow, List.range_succ, List.map_append, List.map_singleton, List.sum_append_nat, List.sum_singleton,
    Nat.add_comm, sumPow]

theorem sumPow_lt (q : Nat → Bool) (n : Nat) : sumPow q n < 2 ^ n := by
  induction n with
  | zero => exact Nat.one_pos
  | succ n ih => rw [sumPow_succ, Nat.pow_succ]; split <;> omega

/-- Bit i of the sum is the test at place i. -/
theorem testBit_sumPow (q : Nat → Bool) {n i : Nat} (h : i < n) : (sumPow q n).testBit i = q i := by
  induction n with
  | zero => exact absurd h (Nat.not_lt_zero i)
  | succ n ih =>
    rw [sumPow_succ]
    rcases Nat.lt_succ_iff_lt_or_eq.mp h with lt | rfl
    · rw [← ih lt]
      split
      · exact Nat.testBit_two_pow_add_gt lt _
      · rw [Nat.zero_add]
    · have top := Nat.testBit_lt_two_pow (sumPow_lt q i)
      split
      · next hq => rw [Nat.testBit_two_pow_add_eq, top, hq]; rfl
      · next hq => rw [Nat.zero_add, top, Bool.eq_false_iff.mpr hq]

theorem getElem_ofNat_sum_pow (q : Nat → Bool) {n i : Nat} (h : i < n) :
    (BitVec.ofNat n ((List.range n).map (fun l => if q l then 2 ^ l else 0)).sum)[i] = q i := by
  rw [← BitVec.getLsbD_eq_getElem, BitVec.getLsbD_ofNat, decide_eq_true h, Bool.true_and]
  exact testBit_sumPow q h

theorem brev_eq_brevW (x : Word) :
    BitVec.ofNat 32 ((List.range 32).map (fun i => if x.getLsbD (31 - i) then 2 ^ i else 0)).sum = brevW x := by
  ext i hi
  rw [getElem_ofNat_sum_pow (fun i => x.getLsbD (31 - i)) hi, brevW, BitVec.getElem_reverse, BitVec.getMsbD]
  simp [hi]

theorem popc_eq_popcW (x : Word) : BitVec.ofNat 32 ((List.range 32).countP (fun i => x.getLsbD i)) = popcW x := by
  rw [List.countP_eq_length_filter]; rfl

theorem countP_range_lt (k n : Nat) : (List.range n).countP (fun i => decide (k < i)) = n - 1 - k := by
  induction n with
  | zero => simp
  | succ n ih =>
    rw [List.range_succ, List.countP_append, ih]
    by_cases h : k < n <;> simp [h] <;> omega

/-- The leading zeros of a number are the places above the place of its highest bit. -/
theorem clz_eq_clzW (x : Word) :
    BitVec.ofNat 32 ((List.range 32).countP (fun i => decide (x.toNat < 2 ^ i))) = clzW x := by
  unfold clzW
  split
  · next h => subst h; rfl
  · next h =>
    have hx : x.toNat ≠ 0 := fun e => h (BitVec.eq_of_toNat_eq e)
    simp only [← Nat.log2_lt hx, countP_range_lt]

/-! ## Bit fields -/

theorem width_eq_fieldWidth (ctl : Word) : width ctl = fieldWidth ctl := rfl

/-- A number below 2 ^ w is at least 2 ^ (w - 1) when its bit w - 1 is set. -/
theorem top_bit_iff {w f : Nat} (hw : w ≠ 0) (hf : f < 2 ^ w) : 2 ^ (w - 1) ≤ f ↔ f / 2 ^ (w - 1) % 2 = 1 := by
  obtain ⟨k, rfl⟩ := Nat.exists_eq_succ_of_ne_zero hw
  have hq : f / 2 ^ k < 2 := Nat.div_lt_of_lt_mul (by rwa [Nat.pow_succ] at hf)
  rw [Nat.succ_sub_one, Nat.mod_eq_of_lt hq, ← Nat.one_le_div_iff (Nat.two_pow_pos k)]
  omega

theorem bfx_eq_bfxW (x ctl : Word) :
    (if width ctl = 0 then 0
      else if ctl.getLsbD 16 ∧ 2 ^ (width ctl - 1) ≤ x.toNat / 2 ^ (ctl.toNat % 2 ^ 8) % 2 ^ width ctl then
        BitVec.ofNat 32 (x.toNat / 2 ^ (ctl.toNat % 2 ^ 8) % 2 ^ width ctl + 2 ^ 32 - 2 ^ width ctl)
      else BitVec.ofNat 32 (x.toNat / 2 ^ (ctl.toNat % 2 ^ 8) % 2 ^ width ctl)) = bfxW x ctl := by
  rw [bfxW, width_eq_fieldWidth]
  dsimp only
  by_cases h : fieldWidth ctl = 0
  · rw [if_pos h, if_pos h]
  · rw [if_neg h, if_neg h]
    exact ite_congr (propext (and_congr_right' (top_bit_iff h (Nat.mod_lt _ (Nat.two_pow_pos _)))))
      (fun _ => rfl) (fun _ => rfl)

theorem bfi_eq_bfiW (old x ctl : Word) :
    (if width ctl = 0 then old
      else (old &&& ~~~(BitVec.ofNat 32 ((2 ^ width ctl - 1) * 2 ^ (ctl.toNat % 2 ^ 8)))) |||
        (BitVec.ofNat 32 (x.toNat * 2 ^ (ctl.toNat % 2 ^ 8)) &&&
          BitVec.ofNat 32 ((2 ^ width ctl - 1) * 2 ^ (ctl.toNat % 2 ^ 8)))) = bfiW old x ctl := by
  rw [ofNat_mul_two_pow]; rfl

/-! ## Compares with an immediate -/

theorem bool32_eq_sext {n : Nat} (x : Word) (i : BitVec n) (h : n ≤ 32) :
    bool32 (decide (x.toInt = i.toInt)) = bool32 (decide (x = sext i)) := by
  rw [decide_eq_decide.mpr (eq_sext_iff x i h)]

theorem bool32_lt_sext {n : Nat} (x : Word) (i : BitVec n) (h : n ≤ 32) :
    bool32 (decide (x.toInt < i.toInt)) = bool32 (decide (x.toInt < (sext i).toInt)) := by
  rw [toInt_sext i h]

/-! ## The tables -/

/-- What an instruction does to a state. -/
abbrev Effect := State → Host.Outcome State Fault Refusal

/-- An instruction has the effect of a row of the tables: its own function e is one of the shared meanings of
fixed-latency words, of one register or of a pair, with the row's latency and results. -/
inductive HasRow (i : Instr) (d : RegField) (lat : Nat) (f : Reads → List Word) : Prop where
  | one (e : Effect) (g : Nat → Ctx → Word) (he : ∀ s, e s = write1 s i d g)
      (hv : ∀ t c, f (c.rd t) = [g t c])
      (hx : ∀ s, exec i s = e s := by intro; rfl) (hl : (wordInfo i).lat = lat := by rfl)
  | pair (e : Effect) (g : Nat → Ctx → DWord) (he : ∀ s, e s = write2 s i d g)
      (hv : ∀ t c, f (c.rd t) = two (g t c))
      (hx : ∀ s, exec i s = e s := by intro; rfl) (hl : (wordInfo i).lat = lat := by rfl)

namespace HasRow

variable {i : Instr} {d a b : RegField} {lat : Nat} {f : Reads → List Word}

theorem fixedWord (h : HasRow i d lat f) :
    FixedWord i d lat (fun s is id => (f ((s.ctx id).rd (s.now is.core)), 0)) noneBusy := by
  intro s is hr
  cases h with
  | one e g he hv hx hl => simpa only [hx, he, ← hl, hv] using write1_spec d g hr
  | pair e g he hv hx hl => simpa only [hx, he, ← hl, hv, two] using write2_spec d g hr

theorem of_alu3 (e : Effect) {op : Word → Word → Word}
    (he : ∀ s, e s = alu3 s i d a b op) (hv : ∀ r, f r = [op (r a 0) (r b 0)])
    (hx : ∀ s, exec i s = e s := by intro; rfl) (hl : (wordInfo i).lat = lat := by rfl) : HasRow i d lat f :=
  .one e _ he (fun _ _ => hv _) hx hl

/-- A word that also reads its destination. -/
theorem of_alu3d (e : Effect) {op : Word → Word → Word → Word}
    (he : ∀ s, e s = alu3d s i d a b op) (hv : ∀ r, f r = [op (r d 0) (r a 0) (r b 0)])
    (hx : ∀ s, exec i s = e s := by intro; rfl) (hl : (wordInfo i).lat = lat := by rfl) : HasRow i d lat f :=
  .one e _ he (fun _ _ => hv _) hx hl

theorem of_alu2 (e : Effect) {op : Word → Word}
    (he : ∀ s, e s = alu2 s i d a op) (hv : ∀ r, f r = [op (r a 0)])
    (hx : ∀ s, exec i s = e s := by intro; rfl) (hl : (wordInfo i).lat = lat := by rfl) : HasRow i d lat f :=
  .one e _ he (fun _ _ => hv _) hx hl

theorem of_pair3 (e : Effect) {op : DWord → DWord → DWord}
    (he : ∀ s, e s = pair3 s i d a b op) (hv : ∀ r, f r = two (op (Rules.pair r a) (Rules.pair r b)))
    (hx : ∀ s, exec i s = e s := by intro; rfl) (hl : (wordInfo i).lat = lat := by rfl) : HasRow i d lat f :=
  .pair e _ he (fun _ _ => hv _) hx hl

end HasRow

/-- R103 but for division, ADDI and MULI of R108, and R111 but for LDK. -/
theorem hasRow_of_arithmetic {i : Instr} {d : RegField} {lat : Nat} {f : Reads → List Word}
    (h : arithmetic i = some (d, lat, f)) : HasRow i d lat f := by
  unfold arithmetic at h
  split at h <;> cases h
  · exact .of_alu3 (execAdd _ _ _ _) (fun _ => rfl) (fun _ => congrArg ([·]) (ofNat_add_toNat ..))
  · exact .of_alu3 (execSub _ _ _ _) (fun _ => rfl) (fun _ => congrArg ([·]) (ofInt_sub_toNat ..))
  · exact .of_alu3 (execAdds _ _ _ _) (fun _ => rfl) (fun _ => congrArg ([·]) (ofInt_clamp _))
  · exact .of_alu3 (execSubs _ _ _ _) (fun _ => rfl) (fun _ => congrArg ([·]) (ofInt_clamp _))
  · exact .of_alu3 (execMul _ _ _ _) (fun _ => rfl) (fun _ => congrArg ([·]) (ofNat_mul_toNat ..))
  · exact .of_alu3 (execMulhi _ _ _ _) (fun _ => rfl) (fun _ => rfl)
  · exact .of_alu3 (execMulhu _ _ _ _) (fun _ => rfl) (fun _ => rfl)
  · exact .of_alu3d (execMad _ _ _ _) (fun _ => rfl) (fun _ => congrArg ([·]) (ofNat_mul_add_toNat ..))
  · exact .of_alu3 (execMin _ _ _ _) (fun _ => rfl) (fun _ => congrArg ([·]) (ofInt_min ..))
  · exact .of_alu3 (execMax _ _ _ _) (fun _ => rfl) (fun _ => congrArg ([·]) (ofInt_max ..))
  · exact .of_alu3 (execMinu _ _ _ _) (fun _ => rfl) (fun _ => congrArg ([·]) (ofNat_min ..))
  · exact .of_alu3 (execMaxu _ _ _ _) (fun _ => rfl) (fun _ => congrArg ([·]) (ofNat_max ..))
  · exact .of_alu2 (execAddi _ _ _ _) (fun _ => rfl) (fun _ => congrArg ([·]) (ofInt_add_sext _ _ (by decide)))
  · exact .of_alu2 (execMuli _ _ _ _) (fun _ => rfl) (fun _ => congrArg ([·]) (ofInt_mul_sext _ _ (by decide)))
  · exact .one (execLi _ _ _) _ (fun _ => rfl) (fun _ _ => congrArg ([·]) (BitVec.ofNat_toNat 32 _))
  · exact .one (execLih _ _ _) _ (fun _ => rfl) (fun _ _ => congrArg ([·]) (ofNat_high_low ..))
  · exact .one (execAddiw _ _ _) _ (fun _ => rfl) (fun _ _ => congrArg ([·]) (ofInt_add_sext _ _ (by decide)))

/-- R104, R105, and the logic and shift words of R108. -/
theorem hasRow_of_logic {i : Instr} {d : RegField} {lat : Nat} {f : Reads → List Word}
    (h : logic i = some (d, lat, f)) : HasRow i d lat f := by
  unfold logic at h
  split at h <;> cases h
  · exact .of_alu3 (execAnd _ _ _ _) (fun _ => rfl) (fun _ => rfl)
  · exact .of_alu3 (execOr _ _ _ _) (fun _ => rfl) (fun _ => rfl)
  · exact .of_alu3 (execXor _ _ _ _) (fun _ => rfl) (fun _ => rfl)
  · exact .of_alu3 (execAndn _ _ _ _) (fun _ => rfl) (fun _ => rfl)
  · exact .of_alu3 (execShl _ _ _ _) (fun _ => rfl) (fun _ => congrArg ([·]) (shl_eq_shlW ..))
  · exact .of_alu3 (execShr _ _ _ _) (fun _ => rfl) (fun _ => congrArg ([·]) (shr_eq_shrW ..))
  · exact .of_alu3 (execSar _ _ _ _) (fun _ => rfl) (fun _ => congrArg ([·]) (sar_eq_sarW ..))
  · exact .of_alu3 (execRotl _ _ _ _) (fun _ => rfl) (fun _ => congrArg ([·]) (rotl_eq_rotlW ..))
  · exact .of_alu2 (execPopc _ _ _) (fun _ => rfl) (fun _ => congrArg ([·]) (popc_eq_popcW _))
  · exact .of_alu2 (execClz _ _ _) (fun _ => rfl) (fun _ => congrArg ([·]) (clz_eq_clzW _))
  · exact .of_alu2 (execBrev _ _ _) (fun _ => rfl) (fun _ => congrArg ([·]) (brev_eq_brevW _))
  · exact .of_alu2 (execMov _ _ _) (fun _ => rfl) (fun _ => rfl)
  · exact .of_alu3 (execBfx _ _ _ _) (fun _ => rfl) (fun _ => congrArg ([·]) (bfx_eq_bfxW ..))
  · exact .of_alu3d (execBfi _ _ _ _) (fun _ => rfl) (fun _ => congrArg ([·]) (bfi_eq_bfiW ..))
  · exact .of_alu3d (execSel _ _ _ _) (fun _ => rfl) (fun _ => congrArg ([·]) ((ite_not ..).symm))
  · exact .of_alu2 (execAndi _ _ _ _) (fun _ => rfl) (fun _ => congrArg ([·]) (congrArg _ (BitVec.ofNat_toNat 32 _)))
  · exact .of_alu2 (execOri _ _ _ _) (fun _ => rfl) (fun _ => congrArg ([·]) (congrArg _ (BitVec.ofNat_toNat 32 _)))
  · exact .of_alu2 (execXori _ _ _ _) (fun _ => rfl) (fun _ => congrArg ([·]) (congrArg _ (BitVec.ofNat_toNat 32 _)))
  · exact .of_alu2 (execShli _ _ _ _) (fun _ => rfl) (fun _ => congrArg ([·]) (shl_zext _ _ (by decide)))
  · exact .of_alu2 (execShri _ _ _ _) (fun _ => rfl) (fun _ => congrArg ([·]) (shr_zext _ _ (by decide)))
  · exact .of_alu2 (execSari _ _ _ _) (fun _ => rfl) (fun _ => congrArg ([·]) (sar_zext _ _ (by decide)))

/-- R106, R107 and the compares of R108. -/
theorem hasRow_of_pairsAndCompares {i : Instr} {d : RegField} {lat : Nat} {f : Reads → List Word}
    (h : pairsAndCompares i = some (d, lat, f)) : HasRow i d lat f := by
  unfold pairsAndCompares at h
  split at h <;> cases h
  · exact .of_pair3 (execAddl _ _ _ _) (fun _ => rfl) (fun _ => congrArg two (ofNat_add_toNat ..))
  · exact .of_pair3 (execSubl _ _ _ _) (fun _ => rfl) (fun _ => congrArg two (ofInt_sub_toNat ..))
  · exact .pair (execMulw _ _ _ _) _ (fun _ => rfl) (fun _ _ => rfl)
  · exact .pair (execMulwu _ _ _ _) _ (fun _ => rfl) (fun _ _ => rfl)
  · exact .pair (execShll _ _ _ _) _ (fun _ => rfl) (fun _ _ => congrArg two (shll_eq_shllW ..))
  · exact .pair (execShrl _ _ _ _) _ (fun _ => rfl) (fun _ _ => congrArg two (shrl_eq_shrlW ..))
  · exact .pair (execSarl _ _ _ _) _ (fun _ => rfl) (fun _ _ => congrArg two (sarl_eq_sarlW ..))
  · exact .pair (execMovl _ _ _) _ (fun _ => rfl) (fun _ _ => rfl)
  · exact .of_alu3 (execCmpeq _ _ _ _) (fun _ => rfl) (fun _ => rfl)
  · exact .of_alu3 (execCmpne _ _ _ _) (fun _ => rfl) (fun _ => rfl)
  · exact .of_alu3 (execCmplt _ _ _ _) (fun _ => rfl) (fun _ => rfl)
  · exact .of_alu3 (execCmple _ _ _ _) (fun _ => rfl) (fun _ => rfl)
  · exact .of_alu3 (execCmpltu _ _ _ _) (fun _ => rfl) (fun _ => rfl)
  · exact .of_alu3 (execCmpleu _ _ _ _) (fun _ => rfl) (fun _ => rfl)
  · exact .one (execCmpeql _ _ _ _) _ (fun _ => rfl) (fun _ _ => rfl)
  · exact .one (execCmpltl _ _ _ _) _ (fun _ => rfl) (fun _ _ => rfl)
  · exact .of_alu2 (execCmpeqi _ _ _ _) (fun _ => rfl) (fun _ => congrArg ([·]) (bool32_eq_sext _ _ (by decide)))
  · exact .of_alu2 (execCmplti _ _ _ _) (fun _ => rfl) (fun _ => congrArg ([·]) (bool32_lt_sext _ _ (by decide)))
  · exact .of_alu2 (execCmpltui _ _ _ _) (fun _ => rfl) (fun _ => rfl)

/-- Settles O1: every row of the three tables is the shared meaning of a word that its instruction runs. -/
theorem integerWords : Obligations.IntegerWords := by
  unfold Obligations.IntegerWords
  rintro i d lat f (h | h | h)
  · exact (hasRow_of_arithmetic h).fixedWord
  · exact (hasRow_of_logic h).fixedWord
  · exact (hasRow_of_pairsAndCompares h).fixedWord

end Sys2Proof.Machine
end

section
/-!
SUPPORT. What the group operations give each participant, in the terms of the rules' table (R114 to R117), and the
statement about them.
-/
namespace Sys2Proof.Machine
open Sys2Proof.Rules

/-! ## One update of each thread of a cohort -/

/-- Where no thread is named twice, updating one thread after another updates each once. -/
theorem State.foldl_updCtx_get? (f : Nat → Ctx → Ctx) (l : List Nat) (hl : l.Nodup) (s : State) (j : Nat) :
    (l.foldl (fun t id => t.updCtx id (f id)) s).ctxs.get? j =
      if j ∈ l then (s.ctxs.get? j).map (f j) else s.ctxs.get? j := by
  induction l generalizing s with
  | nil => simp
  | cons a l ih =>
    obtain ⟨ha, hl⟩ := List.nodup_cons.mp hl
    rw [List.foldl_cons, ih hl, State.updCtx_ctxs, Store.get?_adjust]
    by_cases e : j = a
    · subst e; simp [ha]
    · simp [e]

theorem State.foldl_updCtx_frame (f : Nat → Ctx → Ctx) (l : List Nat) (s : State) :
    l.foldl (fun t id => t.updCtx id (f id)) s =
      { s with ctxs := (l.foldl (fun t id => t.updCtx id (f id)) s).ctxs } := by
  induction l generalizing s with
  | nil => rfl
  | cons a l ih => rw [List.foldl_cons, ih]; rfl

/-- A group operation: it completes, every thread of its cohort takes the result that f gives it from what the cohort
held before, and nothing else changes (R114). -/
theorem groupWord_spec {s : State} {is : Issue} {i : Instr} (d : RegField) (f : State → Nat → List Nat → Nat → Word)
    (h : s.Ready is (wordInfo i) noneBusy) :
    ∃ t, groupWord s i d f = .next t ∧
      (∀ id ∈ is.cohort, (s.ctx id).Writes (t.ctx id) (s.now is.core) (wordInfo i).lat
        (numbered ((s.ctx id).resolve (s.now is.core) d) [f s (s.now is.core) is.cohort id]) [] 0) ∧
      t = { s with ctxs := t.ctxs, cores := t.cores, groups := t.groups, issue := none } ∧ s.Elsewhere t is := by
  obtain ⟨-, -, nodup, hx, hg⟩ := h.1
  have hw := State.foldl_updCtx_get?
    (fun id c => c.wr (s.now is.core) (wordInfo i).lat d 0 (f s (s.now is.core) is.cohort id)) is.cohort nodup s
  refine ⟨_, congrArg next (onceWord_next _ h rfl), fun id hid => ?_, ?_,
    elsewhere_finish _ _ _ hg ?_ ?_ (fun id hid => ?_)⟩
  · obtain ⟨c, hc⟩ := Option.isSome_iff_exists.mp (hx id hid)
    simp only [State.ctx, Store.getD_eq, State.finish_ctxs, State.mapCtxs_ctxs, Store.get?_mapKeys, hw, hid, hc,
      if_true, Option.map_some, Option.getD_some]
    exact Ctx.writes_wr ..
  · rw [State.foldl_updCtx_frame]; rfl
  · rw [State.foldl_updCtx_frame]; rfl
  · rw [State.foldl_updCtx_frame]; rfl
  · simp only [State.mapCtxs_ctxs, Store.get?_mapKeys, hw, hid, if_false]

/-! ## Lane masks -/

theorem getElem_one_shiftLeft (k : Nat) {j : Nat} (hj : j < 32) : ((1 : Word) <<< k)[j] = decide (k = j) := by
  rw [BitVec.getElem_shiftLeft, show ((1 : Word)[j - k] : Bool) = decide (j - k = 0) from BitVec.getElem_one _,
    Bool.eq_iff_iff]
  simp only [Bool.and_eq_true, Bool.not_eq_true', decide_eq_false_iff_not, decide_eq_true_eq]
  omega

theorem getElem_foldl_or_lane (lane : Nat → Nat) (l : List Nat) (m : Word) {j : Nat} (hj : j < 32) :
    (l.foldl (fun m u => m ||| (1 : Word) <<< lane u) m)[j] = (m[j] || l.any (fun u => decide (lane u = j))) := by
  induction l generalizing m with
  | nil => rw [List.foldl_nil, List.any_nil, Bool.or_false]
  | cons a l ih =>
    rw [List.foldl_cons, ih, List.any_cons, BitVec.getElem_or, getElem_one_shiftLeft _ hj, Bool.or_assoc]

theorem lanes_eq (s : State) (P : List Nat) (q : Nat → Bool) : lanes s P q = s.laneMask P q := by
  ext j hj
  rw [lanes, getElem_ofNat_sum_pow (fun l => P.any (fun u => decide ((s.ctx u).lane = l) && q u)) hj, State.laneMask,
    getElem_foldl_or_lane (fun u => (s.ctx u).lane)]
  simp [List.any_filter, Bool.and_comm]

/-! ## Segmented scans -/

/-- One place of a scan: the sum so far and the number of its segment. -/
def scanStep (add : Word → Word → Word) (p : Word × Nat) (x : Bool × Word) : Word × Nat :=
  if x.1 then (x.2, p.2 + 1) else (add p.1 x.2, p.2)

theorem scanFrom_cons (add : Word → Word → Word) (p : Word × Nat) (x : Bool × Word) (l : List (Bool × Word)) :
    scanFrom add p.1 p.2 (x :: l) = scanStep add p x :: scanFrom add (scanStep add p x).1 (scanStep add p x).2 l := by
  obtain ⟨head, v⟩ := x
  cases head <;> rfl

theorem scanFrom_concat (add : Word → Word → Word) (p : Word × Nat) (l : List (Bool × Word)) (x : Bool × Word) :
    scanFrom add p.1 p.2 (l ++ [x]) =
      scanFrom add p.1 p.2 l ++ [scanStep add ((scanFrom add p.1 p.2 l).getLastD p) x] := by
  induction l generalizing p with
  | nil => rw [List.nil_append, scanFrom_cons]; rfl
  | cons y l ih => rw [List.cons_append, scanFrom_cons, ih, scanFrom_cons, List.getLastD_cons, List.cons_append]

/-- The number of the segment of a place; place 0 heads segment 1. -/
def segmentNumber (head : Nat → Bool) : Nat → Nat
  | 0 => 1
  | j + 1 => if head (j + 1) then segmentNumber head j + 1 else segmentNumber head j

/-- The scan of the places below n, of which place 0 is a head. -/
theorem scanFrom_range (add : Word → Word → Word) (head : Nat → Bool) (v : Nat → Word) (n : Nat) :
    scanFrom add 0 0 ((List.range n).map (fun k => (decide (k = 0) || head k, v k))) =
      (List.range n).map (fun k => (scanAt add head v k, segmentNumber head k)) := by
  induction n with
  | zero => rfl
  | succ n ih =>
    rw [List.range_succ, List.map_append, List.map_append, List.map_singleton, List.map_singleton,
      scanFrom_concat add (0, 0), ih]
    congr 2
    cases n with
    | zero => rfl
    | succ n =>
      rw [List.range_succ, List.map_append, List.map_singleton, List.getLastD_concat]
      cases h : head (n + 1) <;> simp [scanStep, scanAt, segmentNumber, h]

/-- The participants by place: where no two are alike, only the one at place 0 is the first. -/
theorem map_eq_map_range {α : Type} (P : List Nat) (hP : P.Nodup) (g : Bool → Nat → α) :
    P.map (fun id => g (decide (id = P.headD 0)) id) =
      (List.range P.length).map (fun k => g (decide (k = 0)) (P.getD k 0)) := by
  refine List.ext_getElem (by simp) (fun k hk _ => ?_)
  rw [List.length_map] at hk
  have first : P[k] = P.headD 0 ↔ k = 0 := by
    cases P with
    | nil => cases hk
    | cons a l => exact List.getElem_inj (h₁ := Nat.zero_lt_succ _) hP
  rw [List.getElem_map, List.getElem_map, List.getElem_range, List.getD_eq_getElem?_getD, List.getElem?_eq_getElem hk,
    Option.getD_some, decide_eq_decide.mpr first]

theorem segmentNumber_mono (head : Nat → Bool) (j u : Nat) : segmentNumber head j ≤ segmentNumber head (j + u) := by
  induction u with
  | zero => exact Nat.le_refl _
  | succ u ih => rw [← Nat.add_assoc, segmentNumber]; split <;> omega

/-- The last place of the segment of place j: it lies at j or after, no place after j up to it is a head, and the
next place, if there is one, is. -/
theorem segmentEnd_spec (head : Nat → Bool) {n j : Nat} (h : j < n) :
    j ≤ segmentEnd head n j ∧ segmentEnd head n j < n ∧
      (∀ k, j < k → k ≤ segmentEnd head n j → head k = false) ∧
      (segmentEnd head n j + 1 < n → head (segmentEnd head n j + 1) = true) := by
  have len : ((List.range (n - 1 - j)).takeWhile (fun k => !head (j + 1 + k))).length =
      (List.range (n - 1 - j)).findIdx (fun k => head (j + 1 + k)) := by
    rw [List.takeWhile_eq_take_findIdx_not, List.length_take, Nat.min_eq_left List.findIdx_le_length]
    simp
  have le := List.findIdx_le_length (p := fun k => head (j + 1 + k)) (xs := List.range (n - 1 - j))
  rw [segmentEnd, len]
  rw [List.length_range] at le
  refine ⟨by omega, by omega, fun k hk hk' => ?_, fun hn => ?_⟩
  · have := List.not_of_lt_findIdx (p := fun k => head (j + 1 + k)) (xs := List.range (n - 1 - j)) (i := k - (j + 1))
      (by omega)
    simpa [show j + 1 + (k - (j + 1)) = k by omega] using this
  · have := List.findIdx_getElem (p := fun k => head (j + 1 + k)) (xs := List.range (n - 1 - j))
      (w := by rw [List.length_range]; omega)
    rw [List.getElem_range] at this
    rw [← this]
    congr 1
    omega

theorem segmentNumber_eq (head : Nat → Bool) {j k : Nat} (h : j ≤ k) (hk : ∀ m, j < m → m ≤ k → head m = false) :
    segmentNumber head k = segmentNumber head j := by
  obtain ⟨u, rfl⟩ := Nat.exists_eq_add_of_le h
  induction u with
  | zero => rfl
  | succ u ih =>
    rw [← Nat.add_assoc, segmentNumber, hk (j + u + 1) (by omega) (by omega), if_neg Bool.false_ne_true]
    exact ih (Nat.le_add_right j u) (fun m hm hm' => hk m hm (by omega))

/-- The places of a segment end with its last one. -/
theorem getLastD_filter_segment {α : Type} (head : Nat → Bool) (g : Nat → α) (x : α) {n j : Nat} (h : j < n) :
    (((List.range n).filter (fun k => decide (segmentNumber head k = segmentNumber head j))).map g).getLastD x =
      g (segmentEnd head n j) := by
  obtain ⟨le, lt, inside, next⟩ := segmentEnd_spec head h
  generalize segmentEnd head n j = e at le lt inside next
  have same : segmentNumber head e = segmentNumber head j := segmentNumber_eq head le inside
  obtain ⟨m, rfl⟩ := Nat.exists_eq_add_of_le (show e + 1 ≤ n from lt)
  have after : ((List.range m).map (e + 1 + ·)).filter
      (fun k => decide (segmentNumber head k = segmentNumber head j)) = [] := by
    refine List.filter_eq_nil_iff.mpr (fun k hk => ?_)
    obtain ⟨u, hu, rfl⟩ := List.mem_map.mp hk
    have mono := segmentNumber_mono head (e + 1) u
    rw [List.mem_range] at hu
    rw [segmentNumber, next (by omega), if_pos rfl, same] at mono
    simp only [decide_eq_true_eq]
    omega
  have last : [e].filter (fun k => decide (segmentNumber head k = segmentNumber head j)) = [e] :=
    List.filter_cons_of_pos (p := fun k => decide (segmentNumber head k = segmentNumber head j)) (decide_eq_true same)
  rw [List.range_add, List.filter_append, after, List.append_nil, List.range_succ, List.filter_append, last,
    List.map_append, List.map_singleton, List.getLastD_concat]

/-! ## The values of the group operations -/

/-- The scan of a cohort, by place. -/
theorem groupScan_eq (s : State) (now : Nat) (a b : RegField) {P : List Nat} (hP : P.Nodup) :
    s.groupScan now a b P = (List.range P.length).map (fun k =>
      (groupResult.scan P (fun u => (s.ctx u).rd now) a b k,
        segmentNumber (groupResult.head P (fun u => (s.ctx u).rd now) b) k)) := by
  have first : P.headD 0 = P.getD 0 0 := by cases P <;> rfl
  rw [State.groupScan,
    map_eq_map_range P hP (fun first id => (first || (s.val now b id).getLsbD 0, s.val now a id)), first]
  exact scanFrom_range ..

theorem groupScan_getD (s : State) (now : Nat) (a b : RegField) {P : List Nat} (hP : P.Nodup) {k : Nat}
    (hk : k < P.length) :
    (s.groupScan now a b P).getD k (0, 0) =
      (groupResult.scan P (fun u => (s.ctx u).rd now) a b k,
        segmentNumber (groupResult.head P (fun u => (s.ctx u).rd now) b) k) := by
  rw [groupScan_eq s now a b hP, List.getD_eq_getElem?_getD, List.getElem?_map, List.getElem?_range hk, Option.map_some,
    Option.getD_some]

/-- GREDADD: the last sum of a place's segment. -/
theorem groupScan_getLastD_segment (s : State) (now : Nat) (a b : RegField) {P : List Nat} (hP : P.Nodup) {k : Nat}
    (hk : k < P.length) :
    ((s.groupScan now a b P).filter (fun p => p.2 = ((s.groupScan now a b P).getD k (0, 0)).2)).getLastD (0, 0) =
      (groupResult.scan P (fun u => (s.ctx u).rd now) a b
          (segmentEnd (groupResult.head P (fun u => (s.ctx u).rd now) b) P.length k),
        segmentNumber (groupResult.head P (fun u => (s.ctx u).rd now) b)
          (segmentEnd (groupResult.head P (fun u => (s.ctx u).rd now) b) P.length k)) := by
  rw [groupScan_getD s now a b hP hk, groupScan_eq s now a b hP, List.filter_map]
  exact getLastD_filter_segment _ _ _ hk

/-- COMPACT: the base and the number of participants that a stable sort puts before. -/
theorem ofNat_add_countP (base : Word) (P : List Nat) (key : Nat → Word) (lane : Nat → Nat) (id : Nat) :
    BitVec.ofNat 32 (base.toNat + P.countP (fun u => decide ((key u).toNat < (key id).toNat ∨
        (key u = key id ∧ lane u < lane id)))) =
      base + BitVec.ofNat 32 (P.filter (fun u =>
        (key u).ult (key id) || (key u == key id && decide (lane u < lane id)))).length := by
  rw [List.countP_eq_length_filter, BitVec.ofNat_add, BitVec.ofNat_toNat, BitVec.setWidth_eq]
  have test : ∀ u, decide ((key u).toNat < (key id).toNat ∨ (key u = key id ∧ lane u < lane id)) =
      ((key u).ult (key id) || (key u == key id && decide (lane u < lane id))) := fun u => by
    rw [Bool.decide_or, Bool.decide_and]; rfl
  rw [funext test]

/-- BALLOT tests for a value other than 0. -/
theorem decide_ne_zero (x : Word) : decide (x ≠ 0) = (x != 0) := decide_not

/-! ## The table -/

/-- An instruction is a group operation that gives each thread of P what the table does. -/
inductive HasGroupRow (s : State) (P : List Nat) (now : Nat) (i : Instr) (d : RegField) (f : Nat → Word) : Prop where
  | intro (e : Effect) (g : State → Nat → List Nat → Nat → Word)
      (he : ∀ t, e t = groupWord t i d g) (hv : ∀ id ∈ P, f id = g s now P id)
      (hx : ∀ t, exec i t = e t := by intro; rfl) (hl : (wordInfo i).lat = 4 := by rfl)

theorem hasGroupRow_of_groupResult {s : State} {P : List Nat} {now : Nat} {i : Instr} {d : RegField} {f : Nat → Word}
    (hP : P.Nodup) (h : groupResult s P (fun u => (s.ctx u).rd now) i = some (d, f)) : HasGroupRow s P now i d f := by
  have place {id : Nat} (hid : id ∈ P) : P.idxOf id < P.length := List.idxOf_lt_length_of_mem hid
  unfold groupResult at h
  split at h <;> cases h
  · exact .intro (execShfl _ _ _ _) _ (fun _ => rfl) (fun _ _ => rfl)
  · exact .intro (execBallot _ _ _) _ (fun _ => rfl)
      (fun _ _ => by rw [lanes_eq, funext (fun u => decide_ne_zero _)]; rfl)
  · exact .intro (execMatchMask _ _ _) _ (fun _ => rfl) (fun _ _ => lanes_eq ..)
  · exact .intro (execCompact _ _ _ _) _ (fun _ => rfl) (fun id _ => ofNat_add_countP _ P _ _ id)
  · exact .intro (execGscan _ _ _ _) _ (fun _ => rfl)
      (fun _ hid => congrArg Prod.fst (groupScan_getD s now _ _ hP (place hid)).symm)
  · exact .intro (execGredadd _ _ _ _) _ (fun _ => rfl)
      (fun _ hid => congrArg Prod.fst (groupScan_getLastD_segment s now _ _ hP (place hid)).symm)

/-- Settles O7: a group operation is the shared meaning of R114, and its table gives each participant what it does. -/
theorem groupOperations : Obligations.GroupOperations := by
  unfold Obligations.GroupOperations
  intro i s is d f h hr
  obtain ⟨-, -, nodup, -, -⟩ := hr.1
  obtain ⟨e, g, he, hv, hx, hl⟩ := hasGroupRow_of_groupResult nodup h
  obtain ⟨t, ht, hw, hf, hs⟩ := groupWord_spec d g hr
  refine ⟨t, (hx s).trans ((he s).trans ht), fun id hid => ?_, hf, hs⟩
  have := hw id hid
  rwa [numbered_one, hl, ← hv id hid] at this

end Sys2Proof.Machine
end
